-- ==== Sys2Proof/Word.lean ====
section
/-!
DEFINITION. Word types and the two shapes of plain data the model is built from.
-/

namespace Sys2Proof

/-- A byte of memory or of a record. -/
abbrev Byte := BitVec 8
/-- A 32-bit register or handle. -/
abbrev W32 := BitVec 32
/-- A 64-bit register. -/
abbrev W64 := BitVec 64
/-- A 128-bit instruction word (R55). -/
abbrev W128 := BitVec 128

/-- A sparse table: (index, value) pairs, indices rising. An index with no pair holds the default that its reader names. -/
abbrev Tbl (α : Type) := List (Nat × α)

/-- Bits [hi:lo] of a number (R3: bit 0 is the least significant). -/
def bitsOf (w hi lo : Nat) : Nat := (w >>> lo) % 2 ^ (hi + 1 - lo)

/-- Bit n of a number. -/
def bitOf (w n : Nat) : Bool := w.testBit n

/-- The least multiple of m that is at least n (m nonzero). -/
def roundUp (n m : Nat) : Nat := (n + m - 1) / m * m

/-- n rounded up to 4 KiB (R25). -/
def up4k (n : Nat) : Nat := roundUp n 4096

/-- Addition that stops at 2^bits - 1. -/
def satAdd (bits a b : Nat) : Nat := min (a + b) (2 ^ bits - 1)

/-- 1 for true, 0 for false. -/
def b2n (b : Bool) : Nat := if b then 1 else 0

end Sys2Proof
end

