-- ==== Sys2Proof/Config.lean ====
section
/-!
DEFINITION. What an implementation fixes (constants the spec gives or a log entry names) and the free values: opaque constants with no body, applied to data or to the
counter State.free, about which nothing can be proved.
-/

namespace Sys2Proof.Config

/-- Free values of the security core's CTR_DRBG: the device unique key (R310). Log entry 4. -/
opaque duk : Nat → BitVec 256
/-- The key PRG_KEY_PUB reads, derived from the DUK and the identity (R316). Log entry 5. -/
opaque keyPub : BitVec 256 → Nat
/-- AES-KW unwrap of PRG_KEY_XFER under the ECDH secret of R317, from the DUK, the device identity, the partition, the ephemeral key and the wrapped key: none when the integrity
check fails. Log entry 5. -/
opaque keyUnwrap : BitVec 256 → W64 → Nat → Nat → Nat → Option (BitVec 256)
/-- The data key K_d of R318 from the partition key, the salt, the partition and KEYGEN. Log entry 5. -/
opaque dataKey : BitVec 256 → W128 → Nat → Nat → BitVec 256
/-- The key stream of AES-256-GCM for one 4 KiB extent under K_d and an IV (R318). Log entry 5. -/
opaque gcmStream : BitVec 256 → Nat → Nat
/-- The tag of AES-256-GCM over additional data and ciphertext (R318). Log entry 5. -/
opaque gcmTag : BitVec 256 → Nat → Nat → Nat → Nat
/-- Whether a supply loss during a fuse blow leaves a fuse blown (R310). Log entry 35. -/
opaque fuseLoss : Nat → Bool
/-- Whether a byte of T1 or T2 keeps its value in an erase that stopped (R312). Log entry 36. -/
opaque eraseKeeps : Nat → Nat → Bool
/-- Whether the image of a context on a sequencer that becomes unusable can not be saved (Table 2.9, cause 0x0A): the spec does not say when. Log entry 41. -/
opaque imageLost : Nat → Bool
/-- The payload of a NaN that an FP32 operation or a conversion produces (Table 6.7 fixes only its sign and that it is quiet). Log entry 6. -/
opaque nanPayload : Nat → Nat
/-- Sign of a NaN produced from operands that are not NaN (log entry 6). -/
opaque nanSign : Nat → Bool
/-- The result of a frame that a satellite or a codec lane reads in error, where no value is stated (R168). Log entry 6. -/
opaque errData : Nat → Byte

/-- The format in which a SWEEP reads a gradient object that no LAND has written: the spec names none. Log entry 24. -/
opaque gradFmt : Nat → Nat

/-- MIN and MAX of a watch sample without a finite element, which the spec does not state. Log entry 6. -/
opaque emptyStat : Nat → W32

/-- The code of a core in an image, its data as loaded, and its 16 protection regions (first address, bytes), from the bytes after the header: the spec does not give their layout.
Log entry 142. -/
opaque coreCode : Nat → List (BitVec 8) → List (BitVec 8)
opaque coreData : Nat → List (BitVec 8) → List (BitVec 8)
opaque coreRegions : Nat → List (BitVec 8) → List (Nat × Nat)
/-- What the cores keep in the mailbox and in their data pages for a partition. Log entry 142. -/
opaque mailbox : Nat → List (BitVec 8)
opaque fwPage : Nat → List (BitVec 8)

/-- Fused calibration values (Table 11.7, PRG_CAL_FACTORY): junction sensor offsets 0, T_thr 100 °C and T_stop 110 °C in 1/16 °C, ceiling 1,800 MHz, trim 0. -/
def calFactory (e : Nat) : Int :=
  if e = 8 then 1600 else if e = 9 then 1760 else if e = 10 then 1800 else 0

/-- Bounds of the user offsets (Table 11.9). -/
def calBounds (e : Nat) : Int × Int :=
  if e < 8 then (0, 80) else if e = 8 then (-320, 0) else if e = 10 then (-600, 0) else if e = 11 then (0, 2000) else (0, 0)

/-- Size of the Stockpot and of one bank (Table 0.1). -/
def t0Size : Nat := 134217728
def bankSize : Nat := 2097152
/-- The directory region: 2,097,152 entries of 64 bytes (R10), placed lowest in T1 (log entry 9). -/
def dirRegion : Nat := 134217728
def dirEntries : Nat := 2097152
/-- The features a shipped release offers (R303). -/
def offer : Nat := 0xFFFB

end Sys2Proof.Config
end

