-- ==== Sys2Proof/Syntax.lean ====
section
/-!
DEFINITION. The commands of the block: one constructor per row of spec/opcode_table.json, with the row's operands. A Kwemal instruction's operand is the context that
issues it; its words are read from the plan object at the context's PC (R46, R55). An operation in flight is named by its number in order of acceptance.
-/

namespace Sys2Proof

/-- The outcome of a read the block makes through ports, as the carrier answers it (R262, Table 10.4). -/
inductive RdRes
  | ok
  | checkFail
  | portFault
  deriving DecidableEq, Repr

/-- A peer packet's header as it arrives (Table 9.2). `crcOk` says whether the CRC field agrees with the bytes; `known` is false where the TYPE
byte is none of Table 9.3's, so that the row stands for such a packet (R250). -/
structure Hdr where
  ver : BitVec 4
  cls : BitVec 2
  src : BitVec 16
  dst : BitVec 16
  jobtag : BitVec 16
  seq : BitVec 24
  ackv : Bool
  unseq : Bool
  ack : BitVec 24
  id : BitVec 32
  arg : BitVec 64
  crcOk : Bool
  known : Bool
  deriving DecidableEq, Repr

/-- The payload of a Hawthorn packet (Table 9.4). -/
structure HawPay where
  digest : W64
  step : W64
  fmt : Byte
  mixed : Bool
  mismatch : Bool
  carr : BitVec 16
  ndis : W32
  deriving DecidableEq, Repr

/-- A march of the start-up self-test that failed (R326, R327): row of Table 12.6 (5 or 6), unit, number of failing rows, the first failing row and its bit. -/
structure March where
  kind : BitVec 4
  unit : BitVec 7
  rows : Nat
  row : BitVec 16
  bit : BitVec 10
  deriving DecidableEq, Repr

/-- What the pins, the carrier configuration and the start-up self-test say at a cold or warm reset (R261, R270, R289, R326). -/
structure PowerUp where
  /-- x_rev of each port of the split protocol, two bits a port index (R261). -/
  revs : W64
  /-- hp_io_sel (R274). -/
  ioSel : BitVec 1
  /-- HP0MODE and HP1MODE as the controllers report them (Table 10.17). -/
  hp0mode : BitVec 2
  hp1mode : BitVec 2
  /-- Satellites whose links trained, and links trained with a correction (R169, R270). -/
  satPresent : W64
  satFixed : W64
  /-- The block's T1 and T2 regions in bytes, from the carrier configuration (R289 step 5). -/
  t1Size : Nat
  t2Size : Nat
  /-- Clocks in MHz from which the ceilings of Table 4.5 are formed (R273). -/
  tfMHz : Nat
  bmMHz : Nat
  peerMHz : Nat
  coreMHz : Nat
  /-- Units other than banks and directory-cache slices that fail the start-up self-test, in the layout of the first word of PRG_UNIT_HEALTH (R326). -/
  badUnits : W64
  /-- Marches that failed. -/
  marches : List March
  /-- Encode lanes [15:0] and decode lanes [31:16] that fail (R326, R328). -/
  badLanes : W32
  /-- A unit tested only at start-up fails (R326). -/
  badCore : Bool
  /-- The cores that send a heartbeat under the image that the ROM starts, and under that of the other slot, where it comes to that (R301). -/
  heartbeats : BitVec 11
  heartbeats2 : BitVec 11
  deriving DecidableEq, Repr

/-- The meeting points of the management plane (chapter 11, Table 11.1). -/
inductive MeetPoint
  | keyStore | aesSlots | throttleCal | cfgTables | budgets | queues | fences | taps
  deriving DecidableEq, Repr

/-- What raises a protection fault on a core (R293): an error of its memories, an access to an address, a write to a meeting point. -/
inductive CoreFault
  | memErr
  | access (addr : W32)
  | point (p : MeetPoint)
  deriving DecidableEq, Repr

/-- A firmware image as the image instrument or a copy delivers it: the fields of Table 11.3, whether the signature of R315 verifies, and the rest. -/
structure FwImage where
  magic : W32
  release : BitVec 16
  ifMin : Byte
  ifMax : Byte
  setMin : Byte
  setMax : Byte
  setWrite : Byte
  len : W32
  offer : W64
  rsvZero : Bool
  sigOk : Bool
  /-- What follows the header: code and data of each core, and the signature (R299). -/
  body : List Byte
  deriving DecidableEq, Repr

/-- What a refused access of the register window is (R42, R280, R351): a read or a write of the host's root port, or a request of any other requester. -/
inductive BadAcc
  | read
  | write
  | foreign
  deriving DecidableEq, Repr

/-- The commands of the block, one per row of spec/opcode_table.json, in the table's order. -/
inductive Instr
  -- Kwemal instructions (03)
  | nop (c : BitVec 8)
  | decl (c : BitVec 8)
  | bind (c : BitVec 8)
  | retire (c : BitVec 8)
  | pin (c : BitVec 8)
  | unpin (c : BitVec 8)
  | keep (c : BitVec 8)
  | sqz (c : BitVec 8)
  | spill (c : BitVec 8)
  | drop (c : BitVec 8)
  | stock (c : BitVec 8)
  | fetch (c : BitVec 8)
  | promote (c : BitVec 8)
  | demote (c : BitVec 8)
  | rcpdef (c : BitVec 8)
  | rcprun (c : BitVec 8)
  | rngcap (c : BitVec 8)
  | rngset (c : BitVec 8)
  | gather (c : BitVec 8)
  | sweep (c : BitVec 8)
  | land (c : BitVec 8)
  | tstream (c : BitVec 8)
  | xchg (c : BitVec 8)
  | snap (c : BitVec 8)
  | bounce (c : BitVec 8)
  | fill (c : BitVec 8)
  | cmp (c : BitVec 8)
  | inline (c : BitVec 8)
  | wait (c : BitVec 8)
  | signal (c : BitVec 8)
  | fence (c : BitVec 8)
  | bar (c : BitVec 8)
  | markdep (c : BitVec 8)
  | deadline (c : BitVec 8)
  | epoch (c : BitVec 8)
  | budget (c : BitVec 8)
  | watch (c : BitVec 8)
  | report (c : BitVec 8)
  | jump (c : BitVec 8)
  | loop (c : BitVec 8)
  | halt (c : BitVec 8)
  -- exceptions and fills (02)
  | opcodeUnassigned (c : BitVec 8)
  | unreportedFailure (c : BitVec 8)
  | icacheFill (c : BitVec 8) (r : RdRes)
  | directoryMissFill (c : BitVec 8)
  -- doorbell commands (02): context, slot, TAG
  | load (c : BitVec 8) (slot : BitVec 1) (tag : BitVec 24)
  | planLoadDone (c : BitVec 8) (slot : BitVec 1)
  | start (c : BitVec 8) (slot : BitVec 1) (tag : BitVec 24)
  | stopDrain (c : BitVec 8) (slot : BitVec 1) (tag : BitVec 24)
  | stopAbort (c : BitVec 8) (slot : BitVec 1) (tag : BitVec 24)
  | resume (c : BitVec 8) (slot : BitVec 1) (tag : BitVec 24)
  | reset (c : BitVec 8) (slot : BitVec 1) (tag : BitVec 24)
  | unload (c : BitVec 8) (slot : BitVec 1) (tag : BitVec 24)
  | contextSwitch (q : BitVec 4)
  | ladleIssue (c : BitVec 8)
  | watchdog (c : BitVec 8)
  | wfgBuild (p : BitVec 4) (c : BitVec 8)
  -- windows, seals and ages (01, 04)
  | windowBoundary (tpslot : Bool) (codecsat : Bool)
  | sealWatchdog (x : BitVec 21)
  | agerVisit (x : BitVec 21)
  -- data plane (04, 07): `ready` holds the ports that can accept a request in this clock
  | burstSlot (g : BitVec 2) (ready : BitVec 31)
  | moveStart (o : Nat)
  | latestStart (o : Nat)
  | moveDone (o : Nat)
  -- Coppice (05)
  | recipeDispatch (o : Nat)
  | stepLaunch (o : Nat) (k : BitVec 16)
  | recipeDone (o : Nat) (r : RdRes)
  | inputWaitTimeout (o : Nat)
  /-- `status` is none for a response whose MTYPE is none of Table 5.4. -/
  | done (cl : BitVec 3) (tag : Byte) (status : Option Byte) (detail : W32)
  | rngAck (cl : BitVec 3) (tag : Byte)
  | rngData (cl : BitVec 3) (tag : Byte) (found : Bool) (lost : Bool) (base : W64)
  | stepTimeout (cl : BitVec 3) (tag : Byte)
  -- channels and descriptors (07)
  | chanDoorbell (ch : BitVec 8) (head : W64)
  | descriptorFetch (ch : BitVec 8) (r : RdRes)
  | copy (ch : BitVec 8)
  | descFill (ch : BitVec 8)
  | descCmp (ch : BitVec 8)
  | igather (ch : BitVec 8)
  | descNop (ch : BitVec 8)
  | chanEnable (ch : BitVec 8)
  | chanDisableDrain (ch : BitVec 8)
  | chanDisableAbort (ch : BitVec 8)
  | partEnable (p : BitVec 4)
  | partDisableDrain (p : BitVec 4)
  | partDisableAbort (p : BitVec 4)
  | cqHeadWrite (q : BitVec 12) (head : W32)
  | pacingRequest (l : Byte)
  | overrun (l : Byte)
  | plStuck (l : Byte)
  | pairCheck (l : Byte)
  | stuckClear (l : Byte)
  | clusterHung (k : BitVec 3)
  | orphanTags (k : BitVec 3)
  -- semaphores (09): `hw` is the hardware addition that meets the write in the same clock, 0 for none
  | semWrite (n : BitVec 13) (v : W32) (hw : BitVec 16)
  | semAdd (n : BitVec 13) (v : W32)
  -- peer packets (09)
  | hello (h : Hdr) (maxVer : Byte) (ncarr : W32) (jobtag : BitVec 16)
  | ack (h : Hdr)
  | nak (h : Hdr)
  | token (h : Hdr) (t : HawPay)
  | verify (h : Hdr) (t : HawPay)
  | vreply (h : Hdr) (t : HawPay)
  | release (h : Hdr) (t : HawPay)
  | decline (h : Hdr)
  | shardreq (h : Hdr) (shard : BitVec 16) (sequence : W32) (rows : List W32)
  | xnotice (h : Hdr) (index : W32) (rawlen : W64) (encoded : Bool) (prot : Bool)
  | cnotice (h : Hdr) (step : W64) (length : W64)
  | data (h : Hdr) (payload : List Byte)
  | rdone (h : Hdr)
  | replayTimeout (dst : BitVec 16) (cls : BitVec 2)
  | relink (carrier : BitVec 16)
  | relinkAll
  | landCutoff (o : Nat)
  -- ports (10)
  | readResponse (port : BitVec 5) (tag : BitVec 12) (status : BitVec 2) (poison : Bool) (last : Bool)
  | writeResponse (port : BitVec 5) (tag : BitVec 12) (status : BitVec 2)
  | targetRequest (port : BitVec 5) (src : BitVec 6) (tag : BitVec 12) (wr : Bool) (addr : BitVec 56) (len : Byte) (beats : List Byte) (poison : Bool) (last : Bool)
  | sourceReset (port : BitVec 5) (src : BitVec 6)
  | portTimeout (port : BitVec 5) (response : Bool)
  | portRetire (port : BitVec 5)
  | portReset (port : BitVec 5)
  | restore (port : BitVec 5)
  | portResetAck (port : BitVec 5) (rise : Bool)
  | portResetTimeout (port : BitVec 5)
  | backLaneCheck (sat : BitVec 6)
  | satTrainingTimeout (sat : BitVec 6)
  -- host (10)
  /-- `p` is 16 where the request was for no partition. `perm` is none where the host grants nothing; else log2 of the 4 KiB pages that the translation covers, 0 to 18. -/
  | atsCompletion (p : BitVec 5) (page : BitVec 44) (perm : Option (BitVec 5))
  | pageResponse (p : BitVec 5) (page : BitVec 44) (code : BitVec 4)
  | invalidationRequest (p : BitVec 5) (page : BitVec 44) (pages : W32)
  /-- The line is named by a partition and an offset of its T3, in lines. -/
  | snoop (line : BitVec 4 × BitVec 50) (inv : Bool)
  | hostLinkDown (hp : BitVec 1)
  | hotReset
  | hostResponseTimeout
  | hostTagOrphan
  /-- A write of PRG_HOST_CTL. `modes`: HP0MODE and HP1MODE as the controllers report them by then; 0: the link is down. -/
  | reattach (v : W32) (modes : BitVec 2 × BitVec 2)
  /-- An edge of mp_droop_n: its fall where it is 1, its rise where it is 0. -/
  | droop
  | droopHoldEnd
  -- resets (10)
  | coldReset (u : PowerUp)
  | warmReset (u : PowerUp)
  | resetCtlWarm (confirm : Byte) (u : PowerUp)
  | partitionReset (p : BitVec 4) (confirm : Byte)
  -- firmware (11)
  | heartbeatTimeout (core : BitVec 4)
  | protectionFault (core : BitVec 4) (why : CoreFault)
  | restartCore (core : BitVec 4) (confirm : Byte)
  | coreRejoin (core : BitVec 4)
  | update (confirm : Byte)
  | imageStaged (im : FwImage)
  | switch (confirm : Byte)
  | discard (confirm : Byte)
  | acceptance (heartbeats : BitVec 11)
  | imageInstrumentWrite (im : FwImage) (u : PowerUp)
  /-- `cores`: the cores that write the lock in one clock. -/
  | lockAcquire (l : BitVec 6) (cores : BitVec 11)
  | lockRenew (l : BitVec 6) (core : BitVec 4)
  | leaseexp (l : BitVec 6)
  | fwNegGo (p : BitVec 4) (v : W64)
  | logRecord (sev : Byte) (core : BitVec 4) (code : BitVec 16) (arg0 : W64) (arg1 : W64)
  | logHeadWrite (head : W32)
  | frequencyCheck (mhz : Nat)
  | throttleLevel (sensors : List Int)
  | calUserWrite (e : BitVec 4) (v : BitVec 16)
  -- lifecycle, keys, self-test (12)
  | provision (ident : W64)
  | user (sigOk : Bool)
  | rma (sigOk : Bool) (ident : W64)
  | scrap (confirm : Byte)
  | vppTimeout
  | vppLoss (killed : Bool)
  | install (p : BitVec 4) (confirm : Byte)
  | remove (p : BitVec 4) (confirm : Byte)
  | bistSlice
  | bistSliceEnd (kind : BitVec 4) (pass : Bool) (rows : Nat) (row : BitVec 16) (bit : BitVec 10)
  | marchYield (kind : BitVec 4)
  | unitMask (word : BitVec 1) (v : W64)
  -- registers with a row of their own (04, 06, 08, 09, 13)
  | force (p : BitVec 4)
  | budgetTableWrite (p : BitVec 4) (b : BitVec 1) (k : BitVec 4) (v : W64)
  | hsetClear
  | tgrpValidate (v : W64) (r : RdRes)
  | barGroupValid (v : W64)
  | cntSnap (v : W32)
  | gcntSnap (v : W32)
  | watchSel (v : W32)
  | shareSel (v : W32)
  /-- `r`: what the carrier's data check makes of the read as a whole. -/
  | watchSample (tap : BitVec 9) (r : RdRes)
  | evqHeadWrite (q : BitVec 5) (head : W32)
  | traceHeadWrite (p : BitVec 4) (head : W32)
  | wfgBusyClear (p : BitVec 4)
  /-- A refused access. A read that a register refuses is well formed, and is given here for what it sets (R42). -/
  | badacc (off : BitVec 20) (width : Nat) (acc : BadAcc)
  | registerWrite (off : BitVec 20) (width : Nat) (v : W64)
  -- responses and ends of handshakes
  | h2dResponse (hp : BitVec 1) (slot : BitVec 11) (poison : Bool)
  | backLaneCredits (sat : BitVec 6) (credits : BitVec 4) (crcErr : Bool)
  | sourceResetEnd (port : BitVec 5) (src : BitVec 6)
  | controllerResetDone
  | vppOk (eraseOk : Bool)
  | supplyFail
  | lockRelease (l : BitVec 6) (core : BitVec 4)
  | keyCommandDone (salt : W128)
  deriving DecidableEq, Repr

end Sys2Proof
end

