-- ==== Sys2Proof/Machine/State.lean ====
section
/-!
DEFINITION. The state of the block as plain data, and the state right after reset. Registers that software writes and the block only reads stand in `cfg`, keyed by their
offset in the host register window; every other register is a field here, or is computed from fields by readReg (Machine/RegRead.lean).
-/

namespace Sys2Proof.Machine

/-- Object states (Table 1.4). -/
inductive ObjSt
  | free | declared | bound | resident | inTransit | dropped | regen | parked | poisoned
  deriving DecidableEq, Repr

/-- Context states (Table 2.3). -/
inductive CtxSt
  | empty | loaded | active | stopping | stopped | halted | faulted
  deriving DecidableEq, Repr

/-- How data is stored at a place: raw, encoded by the Sieve (R154), or as the protected form of R318. -/
inductive Form
  | raw | enc | prot
  deriving DecidableEq, Repr

/-- Who adds, pushes, waits or asks (R254, Table 13.6). -/
inductive Party
  | none
  | ctx (c : Nat)
  | chan (ch : Nat)
  | source (o : Nat)
  | carrier (n : Nat)
  deriving DecidableEq, Repr

/-- A deadline (R110): none, an absolute D, one that a pacing line's next counted request will fix, or one that stays undefined because its context was stopped or reset first. -/
inductive Dl
  | none
  | at (d : Nat)
  | line (l off : Nat)
  | never
  deriving DecidableEq, Repr

/-- What an operation owes its issuer: the fields of its record (Table 3.1) and what follows the record (R74). -/
structure Req where
  id : Nat := 0
  who : Party := .none
  part : Nat := 0
  opcode : Nat := 0
  pc : Nat := 0
  slot : Nat := 0
  cmode : Nat := 0
  cq : Nat := 0
  csem : Option Nat := none
  gdst : Nat := 0
  handle : Nat := 0
  dl : Dl := .none
  /-- DEMOTE with AUTO 1: a deferred one takes its target from Table 1.6 again when it is applied (R24). -/
  auto : Bool := false
  /-- The internal channel that its operation holds (R185): a record that cannot enter the pending store goes on holding it (R194). -/
  chan : Option Nat := none
  ladle : Bool := false
  merged : Bool := false
  detail : Nat := 0
  deriving DecidableEq, Repr

/-- Where an EVICT takes an object (Tables 1.6 and 3.6): a tier in a form, or DROPPED. -/
inductive Tgt
  | tier (t : Nat) (f : Form)
  | drop
  deriving DecidableEq, Repr

/-- The events of Table 1.5 that a request can bring. -/
inductive Ev
  | promote (tier : Nat) (enc : Bool)
  | evict (t : Tgt)
  | retire
  deriving DecidableEq, Repr

/-- A request that is queued or deferred on an object (R22), with the event it brings when it restarts. -/
structure Wait where
  req : Req
  ev : Ev
  deriving DecidableEq, Repr

/-- A directory entry (Table 1.7) and, below it, what the block keeps on the object while work on it is pending. -/
structure Obj where
  gen : Nat := 0
  st : ObjSt := .free
  clsP : Bool := false
  part : Nat := 0
  ctx : Nat := 0
  lat : Nat := 0
  disp : Nat := 0
  home : Nat := 0
  dest : Nat := 0
  pinned : Bool := false
  prot : Bool := false
  transient : Bool := false
  privileged : Bool := false
  revalidate : Bool := false
  rngcap : Bool := false
  digestSet : Bool := false
  ageSat : Bool := false
  rawlen : Nat := 0
  homeaddr : Nat := 0
  destaddr : Nat := 0
  storlen : Nat := 0
  stamp : Nat := 0
  recipe : Nat := 0
  rvalid : Bool := false
  digest : Nat := 0
  succ : Nat := 0
  /-- Form of the data at home. -/
  form : Form := .raw
  /-- Bytes of extents held at home and reserved at the destination (R26). -/
  resv : Nat := 0
  dresv : Nat := 0
  /-- A disposition fixed by an instruction (R82), with its request. -/
  fixed : Option (Nat × Req) := none
  /-- CLMASK of the last RNGCAP; 0 when the object had none (R87). -/
  clmask : Nat := 0
  /-- The pending seal: semaphore and TARGET (R80); `sealing` once it was served and is not yet decided. -/
  sealAt : Option (Nat × Nat) := none
  /-- The request whose operation the seal belongs to (BIND, or RCPRUN into a DECLARED object). -/
  sealReq : Option Req := none
  /-- Served and waiting for RNG_DATA, or for space since the time given (R21, R139). -/
  sealWait : Option Nat := none
  sealAsked : Bool := false
  /-- Clusters whose answer to RNG_QUERY is awaited, and whether one answered LOST (R139). -/
  askMask : Nat := 0
  askLost : Bool := false
  /-- Queued requests and deferred events (R22), oldest first. -/
  queue : List Wait := []
  defers : List Wait := []
  /-- Holders under R144 and an image object's marks (R45, R86, R94). -/
  holds : Nat := 0
  plan : Bool := false
  body : Bool := false
  /-- The digest of R140 is taken from the encoder's read. -/
  digestDue : Bool := false
  snapshot : Bool := false
  snapHold : Nat := 0
  /-- Format that the last LAND gave a gradient object; 0 where none did (log entry 24). -/
  gfmt : Nat := 0
  /-- A successor entry before its DONE: outside its partition's quota (R13). -/
  successor : Bool := false
  deriving DecidableEq, Repr

/-- A plan slot of a context (R43, R44). -/
structure Slot where
  valid : Bool := false
  /-- The operation that copies the image while a load is in progress. -/
  loading : Option Nat := none
  handle : Nat := 0
  format : Nat := 0
  digest : Nat := 0
  len : Nat := 0
  entry : Nat := 0
  features : Nat := 0
  /-- TAG of the LOAD in progress. -/
  tag : Nat := 0
  deriving DecidableEq, Repr

/-- A doorbell command that waits for the context's instruction boundary (R50). -/
structure Cmd where
  cmd : Nat
  slot : Nat
  tag : Nat
  deriving DecidableEq, Repr

/-- A failure of a CMODE 0 instruction that is not yet raised (R64). -/
structure Fail where
  pc : Nat
  opcode : Nat
  status : Nat
  handle : Nat := 0
  detail : Nat := 0
  deriving DecidableEq, Repr

/-- A FETCH the Ladle issued and the sequencer has not reached (R85, R113). -/
structure Ahead where
  slot : Nat
  pc : Nat
  req : Nat
  deriving DecidableEq, Repr

/-- A context: its image (Table 2.1) and its control state (Table 2.13). -/
structure Ctx where
  g : Tbl W64 := []
  /-- Loop entries, top first: remaining count and offset of the body. -/
  loops : List (Nat × Nat) := []
  pc : Nat := 0
  dlbase : Nat := 0
  ladlePos : Nat := 0
  ladleStop : Nat := 0
  waitKind : Nat := 0
  waitOn : Nat := 0
  wstart : Nat := 0
  /-- Numbers of the requests issued that have no completion record yet: INFLIGHT is their count. -/
  live : List Nat := []
  /-- LASTEXC, and whether an exception has come since START or RESUME. -/
  lastexc : Nat := 0
  excSince : Bool := false
  step : Nat := 0
  instret : Nat := 0
  st : CtxSt := .empty
  /-- Target state and mode while STOPPING (Table 2.4). -/
  target : CtxSt := .stopped
  aborting : Bool := false
  aslot : Nat := 0
  slot0 : Slot := {}
  slot1 : Slot := {}
  exc : Bool := false
  dberr : Bool := false
  imgbusy : Bool := false
  loaderr : Bool := false
  laststat : Nat := 0
  dbdrop : Nat := 0
  cmds : List Cmd := []
  /-- A saved PC that RESUME may use (Table 2.4 note (b) discards it). -/
  saved : Bool := false
  /-- The sequencer the context is on, instructions since switch-in, and when it last ran (R39). -/
  seq : Option Nat := none
  issued : Nat := 0
  lastRun : Nat := 0
  /-- The directory entry whose fill holds the sequencer (R77). -/
  miss : Option Nat := none
  /-- Entries that fills brought for the instruction about to issue. -/
  filled : List Nat := []
  /-- Kind, object and start of a wait that a STOP or an exception ended: WAITST and WSTART show them until START or RESUME (R48, R51). -/
  left : Nat × Nat × Nat := (0, 0, 0)
  /-- The request of the waiting instruction. -/
  waiting : Option Req := none
  /-- ns of the present wait that a hard stop froze (R307). -/
  wfrozen : Nat := 0
  fails : List Fail := []
  ahead : List Ahead := []
  shadowDl : Nat := 0
  shadowLoops : List (Nat × Nat) := []
  /-- A RESET that waits for the in-flight work to end in ABORT mode (R53). -/
  resetting : Option Cmd := none
  /-- Left its sequencer under R75 or R185: runnable again at its next completion record. -/
  full : Bool := false
  deriving DecidableEq, Repr

/-- A plan sequencer (R36): the context on it. -/
structure Seq where
  ctx : Option Nat := none
  deriving DecidableEq, Repr

/-- A run of bytes that a transfer reads or writes: tier (5: the peer port, 6: zeros that are read nowhere), offset within the tier, length, the x of R34 or R258, the number of
its first stripe, and the most bytes a burst of it takes (R183, R248). -/
structure Seg where
  tier : Nat
  addr : Nat
  len : Nat
  x : Nat := 0
  i0 : Nat := 0
  cap : Nat := 4096
  deriving DecidableEq, Repr

/-- A request that a transfer makes at a port (R183): operation, direction, tier and offset, burst or stripe number, length, the x of R34, its place in the transfer. `rb`: a
read-back (R190), through the port `via` where that is LIVE; `ax`: a page of an index (R199); `again`: it was issued before and its port is gone (R264), or it is a read-back:
nothing is charged for it. -/
structure Burst where
  op : Nat
  wr : Bool
  tier : Nat
  off : Nat
  idx : Nat
  len : Nat
  x : Nat
  pos : Nat := 0
  rb : Bool := false
  via : Nat := 31
  ax : Bool := false
  again : Bool := false
  deriving DecidableEq, Repr

/-- A burst of a copying transfer that is under way (R183): its place and length, its number, and whether its read is out (0), its write is to come (1) or is out (2). -/
structure OpenB where
  off : Nat
  len : Nat
  idx : Nat
  st : Nat
  deriving DecidableEq, Repr

/-- A page of an index (R199): the place in the data stream of the first row it names, where it lies, and whether its read is to come (0), is out (1) or has returned (2). -/
structure IdxPage where
  at_ : Nat
  seg : Seg
  st : Nat := 0
  deriving DecidableEq, Repr

/-- The progress of a transfer through the ports (R183, R190): the runs read and written, bytes and bursts issued and answered, the last 64 bytes written through each port
(tier and offset) and the worst status met. `copy`: each burst writes what it read (else reads and writes go at a pace of their own, as under the codec); `opens`: its bursts under
way; `redo`: requests to be issued again; `aux`: pages of an index; `byBurst`: stripes are counted by bursts (descriptors); `free`: its bursts are charged to no class; `lost`: a
request was given up because no port of its kind is left; `fault`: the lowest place whose burst failed (R202, R205). -/
structure Xfer where
  rd : List Seg := []
  wr : List Seg := []
  copy : Bool := true
  opens : List OpenB := []
  redo : List Burst := []
  aux : List IdxPage := []
  lost : Bool := false
  fault : Option Nat := none
  byBurst : Bool := false
  free : Bool := false
  rdOff : Nat := 0
  rdIdx : Nat := 0
  rdBack : Nat := 0
  wrOff : Nat := 0
  wrIdx : Nat := 0
  wrBack : Nat := 0
  wports : Tbl (Nat × Nat) := []
  rbIssued : Bool := false
  bad : Nat := 0
  srcBad : Bool := false
  deriving DecidableEq, Repr

/-- A descriptor as read from memory (Table 7.1). -/
structure Desc where
  op : Nat := 0
  chain : Bool := false
  recf : Bool := false
  order : Bool := false
  seminc : Bool := false
  cls : Nat := 0
  pace : Bool := false
  rpop : Bool := false
  rpush : Bool := false
  pline : Nat := 0
  cq : Nat := 0
  sem : Nat := 0
  src : Nat := 0
  dst : Nat := 0
  len : Nat := 0
  aux : Nat := 0
  next : Nat := 0
  rowbytes : Nat := 0
  rin : Nat := 0
  rout : Nat := 0
  cookie : Nat := 0
  rsvBad : Bool := false
  /-- The TQA it was read from. -/
  place : Nat := 0
  deriving DecidableEq, Repr

/-- A step of a recipe body (Table 5.3). -/
structure RStep where
  kernel : Nat := 0
  cl : Nat := 0
  dep : Bool := false
  rngpoint : Bool := false
  sel : Nat := 0
  outunits : Nat := 0
  args : Nat := 0
  deriving DecidableEq, Repr

/-- A recipe slot (Table 5.9) with the body fields the unit needs at dispatch. -/
structure RSlot where
  valid : Bool := false
  digest : Bool := false
  clmask : Nat := 0
  capmask : Nat := 0
  bases : Tbl Nat := []
  owner : Nat := 0
  body : Nat := 0
  exec : Nat := 0
  meas : Nat := 0
  outlen : Nat := 0
  scrlen : Nat := 0
  inputs : List Nat := []
  steps : List RStep := []
  deriving DecidableEq, Repr

/-- A step of a recipe in dispatch: units of its charge drawn, launched, done (R145). -/
structure RProg where
  drawn : Nat := 0
  launched : Bool := false
  isDone : Bool := false
  deriving DecidableEq, Repr

/-- A recipe being run (R143 to R151). -/
structure Recipe where
  slot : Nat := 0
  /-- Directory index of the object that is regenerated, or of the DECLARED object the recipe runs into. -/
  obj : Nat := 0
  declared : Bool := false
  substitution : Bool := false
  succ : Nat := 0
  outAddr : Nat := 0
  scrAddr : Nat := 0
  dispatched : Bool := false
  /-- Since when it waits for its inputs, and whether it ever waited (R143). -/
  waitedInput : Option Nat := none
  inputWaited : Bool := false
  prog : List RProg := []
  /-- Clusters whose RNG_SET was sent, and those acknowledged (R141). -/
  rngSent : Nat := 0
  rngOk : Nat := 0
  firstLaunch : Nat := 0
  lastDone : Nat := 0
  /-- The failure met: status, 0 for none; while launches are outstanding the end is held (R151). -/
  failed : Nat := 0
  aborted : Bool := false
  /-- Encoded inputs still to be decoded into raw temporaries under R170: (input handle, address of the temporary). -/
  temps : List (Nat × Nat) := []
  /-- Raw temporaries made: (input handle, address). -/
  made : List (Nat × Nat) := []
  /-- What the request asked for, for a fallback to the fetch. -/
  tier : Nat := 1
  enc : Bool := false
  /-- The cost figured when the recipe was made (R149; none: infinite), and when it entered dispatch. -/
  cost : Option Nat := none
  t0 : Nat := 0
  /-- The slot as it stood at dispatch, and its held inputs (R144). -/
  body : RSlot := {}
  held : List Nat := []
  /-- The read-back or digest read of the output has started (R148); CANCEL was sent (R151). -/
  reading : Bool := false
  cancelled : Bool := false
  deriving DecidableEq, Repr

/-- Follow-up actions of a step: what a completion, an addition or a release sets off within the same step. -/
inductive Work
  | semAdd (n amt : Nat) (who : Party)
  | push (ring hdl : Nat) (who : Party)
  | sealing (x : Nat)
  | objLeft (x : Nat)
  | tryOp (o : Nat)
  | retryCtx (c : Nat)
  | ctxCheck (c : Nat)
  | chanCheck (ch : Nat)
  | partCheck (p : Nat)
  | fences (c : Nat)
  | refs (x : Nat)
  | tap (x : Nat)
  deriving DecidableEq, Repr

/-- A history set (R179, R180). -/
structure HSet where
  cfg : Nat := 0
  amax : Tbl Nat := []
  applied : Int := 0
  ptr : Nat := 0
  count : Nat := 0
  deriving DecidableEq, Repr

/-- A GATHER in progress (R213 to R215): master, working copy, format, group, sequence number; with INDEXED the index object, ROWBYTES and the row numbers; whether the own
slice is cast; the units to ask for (a shard, or a part of the rows wanted of it) with the member asked and those to ask next (R214); units whose request is out; bytes received;
units complete. -/
structure GatherOp where
  m : Nat
  w : Nat
  fmt : Nat
  grp : Nat
  sequence : Nat
  idx : Option (Nat × Nat) := none
  rows : List Nat := []
  cast : Bool := false
  asked : List (Nat × Nat × List Nat) := []
  sent : List Nat := []
  bufs : List (Nat × List Byte) := []
  got : List Nat := []
  deriving DecidableEq, Repr

/-- A SWEEP (R216 to R220): objects, history set, the words of the optimizer bank, STEP and PRG_SR_KEY at its issue, whether its turn on the set has come, the sets as it read them
then. -/
structure SweepOp where
  m : Nat
  m1 : Nat
  m2 : Nat
  gr : Nat
  hset : Nat
  opt : List Nat
  gate : Bool
  step : Nat
  key : Nat
  start : Bool := false
  h1 : HSet := {}
  h2 : HSet := {}
  deriving DecidableEq, Repr

/-- A LAND (R222 to R224). `cutD`: CUT 1; `landed` counts contributions that count toward the cutoff; `cut`: the cutoff has come; `requant`: the requantization is under way. -/
structure LandOp where
  acc : Nat
  gr : Nat
  grp : Nat
  step : Nat
  expect : Nat
  cutD : Bool
  pol : Nat
  key : Nat
  landed : Nat := 0
  cut : Bool := false
  requant : Bool := false
  nonfin : Bool := false
  deriving DecidableEq, Repr

/-- A contribution on its way into an accumulator (R221, R222, R225): the LAND it belongs to (0: late), sender, send index, bytes received, and for one from the own carrier the
operation that sends it. -/
structure ContribOp where
  land : Nat
  acc : Nat
  grp : Nat
  sender : Nat
  key : Nat
  step : Nat
  len : Nat
  begun : Bool := false
  buf : List Byte := []
  adding : Bool := false
  src : Option Nat := none
  deriving DecidableEq, Repr

/-- A TSTREAM (R227 to R230): teacher, mode asked for and mode in force, clusters; in TOPK mode K, OUT and the index object. By position of the cluster in CLMASK: frames sent of its
present part and rounds finished; the parts read so far in the order of the reads (ROTATE: position and round); by satellite the frames of its present stream; frames lost with a
satellite that go again (position, frame); frames delivered in all. -/
structure TeachOp where
  x : Nat
  mode : Nat
  run : Nat
  clmask : Nat
  k : Nat := 0
  out : Nat := 0
  idx : Nat := 0
  sent : Tbl Nat := []
  rounds : Tbl Nat := []
  queue : List (Nat × Nat) := []
  nsat : Tbl Nat := []
  again : List (Nat × Nat) := []
  total : Nat := 0
  deriving DecidableEq, Repr

/-- The sending half of an XCHG, or a contribution sent (R221, R231, R232): object, peer, channel, send index, STEP; whether the receiver asked for the data. -/
structure SendOp where
  x : Nat
  peer : Nat
  chan : Nat
  n : Nat
  step : Nat
  /-- The receiver has been told; a contribution to the own carrier is not while the rendezvous store is full (R212). -/
  told : Bool := true
  asked : Bool := false
  deriving DecidableEq, Repr

/-- The receiving half of an XCHG: object, peer, channel, tier, receive index; what the notice said; bytes received. -/
structure RecvOp where
  x : Nat
  peer : Nat
  chan : Nat
  tier : Nat
  n : Nat
  notice : Option (Nat × Bool × Bool) := none
  placed : Bool := false
  buf : List Byte := []
  deriving DecidableEq, Repr

/-- What an operation in flight does. -/
inductive OpKind
  /-- A move of object x to tier t in form f; `evict` tells an EVICT or SEAL from a PROMOTE. -/
  | move (x t : Nat) (f : Form) (evict : Bool)
  /-- A FETCH, PROMOTE or disposition that waits on an object in another state. -/
  | onObj (x : Nat)
  | fill (x off len pat : Nat)
  | cmp (x y off len : Nat)
  | bounce (x off len host : Nat) (toHost : Bool)
  | inline (tqa : Nat) (bytes : List Byte)
  | report (dst : Nat) (bytes : List Byte)
  /-- A LOAD: context, slot, plan object (0 while it waits for its entry or its space), source, IMAGE_LEN and the header as read. -/
  | plan (c slot : Nat) (hdl : Nat) (src len hdr : Nat)
  | rcpdef (slot : Nat) (hdl : Nat) (src len : Nat)
  | rngset (x : Nat) (mask sent acked : Nat)
  | heldSignal (ring : Bool) (n amt : Nat)
  | heldInline (tqa : Nat) (bytes : List Byte)
  | heldBar (g : Nat)
  | fence (upto : Nat) (waited : Nat)
  | pushWait (ring hdl : Nat)
  | recipe (r : Recipe)
  | gather (g : GatherOp)
  /-- A member's slice on its way to a member that asked for it: the GATHER it belongs to, the member's carrier, group and rows asked for. -/
  | serve (par dst grp : Nat) (rows : List Nat)
  | sweep (g : SweepOp)
  | land (l : LandOp)
  | contrib (c : ContribOp)
  | tstream (t : TeachOp)
  | xsend (x : SendOp)
  | xrecv (x : RecvOp)
  /-- An XCHG in both directions: its halves and their results so far (status, RESULT). -/
  | xboth (a b : Nat) (ra rb : Option (Nat × Nat))
  /-- A snapshot of x into y: whether the source has been read in full, and the bytes as they stood at issue (R233). -/
  | snap (x y : Nat) (read : Bool) (img : List Byte)
  /-- The read of R140: the object, and the digest of its bytes as they stood at SEAL. -/
  | digest (hdl : Nat) (crc : Option Nat)
  | desc (ch : Nat) (d : Desc) (pos : Nat) (hdl : Nat)
  | fwCopy (src len : Nat)
  /-- The read of a sample of a watch tap (R339). -/
  | watch (t hdl : Nat)
  /-- The copy of a mover cluster's slice, and its check (R323). -/
  | test (k : Nat) (cmp : Bool)
  deriving DecidableEq, Repr

/-- Where an operation stands: not started (waiting in EDF order, for space or for a condition), running, parked (PARKED of Table 1.5, or HALTED on a page fault), ending
under ABORT while issued bursts finish, or held by R128. -/
inductive Phase
  | queued | waitSpace | running | parked | ending
  deriving DecidableEq, Repr

/-- An operation in flight (R74, R75), numbered in order of acceptance. -/
structure Op where
  id : Nat
  req : Req
  more : List Req := []
  kind : OpKind
  cls : Nat := 11
  chan : Option Nat := none
  /-- It takes an internal channel, and waits for one while every one holds 128 operations (R185). -/
  needsChan : Bool := false
  phase : Phase := .queued
  dl : Dl := .none
  /-- Latest start L; 0 when no estimate was made (R116). Whether the decision at L has been taken (R118). -/
  lstart : Nat := 0
  decided : Bool := false
  x : Xfer := {}
  issuedAny : Bool := false
  parkedPage : Option Nat := none
  endStatus : Nat := 0
  /-- The context whose counters the operation moves (R330). -/
  acct : Option Nat := none
  /-- What is tried again when the operation ends: the request an eviction makes room for (R32). -/
  wake : Option Work := none
  /-- The operation this one is a part of: its end is told there instead of in a record. -/
  par : Option Nat := none
  deriving DecidableEq, Repr

/-- An outstanding request on a port: which operation it serves, its direction, whether it is a read-back, its tier, offset and bytes, and whether it is orphaned (R207, R260,
R283); the number and x that chose its port, its place in the transfer (none: the transfer no longer waits for it), and x_req_urg (R259). -/
structure Tag where
  port : Nat
  tag : Nat
  wr : Bool
  op : Nat
  rb : Bool := false
  tier : Nat := 0
  addr : Nat := 0
  bytes : Nat := 0
  idx : Nat := 0
  x : Nat := 0
  pos : Option Nat := some 0
  ax : Bool := false
  urg : Nat := 0
  orphan : Bool := false
  /-- When the request was issued, and whether a beat of its response was not OK (R262, R264). -/
  time : Nat := 0
  err : Bool := false
  /-- The mover cluster whose recovery orphaned it (R207). -/
  clus : Option Nat := none
  deriving DecidableEq, Repr

/-- A record that is not visible yet, with what follows it (R194): the increment of CMODE 3 or SEMINC, the ring push of RPUSH, the scope whose item it is, and the channel it
holds. `entered` tells that the pending store holds it; a record that the store cannot take yet leaves its item in flight, unless the recovery reserve holds it (R208). `pos`: place
of a descriptor in its chain. -/
structure Pend where
  q : Nat
  data : Nat
  id : Nat := 0
  csem : Option Nat := none
  push : Option (Nat × Nat) := none
  who : Party := .none
  part : Nat := 0
  chan : Option Nat := none
  inflight : Bool := false
  entered : Bool := true
  reserve : Bool := false
  pos : Nat := 0
  deriving DecidableEq, Repr

/-- A completion queue's pointers and flags (R192, Table 7.8). -/
structure Cq where
  base : Nat := 0
  cfg : Nat := 0
  head : Nat := 0
  tail : Nat := 0
  full : Bool := false
  deriving DecidableEq, Repr

/-- A channel (R184, Table 7.7): state code, queued chains (heads), the chain being run. -/
structure Chan where
  st : Nat := 0
  hostq : Bool := false
  part : Nat := 0
  chains : List Nat := []
  /-- The running chain: head, TQA of the next descriptor to fetch (none: the chain has been read), position of that descriptor, descriptors fetched and not started. -/
  running : Bool := false
  head : Nat := 0
  next : Option Nat := none
  pos : Nat := 0
  ready : List (Nat × Desc) := []
  /-- The handle that a descriptor waiting in WAIT was given (R200). -/
  popped : Option Nat := none
  dberr : Bool := false
  dbdrop : Nat := 0
  deriving DecidableEq, Repr

/-- A pacing line (R196 to R198, Table 7.9). `since`: when its level last rose or its last paced burst ended, from which STUCK_US counts. -/
structure Line where
  level : Bool := false
  armed : Bool := true
  banked : Bool := false
  stuck : Bool := false
  overrun : Nat := 0
  since : Nat := 0
  /-- The operation that the last grant went to, while the burst it is for is not complete, and whether that burst has begun. -/
  granted : Option Nat := none
  begun : Bool := false
  deriving DecidableEq, Repr

/-- A mover cluster (R207, Table 7.6). -/
structure Clus where
  st : Nat := 0
  /-- When the cluster last made progress, from which CLUSTER_TMO_US counts. -/
  since : Nat := 0
  deriving DecidableEq, Repr

/-- A consumer in a semaphore's queue (R237): a WAIT of a context, or the pending seal of an object. -/
inductive SemWaiter
  | ctx (c amt : Nat)
  | sealing (x amt : Nat)
  deriving DecidableEq, Repr

/-- A semaphore (Table 9.6), its queue and its last four distinct signallers (R254). -/
structure Sem where
  val : Nat := 0
  sat : Bool := false
  hol : Bool := false
  lost : Bool := false
  q : List SemWaiter := []
  sig : List Party := []
  deriving DecidableEq, Repr

/-- A party waiting to push a handle to a full ring (R241). -/
structure Push where
  hdl : Nat
  who : Party
  op : Option Nat := none
  deriving DecidableEq, Repr

/-- A handle ring (R240, R241). -/
structure Ring where
  cfg : Nat := 0
  head : Nat := 0
  tail : Nat := 0
  popq : List Party := []
  pushq : List Push := []
  pushers : List Party := []
  poppers : List Party := []
  deriving DecidableEq, Repr

/-- The tuple a barrier arrival or token carries (R244). -/
structure Tuple where
  digest : Nat := 0
  fmt : Nat := 0
  step : Nat := 0
  mincarr : Nat := 0
  mixed : Bool := false
  deriving DecidableEq, Repr

/-- A Hawthorn node's run-time state: arrivals by child slot (a leaf: by context), the verify pass and its replies (R244, R245). -/
structure HNode where
  arrived : List (Nat × Tuple) := []
  verifying : Bool := false
  ref : Tuple := {}
  replies : List (Nat × Nat × Nat) := []
  deriving DecidableEq, Repr

/-- A barrier group (Table 9.5): configuration, GEN, counters, latched outcomes by context (R246). -/
structure Bar where
  cfg : Nat := 0
  gen : Nat := 0
  mism : Nat := 0
  generr : Nat := 0
  latched : List (Nat × Nat × Nat) := []
  deriving DecidableEq, Repr

/-- A packet sent and kept for replay until it is acknowledged (R249). -/
structure OutPkt where
  typ : Nat
  dst : Nat
  jobtag : Nat := 0
  seq : Nat := 0
  id : Nat := 0
  arg : Nat := 0
  pay : List Nat := []
  deriving DecidableEq, Repr

/-- A packet that waits for a tag of PP (R261, R268): partition, destination, type, class, number and bytes. -/
structure TxPkt where
  p : Nat
  dst : Nat
  typ : Nat
  cls : Nat
  n : Nat
  bytes : Nat
  deriving DecidableEq, Repr

/-- One stream pair with a carrier in one class (R249 to R253). `busyNak` and `nakSent`: a NAK went out and nothing has been accepted since; `txBusy`: the receiver asked for a wait. -/
structure Stream where
  txNext : Nat := 0
  rxExp : Nat := 0
  resends : Nat := 0
  busyNak : Bool := false
  nakSent : Bool := false
  txBusy : Bool := false
  progress : Nat := 0
  unacked : List OutPkt := []
  /-- Packets that wait at the cap of unacknowledged ones (R249); they have no number yet. -/
  stalled : List OutPkt := []
  deriving DecidableEq, Repr

/-- A carrier as the peer unit knows it: HELLO sent, streams open and their packet version, DOWN, version refused (R251, R253). -/
structure Peer where
  hello : Bool := false
  opened : Bool := false
  ver : Nat := 0
  down : Bool := false
  refused : Bool := false
  deriving DecidableEq, Repr

/-- A request held in the rendezvous store (R212), with the partition of its JOBTAG: shard request, exchange notice or contribution notice. -/
inductive Rdv
  | shard (p src grp shard sequence : Nat) (rows : List Nat)
  | xnotice (p src chan idx rawlen : Nat) (enc prot : Bool)
  | cnotice (p src grp key step len : Nat) (late : Bool)
  deriving DecidableEq, Repr

/-- The partition of a held request. -/
def Rdv.part : Rdv → Nat
  | .shard p .. => p
  | .xnotice p .. => p
  | .cnotice p .. => p

/-- A traffic group (Tables 8.5 and 8.7) with its last LAND (R225). -/
structure TGrp where
  w0 : Nat := 0
  w1 : Nat := 0
  w2 : Nat := 0
  w3 : Nat := 0
  nextseq : Nat := 0
  stale : Nat := 0
  lateAdded : Nat := 0
  lateDropped : Nat := 0
  rejected : Nat := 0
  lastSender : Nat := 0
  lastStep : Nat := 0
  lastLand : Option (Nat × Nat × Nat) := none
  lateNow : Nat := 0
  deriving DecidableEq, Repr

/-- An entry of the share table (R178, Table 6.11). -/
structure Share where
  hdl : Nat := 0
  fmt : Nat := 0
  part : Nat := 0
  elems : Nat := 0
  ovf : Nat := 0
  unf : Nat := 0
  nonfin : Nat := 0
  deriving DecidableEq, Repr

/-- An outstanding tag of a command port (R147). -/
inductive CqTag
  | launch (o i : Nat)
  | rngSet (o : Nat)
  | query (x : Nat)
  deriving DecidableEq, Repr

/-- A port (Table 10.18). `req` is x_rst_req, `ack` the carrier's x_rst_ack as last seen. -/
structure Port where
  st : Nat := 0
  rev : Nat := 0
  cause : Nat := 0
  err : Nat := 0
  proto : Nat := 0
  rsttmo : Nat := 0
  tmo : Nat := 0
  req : Bool := false
  ack : Bool := false
  toLive : Bool := false
  /-- When `req` rose (R265). -/
  since : Option Nat := none
  deriving DecidableEq, Repr

/-- A partial target write of a carrier requester (R263, R266), and a tag owed to a source. -/
structure Partial where
  port : Nat
  src : Nat
  tag : Nat
  addr : Nat
  wr : Bool
  bytes : List Byte := []
  poison : Bool := false
  deriving DecidableEq, Repr

/-- A response on a port's target channels: source, tag, direction, status (0 OK, 1 ERR, 2 DECERR), data of a read. -/
structure TRsp where
  src : Nat
  tag : Nat
  wr : Bool
  status : Nat
  data : List Byte := []
  deriving DecidableEq, Repr

/-- Space that belongs to no object's home: scratch, temporaries, staging. -/
structure Run where
  tier : Nat
  off : Nat
  len : Nat
  part : Option Nat
  owner : Nat
  deriving DecidableEq, Repr

/-- An event queue (R333 to R337). -/
structure EvQ where
  base : Nat := 0
  cfg : Nat := 0
  head : Nat := 0
  tail : Nat := 0
  held : List Nat := []
  counts : Tbl (Nat × Nat) := []
  deriving DecidableEq, Repr

/-- A ring with free-running indices: the trace rings and the log ring. -/
structure Ptr where
  head : Nat := 0
  tail : Nat := 0
  gap : Bool := false
  drop : Nat := 0
  deriving DecidableEq, Repr

/-- A watch tap (R338 to R342, Table 13.10). -/
structure Tap where
  armed : Bool := false
  hdl : Nat := 0
  stat : Nat := 0
  digest : Bool := false
  part : Nat := 0
  hist : List Nat := []
  samples : Nat := 0
  skipped : Nat := 0
  count : Nat := 0
  nonfin : Nat := 0
  min : Nat := 0
  max : Nat := 0
  sum : Nat := 0
  mean : Nat := 0
  crc : Nat := 0
  time : Nat := 0
  due : Nat := 0
  deriving DecidableEq, Repr

/-- A partition's run-time state: DISABLE state (R204), mode, wait-for graph (R347), counters kept per partition. -/
structure Part where
  st : Nat := 0
  resetting : Bool := false
  wfgBusy : Bool := false
  wfgRebuild : Bool := false
  /-- The context whose watchdog fired last, with its wait: kind, index or handle, ms waited. -/
  wfgCtx : Nat := 0
  wfgWait : Nat × Nat × Nat := (0, 0, 0)
  wfgSkip : Nat := 0
  wfgBuilds : Nat := 0
  wfgPending : Option Nat := none
  nf : Nat := 0
  nfCount : Nat := 0
  nfEpoch : Nat := 0
  deny : Nat := 0
  shareFull : Nat := 0
  dl : Tbl Nat := []
  cop : Tbl Nat := []
  mov : Tbl Nat := []
  codecRaw : Nat := 0
  codecStored : Nat := 0
  traceRing : Ptr := {}
  agreed : Nat := Config.offer
  negotiated : Bool := false
  ifver : Nat := 0
  negerr : Nat := 0
  neg : Nat := 0
  keyValid : Bool := false
  key : BitVec 256 := 0
  salt : W128 := 0
  nonce : Nat := 0
  keygen : Nat := 0
  budActive : Nat := 0
  budDirty : Bool := false
  budForce : Bool := false
  budEpoch : Bool := false
  slackEn : Bool := true
  bal : Tbl Int := []
  issuedNow : Tbl Nat := []
  issuedLast : Tbl Nat := []
  deriving DecidableEq, Repr

/-- A port group's window state (R125, R127): used credits, reserve left, held to the next window, round-robin positions, slots that must pass before it issues again (R285, R306, R307). -/
structure Group where
  used : Nat := 0
  resLeft : Nat := 0
  closed : Bool := false
  rrPaid : Nat := 0
  rrSlack : Nat := 0
  idle : Nat := 0
  deriving DecidableEq, Repr

/-- A saturation condition's run lengths (R129). -/
structure Sat where
  on : Bool := false
  setRun : Nat := 0
  clrRun : Nat := 0
  deriving DecidableEq, Repr

/-- A firmware core (Table 11.1): running, last cause, restarts, times of recent restarts; its memories and its protection regions, which are locked while it runs (R292); when it
started; the lock whose renewal or release was last reported to it as lost (R298). -/
structure Core where
  up : Bool := false
  cause : Nat := 0
  restarts : Nat := 0
  recent : List Nat := []
  imem : List Byte := []
  dmem : List Byte := []
  regions : List (Nat × Nat) := []
  started : Nat := 0
  lost : Option Nat := none
  deriving DecidableEq, Repr

/-- A hardware lock (R298). -/
structure Lock where
  holder : Option Nat := none
  expires : Nat := 0
  expiries : Nat := 0
  deriving DecidableEq, Repr

/-- The firmware complex (chapter 11). -/
structure Fw where
  st : Nat := 0
  slot : Nat := 0
  staged : Bool := false
  accepted : Bool := false
  setver : Nat := 0
  event : Nat := 0
  cores : Tbl Core := []
  /-- The mailbox of 64 KiB (R292), and the data pages that the cores hold for a partition (R288). -/
  mailbox : List Byte := []
  pages : Tbl (List Byte) := []
  imgA : Option FwImage := none
  imgB : Option FwImage := none
  /-- Slots that have passed acceptance, and the slot last accepted. -/
  okA : Bool := false
  okB : Bool := false
  lastOk : Option Nat := none
  started : Nat := 0
  fellBack : Bool := false
  copying : Bool := false
  wrq : List (Nat × Nat × W64) := []
  locks : Tbl Lock := []
  logBuf : List Nat := []
  logSeq : Nat := 0
  logDrop : Nat := 0
  logWritten : Nat := 0
  logPtr : Ptr := {}
  temp : Int := 0
  level : Nat := 0
  onsets : Nat := 0
  stops : Nat := 0
  /-- When the hard stop in force was entered (R307). -/
  stopAt : Nat := 0
  /-- When an image accepted under FALLBACK_EN began to disable the partitions (R302). -/
  fbAt : Option Nat := none
  mhz : Nat := 0
  reqMhz : Nat := 0
  overclk : Bool := false
  deriving DecidableEq, Repr

/-- A lifecycle request (R310): the target state, whether its signature verifies (or, unsigned, its CONFIRM is right), and the identity it carries or names. -/
structure LcReq where
  target : Nat
  sigOk : Bool
  ident : W64 := 0
  deriving DecidableEq, Repr

/-- Lifecycle fuses and the transition in progress (R310, R311). Each state bit has three copies. -/
structure Lc where
  provisioned : Nat := 0
  userBit : Nat := 0
  rmaBit : Nat := 0
  scrapped : Nat := 0
  dukKill : Bool := false
  ident : W64 := 0
  duk : BitVec 256 := 0
  /-- The state in force since the last cold reset. -/
  inForce : Nat := 0
  pending : Bool := false
  /-- An accepted request holds every START and LOAD until the next cold reset (R311). -/
  held : Bool := false
  lcerr : Bool := false
  cause : Nat := 0
  vppEn : Bool := false
  vppAt : Nat := 0
  busy : Option Nat := none
  newIdent : W64 := 0
  /-- Requests that wait for the security core (Table 11.2). -/
  waiting : List LcReq := []
  keyBusy : Option Nat := none
  /-- A REMOVE that waits for the security core (Table 11.2). -/
  rmBusy : Option Nat := none
  keyerr : Bool := false
  keyCause : Nat := 0
  installs : Nat := 0
  deriving DecidableEq, Repr

/-- Self-test: the slice in progress, the round's position, health and log (R323 to R328). -/
structure Bist where
  seqs : Nat := 0xFFFF
  clusters : Nat := 0xFF
  aes : Nat := 0xF
  dcSlices : Nat := 0xFFFF
  sensors : Nat := 0xFF
  clk : Bool := true
  fatal : Bool := false
  banks : Nat := 0xFFFFFFFFFFFFFFFF
  lanes : Nat := 0xFFFFFFFF
  repairs : Nat := 0
  spare : Tbl Nat := []
  /-- Slices running: row of Table 12.6, unit, start time. -/
  slices : List (Nat × Nat × Nat) := []
  pos : Nat := 0
  lastStart : Nat := 0
  run : Nat := 0
  passed : Nat := 0
  failed : Nat := 0
  deferred : Nat := 0
  log : Tbl (Nat × Nat) := []
  logNext : Nat := 0
  logCount : Nat := 0
  deriving DecidableEq, Repr

/-- The satellites (R167 to R170, R270). -/
structure Sats where
  present : Nat := 0
  /-- Links still in training (R270). -/
  training : Nat := 0
  fixed : Nat := 0
  satcrc : Nat := 0
  credits : Tbl Nat := []
  /-- Flits of a stalled stream waiting for credits, by satellite. -/
  waiting : Tbl Nat := []
  deriving DecidableEq, Repr

/-- Translations held for a partition's pages (R276): partition (16: none), a 4 KiB page of it, and the log2 of its 4 KiB pages; requests and page requests outstanding. -/
structure Ats where
  cache : List (Nat × Nat × Nat) := []
  asked : List (Nat × Nat) := []
  pri : List (Nat × Nat) := []
  /-- Invalidation requests that bursts in flight still hold up: partition, first page, pages. -/
  inval : List (Nat × Nat × Nat) := []
  misses : Nat := 0
  pageReqs : Nat := 0
  failures : Nat := 0
  invals : Nat := 0
  deriving DecidableEq, Repr

/-- An event raised in this step whose record is not posted yet (R335): its queue, its source, the sample of that source, and what the record says. -/
structure EvNew where
  q : Nat
  kind : Nat
  id : Nat
  /-- Tells the operations that complete in one step apart; 0 for a core clock of the source. -/
  sample : Nat := 0
  code : Nat
  arg : Nat
  time : Nat
  deriving DecidableEq, Repr

/-- A vector that is due (R195, R337): of an event queue with the CODE of its new record, or of a completion queue. -/
structure VecDue where
  isCq : Bool
  q : Nat
  code : Nat := 0
  vec : Nat
  deriving DecidableEq, Repr

/-- The host link (R274 to R284). -/
structure HostLink where
  detached : Bool := false
  ioPort : Nat := 0
  hp0mode : Nat := 0
  hp1mode : Nat := 0
  reatterr : Bool := false
  detachCause : Nat := 0
  detaches : Nat := 0
  lostAt : Nat := 0
  /-- When an H2D response last arrived (R282). -/
  lastRsp : Nat := 0
  /-- Accesses to the register window that completed as Unsupported Request, because their requester is not the root port (R280). -/
  unsupported : Nat := 0
  /-- The host-line cache (R275): the 64-byte lines it holds in Shared state, by the address under which State.mem holds them. -/
  lines : List Nat := []
  /-- MSI-X vectors with a held cause (R281), the number of messages sent of each vector, and the messages of the last step that sent any, in the order of R337. -/
  heldVecs : List VecDue := []
  vecs : Tbl Nat := []
  msgs : List Nat := []
  ats : Ats := {}
  deriving DecidableEq, Repr

/-- The directory apart from its entries (R10, R12). -/
structure Dir where
  fresh : Nat := 1
  freed : List Nat := []
  /-- Entries held on chip by set, most recently used first: way, directory index, and the 64 bytes as the directory region holds them. -/
  sets : Tbl (List (Nat × Nat × Nat)) := []
  misses : Nat := 0
  missWin : Nat := 0
  /-- Allocations that wait for an entry, in the order in which they began to wait; each stays here until it has its entry or is given up. -/
  waiters : List Work := []
  deriving DecidableEq, Repr

/-- Why a step stops: no step does, as the spec gives every command of the block an effect in every state (log entry 37). -/
inductive Fault
  deriving DecidableEq, Repr

/-- Why a command has no meaning. -/
inductive Refusal
  /-- The command has no meaning yet. Safe. -/
  | notModelled (mnemonic : String)
  deriving DecidableEq, Repr

/-- The block. -/
structure State where
  /-- Commands waiting, first in first out. -/
  pending : List Instr := []
  /-- Follow-up actions left of the step in progress; empty between steps unless a step met its bound. -/
  work : List Work := []
  /-- The model's own counter, applied to the free values of Config. -/
  free : Nat := 0
  /-- The timestamp in ns (R346). -/
  now : Nat := 0
  /-- Bytes of T0 to T3 by TQA. -/
  mem : List Host.Cell := []
  /-- Configuration registers by offset of their 64-bit word (Table 14.1), and those in force since the last window boundary (R30, R38, R121, R125). -/
  cfg : Tbl W64 := []
  inForce : Tbl W64 := []
  t1Size : Nat := 0
  t2Size : Nat := 0
  tfMHz : Nat := 1600
  bmMHz : Nat := 1600
  peerMHz : Nat := 1600
  coreMHz : Nat := 1600
  /-- PRG_BLOCK_STATUS (Table 10.16). -/
  ready : Bool := false
  dirzero : Bool := false
  lastrst : Nat := 0
  droops : Nat := 0
  droopOn : Bool := false
  /-- mp_droop_n is 0; when it last rose. -/
  droopLow : Bool := false
  droopAt : Nat := 0
  /-- PRG_HRW_ERR (Table 14.4). -/
  badacc : Bool := false
  rsvwr : Bool := false
  errKind : Nat := 0
  errCount : Nat := 0
  errOff : Nat := 0
  objs : Tbl Obj := []
  dir : Dir := {}
  runs : List Run := []
  ctxs : Tbl Ctx := []
  seqs : Tbl Seq := []
  icache : List (Nat × Nat) := []
  ops : List Op := []
  nextOp : Nat := 1
  tags : List Tag := []
  cqs : Tbl Cq := []
  cqInt : List Nat := []
  pend : List Pend := []
  chans : Tbl Chan := []
  lines : Tbl Line := []
  clus : Tbl Clus := []
  sems : Tbl Sem := []
  /-- Contexts that wait for an entry of the waiter store (R238). -/
  storeq : List Nat := []
  rings : Tbl Ring := []
  ringStore : Tbl Nat := []
  bars : Tbl Bar := []
  nodes : Tbl HNode := []
  streams : Tbl Stream := []
  peers : Tbl Peer := []
  peerCnt : Tbl Nat := []
  txq : List TxPkt := []
  rdv : List Rdv := []
  xcount : Tbl Nat := []
  tgrps : Tbl TGrp := []
  hsets : Tbl HSet := []
  shareTot : Tbl Nat := []
  shares : Tbl Share := []
  shareSnap : Option Share := none
  slots : Tbl RSlot := []
  baseHeld : Tbl Nat := []
  /-- Outstanding tags of the command ports, 32 a port, with the time of the request; the messages last sent on each port at one time, each as its words. -/
  cqTags : Tbl (CqTag × Nat) := []
  cqMsg : Tbl (List (List Nat)) := []
  copProto : Nat := 0
  ports : Tbl Port := []
  partials : List Partial := []
  /-- The last response on the target channels of each port (R259). -/
  trsp : Tbl TRsp := []
  srcRst : List (Nat × Nat) := []
  groups : Tbl Group := []
  sats7 : Tbl Sat := []
  t0Evict : Bool := false
  decRaw : List Nat := []
  decNow : Nat := 0
  sieveErrCrc : Nat := 0
  sieveErrOther : Nat := 0
  sat : Sats := {}
  parts : Tbl Part := []
  hostl : HostLink := {}
  fw : Fw := {}
  lc : Lc := {}
  bist : Bist := {}
  /-- Counters by context (Table 13.1) and global (Table 13.2), keyed by offset, and the capture windows. -/
  cnts : Tbl (Tbl Nat) := []
  gcnt : Tbl Nat := []
  cntWin : Tbl Nat := []
  gcntWin : Tbl Nat := []
  evqs : Tbl EvQ := []
  evInt : Nat := 0
  /-- Events raised and vectors due within the step under way; both are empty between steps. -/
  evNew : List EvNew := []
  vecDue : List VecDue := []
  taps : Tbl Tap := []
  tapWin : Tap := {}
  /-- PRG_KEY_XFER (write only) and the words of PRG_RING_SEL. -/
  keyXfer : Tbl W64 := []
  deriving DecidableEq, Repr

/-- The machine right after reset: every register at the value of its table, every memory empty, READY clear (R289 sets it at the end of COLD_RESET). -/
def State.reset : State := {}

end Sys2Proof.Machine
end

