-- ==== Sys2Proof/Machine/Table.lean ====
section
/-!
DEFINITION. Reading and writing sparse tables, and memory as a list of cells in one canonical form: addresses strictly rising, no cell holding what an unlisted address
reads as (log entry 3).
-/

namespace Sys2Proof.Machine

/-- The value at k, or d where the table holds none. -/
def tget {α : Type} : Tbl α → Nat → α → α
  | [], _, d => d
  | (i, v) :: r, k, d => if i = k then v else tget r k d

/-- The table with v at k. -/
def tset {α : Type} : Tbl α → Nat → α → Tbl α
  | [], k, v => [(k, v)]
  | (i, u) :: r, k, v => if i = k then (k, v) :: r else if k < i then (k, v) :: (i, u) :: r else (i, u) :: tset r k v

/-- The table without k. -/
def tdel {α : Type} (t : Tbl α) (k : Nat) : Tbl α := t.filter fun e => e.1 ≠ k

/-- What a byte of memory that nothing has written reads as (log entry 3; T0 is zero by the wipe of R287). -/
def memDefault : Byte := 0

/-- The byte at address a. -/
def rdByte : List Host.Cell → Nat → Byte
  | [], _ => memDefault
  | (i, v) :: r, a => if i = a then v else rdByte r a

/-- The cells of a run of bytes at a, in canonical form. -/
def cellsOf : Nat → List Byte → List Host.Cell
  | _, [] => []
  | a, b :: r => if b = memDefault then cellsOf (a + 1) r else (a, b) :: cellsOf (a + 1) r

/-- The cells below address a, and the cells from address a on. -/
def cellsBelow (m : List Host.Cell) (a : Nat) : List Host.Cell := m.filter fun c => c.1 < a
def cellsFrom (m : List Host.Cell) (a : Nat) : List Host.Cell := m.filter fun c => a ≤ c.1

/-- Memory with the bytes bs written from address a on. -/
def wrBytes (m : List Host.Cell) (a : Nat) (bs : List Byte) : List Host.Cell :=
  cellsBelow m a ++ cellsOf a bs ++ cellsFrom m (a + bs.length)

/-- Memory with n bytes at a set to what an unlisted address reads as. -/
def wrZero (m : List Host.Cell) (a n : Nat) : List Host.Cell := cellsBelow m a ++ cellsFrom m (a + n)

/-- Memory with n bytes copied from address a to address b; the ranges as they stand before the copy. -/
def cpBytes (m : List Host.Cell) (a b n : Nat) : List Host.Cell :=
  cellsBelow m b ++ ((cellsBelow (cellsFrom m a) (a + n)).map fun c => (c.1 - a + b, c.2)) ++ cellsFrom m (b + n)

/-- n bytes from address a on. -/
def rdBytes (m : List Host.Cell) : Nat → Nat → List Byte
  | _, 0 => []
  | a, n + 1 => rdByte m a :: rdBytes m (a + 1) n

/-- The canonical form of memory. -/
def Memory.wf : List Host.Cell → Bool
  | [] => true
  | [(_, v)] => v ≠ memDefault
  | (i, v) :: (j, w) :: r => v ≠ memDefault && i < j && Memory.wf ((j, w) :: r)

/-- A little-endian number from bytes (R3). -/
def leNat : List Byte → Nat
  | [] => 0
  | b :: r => b.toNat + 256 * leNat r

/-- n little-endian bytes of a number. -/
def leBytes : Nat → Nat → List Byte
  | 0, _ => []
  | n + 1, v => BitVec.ofNat 8 v :: leBytes n (v / 256)

/-- An n-byte little-endian number in memory. -/
def rdNum (m : List Host.Cell) (a n : Nat) : Nat := leNat (rdBytes m a n)

/-- A record or register from its fields: (lowest bit, width, value), each value cut to its width. -/
def pack (fs : List (Nat × Nat × Nat)) : Nat := fs.foldl (fun w f => w + (f.2.2 % 2 ^ f.2.1) * 2 ^ f.1) 0

/-- A TQA from a tier and an offset (Table 1.2). -/
def tqa (t off : Nat) : Nat := t * 2 ^ 60 + off

/-- The tier field, the reserved bits and the offset of a TQA. -/
def tqaTier (a : Nat) : Nat := bitsOf a 63 60
def tqaRsv (a : Nat) : Nat := bitsOf a 59 56
def tqaOff (a : Nat) : Nat := bitsOf a 55 0

/-- Bit-serial CRC with reflected input and output: one byte. -/
def crcByte (poly : Nat) (crc : Nat) (b : Byte) : Nat :=
  (List.range 8).foldl (fun c _ => if c % 2 = 1 then (c / 2) ^^^ poly else c / 2) (crc ^^^ b.toNat)

/-- CRC-64/XZ (ECMA-182 polynomial), the Espalier digest and the recompute digest (R43, R140). -/
def crc64 (bs : List Byte) : Nat :=
  (bs.foldl (crcByte 0xC96C5795D7870F42) 0xFFFFFFFFFFFFFFFF) ^^^ 0xFFFFFFFFFFFFFFFF

/-- CRC-16 with polynomial 0x1021, initial value 0xFFFF, no reflection, no final XOR (R157). -/
def crc16 (bs : List Byte) : Nat :=
  bs.foldl (fun crc b =>
    (List.range 8).foldl (fun c _ => if c.testBit 15 then ((c * 2) % 65536) ^^^ 0x1021 else (c * 2) % 65536) (crc ^^^ (b.toNat * 256))) 0xFFFF

end Sys2Proof.Machine
end

