-- ==== Sys2Proof/Machine/Numerics.lean ====
section
/-!
DEFINITION. Numeric formats, rounding, FP32 arithmetic and the block's random bits (R171 to R177, R180).
-/

namespace Sys2Proof.Machine

/-- A number as a format holds it: sign and magnitude m times 2^e, infinity or NaN. -/
inductive Num
  | fin (neg : Bool) (m : Nat) (e : Int)
  | inf (neg : Bool)
  | nan (neg : Bool)
  deriving DecidableEq, Repr

/-- A format's element: exponent and mantissa bits, bias, the largest finite code, and whether it has infinities and NaNs (Table 6.6). -/
structure Fmt where
  eb : Nat
  mb : Nat
  bias : Int
  maxCode : Nat
  hasInf : Bool
  hasNan : Bool
  deriving DecidableEq, Repr

def fp32 : Fmt := ⟨8, 23, 127, 0x7F7FFFFF, true, true⟩
def bf16 : Fmt := ⟨8, 7, 127, 0x7F7F, true, true⟩
def e4m3 : Fmt := ⟨4, 3, 7, 0x7E, false, true⟩
def e5m2 : Fmt := ⟨5, 2, 15, 0x7B, true, true⟩
def e2m3 : Fmt := ⟨2, 3, 1, 0x1F, false, false⟩
def e3m2 : Fmt := ⟨3, 2, 3, 0x1F, false, false⟩

/-- The element format of a code of Table 3.3; none for MXINT8 and the unassigned codes. -/
def fmtOf : Nat → Option Fmt
  | 0 => some fp32
  | 1 => some bf16
  | 2 => some e4m3
  | 3 => some e5m2
  | 4 => some e4m3
  | 5 => some e5m2
  | 6 => some e2m3
  | 7 => some e3m2
  | _ => none

/-- Formats with a scale for 32 elements. -/
def isMx (code : Nat) : Bool := 4 ≤ code && code ≤ 8

/-- Bits an element takes. -/
def elemBits (code : Nat) : Nat := if code = 0 then 32 else if code = 1 then 16 else if code = 6 ∨ code = 7 then 6 else 8

/-- EMAX of R172 and G of R180. -/
def emaxOf (code : Nat) : Int :=
  match code with
  | 2 => 8
  | 4 => 8
  | 3 => 15
  | 5 => 15
  | 6 => 2
  | 7 => 4
  | _ => 0

/-- The number an element's code denotes, scale apart. -/
def Fmt.read (f : Fmt) (w : Nat) : Num :=
  let s := w.testBit (f.eb + f.mb)
  let e := bitsOf w (f.eb + f.mb - 1) f.mb
  let m := w % 2 ^ f.mb
  let mag := w % 2 ^ (f.eb + f.mb)
  if f.maxCode < mag then if f.hasInf ∧ m = 0 then .inf s else .nan s
  else if e = 0 then .fin s m (1 - f.bias - f.mb)
  else .fin s (m + 2 ^ f.mb) ((e : Int) - f.bias - f.mb)

/-- MXINT8 (R172): two's complement times 2^-6; -128 is read as -2.0. -/
def readInt8 (w : Nat) : Num := if w < 128 then .fin false w (-6) else .fin true (256 - w) (-6)

/-- Rounding: to nearest, ties to even, or stochastic with 16 random bits (R174, R175). -/
inductive Rnd
  | rne
  | stoch (r : Nat)
  deriving DecidableEq, Repr

/-- m times 2^e in units of 2^q, rounded. -/
def quant (rnd : Rnd) (m : Nat) (e q : Int) : Nat :=
  if q ≤ e then m * 2 ^ (e - q).toNat
  else
    let d := 2 ^ (q - e).toNat
    let n := m / d
    let r := m % d
    match rnd with
    | .rne => if d < 2 * r ∨ (2 * r = d ∧ n % 2 = 1) then n + 1 else n
    | .stoch b => if 65536 ≤ r * 65536 / d + b then n + 1 else n

/-- The code of a finite nonzero magnitude in a format, without any limit of its exponent: subnormal, normal, or beyond the largest finite. -/
def Fmt.code (f : Fmt) (rnd : Rnd) (m : Nat) (e : Int) : Nat :=
  let k := (Nat.log2 m : Int) + e
  let emin := 1 - f.bias
  let q := max k emin - f.mb
  let n := quant rnd m e q
  if n < 2 ^ f.mb then n
  else ((q + f.mb + f.bias).toNat) * 2 ^ f.mb + (n - 2 ^ f.mb)

/-- What one conversion counted (R173). -/
structure Tally where
  elems : Nat := 0
  ovf : Nat := 0
  unf : Nat := 0
  nonfin : Nat := 0
  deriving DecidableEq, Repr

def Tally.add (a b : Tally) : Tally := ⟨a.elems + b.elems, a.ovf + b.ovf, a.unf + b.unf, a.nonfin + b.nonfin⟩

/-- A quiet NaN of a format: the top mantissa bit set, the payload below it free (Table 6.7, log entry 6). -/
def Fmt.quiet (f : Fmt) (neg : Bool) (seed : Nat) : Nat :=
  if f.hasInf then
    b2n neg * 2 ^ (f.eb + f.mb) + (2 ^ f.eb - 1) * 2 ^ f.mb + 2 ^ (f.mb - 1) + Config.nanPayload seed % 2 ^ (f.mb - 1)
  else b2n (Config.nanSign seed) * 2 ^ (f.eb + f.mb) + 2 ^ (f.eb + f.mb) - 1

/-- Conversion of a number to an element code under Table 6.7. The caller treats infinities and NaNs of formats that have neither (MXFP6). -/
def Fmt.conv (f : Fmt) (rnd : Rnd) (x : Num) (seed : Nat) : Nat × Tally :=
  let sg := fun (neg : Bool) => b2n neg * 2 ^ (f.eb + f.mb)
  match x with
  | .nan neg => (f.quiet neg seed, { elems := 1, nonfin := 1 })
  | .inf neg => if f.hasInf then (sg neg + f.maxCode + 1, { elems := 1, nonfin := 1 }) else (f.quiet neg seed, { elems := 1, nonfin := 1 })
  | .fin neg m e =>
    if m = 0 then (sg neg, { elems := 1 })
    else
      let c := f.code rnd m e
      if f.maxCode < c then (sg neg + f.maxCode, { elems := 1, ovf := 1 })
      else if c = 0 then (sg neg, { elems := 1, unf := 1 })
      else (sg neg + c, { elems := 1 })

/-- Conversion to MXINT8 (R172, Table 6.7): clamped to -127 to 127. -/
def convInt8 (rnd : Rnd) (x : Num) : Nat × Tally :=
  match x with
  | .fin neg m e =>
    if m = 0 then (0, { elems := 1 })
    else
      let n := quant rnd m e (-6)
      let t : Tally := if 127 < n then { elems := 1, ovf := 1 } else if n = 0 then { elems := 1, unf := 1 } else { elems := 1 }
      let n := min n 127
      (if neg then (256 - n) % 256 else n, t)
  | _ => (0, { elems := 1, nonfin := 1 })

/-- A number scaled by 2^k. -/
def Num.scale (x : Num) (k : Int) : Num :=
  match x with
  | .fin s m e => .fin s m (e + k)
  | y => y

def Num.isFin : Num → Bool
  | .fin _ _ _ => true
  | _ => false

/-- A finite magnitude is less than another. -/
def magLt (m : Nat) (e : Int) (n : Nat) (g : Int) : Bool :=
  let k := min e g
  m * 2 ^ (e - k).toNat < n * 2 ^ (g - k).toNat

/-- The larger magnitude of two, over finite numbers; others are passed over. -/
def maxMag (a b : Num) : Num :=
  match a, b with
  | .fin _ m e, .fin _ n g => if magLt m e n g then .fin false n g else .fin false m e
  | a, _ => a

/-- The largest finite magnitude of a list; zero where it has none. -/
def amaxOf (l : List Num) : Num := l.foldl maxMag (.fin false 0 0)

/-- Floor and ceiling of log2 of a nonzero finite magnitude. -/
def floorLog : Num → Int
  | .fin _ m e => (Nat.log2 m : Int) + e
  | _ => 0
def ceilLog : Num → Int
  | .fin _ m e => (Nat.log2 m : Int) + e + if 2 ^ Nat.log2 m = m then 0 else 1
  | _ => 0
def Num.isZero : Num → Bool
  | .fin _ m _ => m = 0
  | _ => false

def clampInt (x lo hi : Int) : Int := max lo (min x hi)

/-- The result of an FP32 operation as a 32-bit word (R177): round to nearest even, overflow to infinity, subnormals kept. -/
def toFp32 (x : Num) (seed : Nat) : Nat :=
  match x with
  | .fin neg m e =>
    if m = 0 then b2n neg * 2 ^ 31
    else let c := fp32.code .rne m e; b2n neg * 2 ^ 31 + min c 0x7F800000
  | .inf neg => b2n neg * 2 ^ 31 + 0x7F800000
  | .nan neg => fp32.quiet neg seed

def ofFp32 (w : Nat) : Num := fp32.read w

/-- Exact sum, with the signs of zero of IEEE 754. -/
def addNum (a b : Num) (seed : Nat) : Num :=
  match a, b with
  | .nan s, _ => .nan s
  | _, .nan s => .nan s
  | .inf s, .inf t => if s = t then .inf s else .nan (Config.nanSign seed)
  | .inf s, _ => .inf s
  | _, .inf s => .inf s
  | .fin s m e, .fin t n g =>
    let k := min e g
    let x : Int := (if s then -1 else 1) * (m * 2 ^ (e - k).toNat : Nat)
    let y : Int := (if t then -1 else 1) * (n * 2 ^ (g - k).toNat : Nat)
    if x + y = 0 then .fin (s && t) 0 0 else .fin (x + y < 0) (x + y).natAbs k

def negNum : Num → Num
  | .fin s m e => .fin (!s) m e
  | .inf s => .inf (!s)
  | .nan s => .nan (!s)

def mulNum (a b : Num) (seed : Nat) : Num :=
  match a, b with
  | .nan s, _ => .nan s
  | _, .nan s => .nan s
  | .inf s, .inf t => .inf (s ^^ t)
  | .inf s, .fin t n _ => if n = 0 then .nan (Config.nanSign seed) else .inf (s ^^ t)
  | .fin s m _, .inf t => if m = 0 then .nan (Config.nanSign seed) else .inf (s ^^ t)
  | .fin s m e, .fin t n g => .fin (s ^^ t) (m * n) (e + g)

/-- A quotient with a last bit that says whether it is exact, which rounds as the exact one does. -/
def divNum (a b : Num) (seed : Nat) : Num :=
  match a, b with
  | .nan s, _ => .nan s
  | _, .nan s => .nan s
  | .inf _, .inf _ => .nan (Config.nanSign seed)
  | .inf s, .fin t _ _ => .inf (s ^^ t)
  | .fin s _ _, .inf t => .fin (s ^^ t) 0 0
  | .fin s m e, .fin t n g =>
    if n = 0 then if m = 0 then .nan (Config.nanSign seed) else .inf (s ^^ t)
    else
      let k := 64 + Nat.log2 n
      let q := m * 2 ^ k / n
      .fin (s ^^ t) (2 * q + b2n (m * 2 ^ k % n ≠ 0)) (e - g - k - 1)

/-- Integer square root, bit by bit from bit n - 1. -/
def isqrt : Nat → Nat → Nat → Nat
  | 0, _, r => r
  | n + 1, x, r => isqrt n x (let c := r + 2 ^ n; if c * c ≤ x then c else r)

/-- A square root with a last bit that says whether it is exact. -/
def sqrtNum (a : Num) (seed : Nat) : Num :=
  match a with
  | .nan s => .nan s
  | .inf s => if s then .nan (Config.nanSign seed) else .inf false
  | .fin s m e =>
    if m = 0 then .fin s 0 0
    else if s then .nan (Config.nanSign seed)
    else
      let m := if e % 2 = 0 then m else 2 * m
      let e := if e % 2 = 0 then e else e - 1
      let y := m * 2 ^ 64
      let r := isqrt (Nat.log2 y / 2 + 1) y 0
      .fin false (2 * r + b2n (r * r ≠ y)) (e / 2 - 33)

/-- FP32 operations on 32-bit words. -/
def fAdd (a b seed : Nat) : Nat := toFp32 (addNum (ofFp32 a) (ofFp32 b) seed) seed
def fSub (a b seed : Nat) : Nat := toFp32 (addNum (ofFp32 a) (negNum (ofFp32 b)) seed) seed
def fMul (a b seed : Nat) : Nat := toFp32 (mulNum (ofFp32 a) (ofFp32 b) seed) seed
def fDiv (a b seed : Nat) : Nat := toFp32 (divNum (ofFp32 a) (ofFp32 b) seed) seed
def fSqrt (a seed : Nat) : Nat := toFp32 (sqrtNum (ofFp32 a) seed) seed
def fFin (a : Nat) : Bool := (ofFp32 a).isFin
def fAbs (a : Nat) : Nat := a % 2 ^ 31
/-- a < b over finite words. -/
def fLt (a b : Nat) : Bool :=
  match addNum (ofFp32 a) (negNum (ofFp32 b)) 0 with
  | .fin s m _ => s && m ≠ 0
  | _ => false

/-- One round of Philox4x32 and its ten rounds (R176; constants of Salmon et al. 2011, log entry 12). -/
def philoxRound (c : Nat × Nat × Nat × Nat) (k0 k1 : Nat) : Nat × Nat × Nat × Nat :=
  let p0 := 0xD2511F53 * c.1
  let p1 := 0xCD9E8D57 * c.2.2.1
  ((p1 / 2 ^ 32) ^^^ c.2.1 ^^^ k0, p1 % 2 ^ 32, (p0 / 2 ^ 32) ^^^ c.2.2.2 ^^^ k1, p0 % 2 ^ 32)

def philox : Nat → (Nat × Nat × Nat × Nat) → Nat → Nat → Nat × Nat × Nat × Nat
  | 0, c, _, _ => c
  | n + 1, c, k0, k1 => philox n (philoxRound c k0 k1) ((k0 + 0x9E3779B9) % 2 ^ 32) ((k1 + 0xBB67AE85) % 2 ^ 32)

/-- The 16 random bits of element x of a destination (R176). -/
def srBits (key hdl step x : Nat) : Nat :=
  let i := x / 8
  let w := philox 10 (i % 2 ^ 32, i / 2 ^ 32 % 2 ^ 32, hdl % 2 ^ 32, step % 2 ^ 32) (key % 2 ^ 32) (key / 2 ^ 32 % 2 ^ 32)
  let v := match x % 8 / 2 with
    | 0 => w.1
    | 1 => w.2.1
    | 2 => w.2.2.1
    | _ => w.2.2.2
  if x % 2 = 0 then v % 65536 else v / 65536 % 65536

/-- Bytes of n elements of a format, and of the whole object with its scales at the next 4 KiB boundary (R171). -/
def elemBytes (code n : Nat) : Nat := (n * elemBits code + 7) / 8
def fmtLen (code n : Nat) : Nat := if isMx code then up4k (up4k (elemBytes code n) + n / 32) else up4k (elemBytes code n)
/-- Elements in RAWLEN bytes of a format without scales. -/
def elemsIn (code rawlen : Nat) : Nat := rawlen * 8 / elemBits code

/-- Element j's code in an element array. -/
def elemAt (code : Nat) (m : List Host.Cell) (base j : Nat) : Nat :=
  if code = 0 then rdNum m (base + 4 * j) 4
  else if code = 1 then rdNum m (base + 2 * j) 2
  else if code = 6 ∨ code = 7 then bitsOf (rdNum m (base + j / 4 * 3) 3) (6 * (j % 4) + 5) (6 * (j % 4))
  else rdNum m (base + j) 1

/-- Four 6-bit codes in three bytes. -/
def packSix : List Nat → List Byte
  | a :: b :: c :: d :: r => leBytes 3 (a + b * 64 + c * 4096 + d * 262144) ++ packSix r
  | _ => []

/-- Element codes to bytes (R171). -/
def elemsToBytes (code : Nat) (l : List Nat) : List Byte :=
  if code = 6 ∨ code = 7 then packSix l else l.flatMap fun a => leBytes (elemBits code / 8) a

/-- The number element j denotes, its block's scale applied: scale array at scBase. -/
def dequantAt (code : Nat) (m : List Host.Cell) (base scBase j : Nat) : Num :=
  let w := elemAt code m base j
  let x := match fmtOf code with
    | some f => f.read w
    | none => readInt8 w
  if isMx code then
    let sc := rdNum m (scBase + j / 32) 1
    if sc = 0xFF then .nan false else x.scale ((sc : Int) - 127)
  else x

/-- One MX block quantized (R172): the scale byte and the element codes. A block that Table 6.7 gives scale 0xFF keeps the codes of its finite elements under the scale of
amax; its non-finite elements' codes are free (log entry 13). -/
def mxBlock (code : Nat) (rnd : Nat → Rnd) (xs : List Num) (x0 seed : Nat) : Nat × List Nat × Tally :=
  let a := amaxOf (xs.filter Num.isFin)
  let sc : Nat := if a.isZero then 0 else (clampInt (floorLog a - emaxOf code + 127) 0 254).toNat
  let els := (xs.zip (List.range xs.length)).map fun p =>
    let x := p.1.scale (127 - (sc : Int))
    match fmtOf code with
    | some f => if f.hasNan ∨ x.isFin then f.conv (rnd (x0 + p.2)) x (seed + x0 + p.2) else ((Config.errData (seed + x0 + p.2)).toNat % 64, ({ elems := 1, nonfin := 1 } : Tally))
    | none => if x.isFin then convInt8 (rnd (x0 + p.2)) x else ((Config.errData (seed + x0 + p.2)).toNat, { elems := 1, nonfin := 1 })
  let noNan : Bool := match fmtOf code with
    | some f => !f.hasNan
    | none => true
  let sc := if noNan ∧ xs.any (fun x => !x.isFin) then 0xFF else sc
  (sc, els.map fun e => e.1, els.foldl (fun t e => t.add e.2) {})

/-- Blocks of 32 quantized one after another. -/
def mxBlocks (code : Nat) (rnd : Nat → Rnd) (seed : Nat) : Nat → Nat → List Num → List Nat × List Nat × Tally
  | 0, _, _ => ([], [], {})
  | n + 1, x0, xs =>
    if xs = [] then ([], [], {})
    else
      let (sc, el, t) := mxBlock code rnd (xs.take 32) x0 seed
      let (scs, els, u) := mxBlocks code rnd seed n (x0 + 32) (xs.drop 32)
      (sc :: scs, el ++ els, t.add u)

/-- Numbers quantized into a format: element bytes, scale bytes, tally. -/
def quantParts (code : Nat) (rnd : Nat → Rnd) (xs : List Num) (seed : Nat) : List Byte × List Byte × Tally :=
  if isMx code then
    let (scs, els, t) := mxBlocks code rnd seed xs.length 0 xs
    (elemsToBytes code els, scs.map (BitVec.ofNat 8), t)
  else
    match fmtOf code with
    | some f =>
      let l := (xs.zip (List.range xs.length)).map fun p => f.conv (rnd p.2) p.1 (seed + p.2)
      (elemsToBytes code (l.map fun e => e.1), [], l.foldl (fun t e => t.add e.2) {})
    | none => ([], [], {})

/-- FP32 words in bytes, as numbers. -/
def fp32s (n : Nat) (bs : List Byte) : List Nat := (List.range n).map fun i => leNat ((bs.drop (4 * i)).take 4)

end Sys2Proof.Machine
end

