-- ==== Sys2Proof/Machine/Ops.lean ====
section
/-!
DEFINITION. The named operations over State: reading and writing its tables, configuration registers, resource ranges and windows.
-/

namespace Sys2Proof.Machine

def State.obj (s : State) (x : Nat) : Obj := tget s.objs x {}
def State.setObj (s : State) (x : Nat) (o : Obj) : State := { s with objs := tset s.objs x o }
def State.modObj (s : State) (x : Nat) (f : Obj → Obj) : State := s.setObj x (f (s.obj x))

def State.ctx (s : State) (c : Nat) : Ctx := tget s.ctxs c {}
def State.setCtx (s : State) (c : Nat) (v : Ctx) : State := { s with ctxs := tset s.ctxs c v }
def State.modCtx (s : State) (c : Nat) (f : Ctx → Ctx) : State := s.setCtx c (f (s.ctx c))

def State.part (s : State) (p : Nat) : Part := tget s.parts p {}
def State.setPart (s : State) (p : Nat) (v : Part) : State := { s with parts := tset s.parts p v }
def State.modPart (s : State) (p : Nat) (f : Part → Part) : State := s.setPart p (f (s.part p))

def State.seq (s : State) (q : Nat) : Seq := tget s.seqs q {}
def State.setSeq (s : State) (q : Nat) (v : Seq) : State := { s with seqs := tset s.seqs q v }

def State.cq (s : State) (q : Nat) : Cq := tget s.cqs q {}
def State.setCq (s : State) (q : Nat) (v : Cq) : State := { s with cqs := tset s.cqs q v }

def State.chan (s : State) (ch : Nat) : Chan := tget s.chans ch {}
def State.setChan (s : State) (ch : Nat) (v : Chan) : State := { s with chans := tset s.chans ch v }
def State.modChan (s : State) (ch : Nat) (f : Chan → Chan) : State := s.setChan ch (f (s.chan ch))

def State.line (s : State) (l : Nat) : Line := tget s.lines l {}
def State.setLine (s : State) (l : Nat) (v : Line) : State := { s with lines := tset s.lines l v }

def State.cluster (s : State) (k : Nat) : Clus := tget s.clus k {}
def State.setCluster (s : State) (k : Nat) (v : Clus) : State := { s with clus := tset s.clus k v }

def State.sem (s : State) (n : Nat) : Sem := tget s.sems n {}
def State.setSem (s : State) (n : Nat) (v : Sem) : State := { s with sems := tset s.sems n v }

def State.ring (s : State) (n : Nat) : Ring := tget s.rings n {}
def State.setRing (s : State) (n : Nat) (v : Ring) : State := { s with rings := tset s.rings n v }

def State.bar (s : State) (n : Nat) : Bar := tget s.bars n {}
def State.setBar (s : State) (n : Nat) (v : Bar) : State := { s with bars := tset s.bars n v }

def State.node (s : State) (n : Nat) : HNode := tget s.nodes n {}
def State.setNode (s : State) (n : Nat) (v : HNode) : State := { s with nodes := tset s.nodes n v }

def State.peer (s : State) (k : Nat) : Peer := tget s.peers k {}
def State.setPeer (s : State) (k : Nat) (v : Peer) : State := { s with peers := tset s.peers k v }

/-- The stream of a carrier in a class: four classes a carrier. -/
def State.stream (s : State) (k cls : Nat) : Stream := tget s.streams (4 * k + cls) {}
def State.setStream (s : State) (k cls : Nat) (v : Stream) : State := { s with streams := tset s.streams (4 * k + cls) v }

def State.tgrp (s : State) (g : Nat) : TGrp := tget s.tgrps g {}
def State.setTgrp (s : State) (g : Nat) (v : TGrp) : State := { s with tgrps := tset s.tgrps g v }

def State.hset (s : State) (g : Nat) : HSet := tget s.hsets g {}
def State.setHset (s : State) (g : Nat) (v : HSet) : State := { s with hsets := tset s.hsets g v }

def State.slot (s : State) (n : Nat) : RSlot := tget s.slots n {}
def State.setSlot (s : State) (n : Nat) (v : RSlot) : State := { s with slots := tset s.slots n v }

def State.port (s : State) (n : Nat) : Port := tget s.ports n {}
def State.setPort (s : State) (n : Nat) (v : Port) : State := { s with ports := tset s.ports n v }
def State.modPort (s : State) (n : Nat) (f : Port → Port) : State := s.setPort n (f (s.port n))

def State.group (s : State) (g : Nat) : Group := tget s.groups g {}
def State.setGroup (s : State) (g : Nat) (v : Group) : State := { s with groups := tset s.groups g v }

def State.evq (s : State) (q : Nat) : EvQ := tget s.evqs q {}
def State.setEvq (s : State) (q : Nat) (v : EvQ) : State := { s with evqs := tset s.evqs q v }

def State.tapOf (s : State) (n : Nat) : Tap := tget s.taps n {}
def State.setTap (s : State) (n : Nat) (v : Tap) : State := { s with taps := tset s.taps n v }

def State.core (s : State) (n : Nat) : Core := tget s.fw.cores n {}
def State.setCore (s : State) (n : Nat) (v : Core) : State := { s with fw := { s.fw with cores := tset s.fw.cores n v } }

def State.lock (s : State) (n : Nat) : Lock := tget s.fw.locks n {}
def State.setLock (s : State) (n : Nat) (v : Lock) : State := { s with fw := { s.fw with locks := tset s.fw.locks n v } }

/-- The operation in flight with number o. -/
def State.op (s : State) (o : Nat) : Option Op := s.ops.find? fun p => p.id = o
def State.setOp (s : State) (v : Op) : State := { s with ops := s.ops.map fun p => if p.id = v.id then v else p }

/-- A follow-up action joins the end of the work list. -/
def State.todo (s : State) (w : Work) : State := { s with work := s.work ++ [w] }

/-- An operation leaves those in flight; a channel of its that is DRAINING is looked at (R203). -/
def State.delOp (s : State) (o : Nat) : State :=
  let t := { s with ops := s.ops.filter fun p => p.id ≠ o }
  match (s.op o).bind fun p => p.chan with
  | some ch => if (s.chan ch).st = 4 then t.todo (.chanCheck ch) else t
  | none => t

/-- A fresh free value's index. -/
def State.tick (s : State) : State := { s with free := s.free + 1 }

/-- Bytes written to memory at a TQA. -/
def State.store (s : State) (a : Nat) (bs : List Byte) : State := { s with mem := wrBytes s.mem a bs }

/-- Global counters (Table 13.2), saturating at 2^64 - 1. -/
def State.gadd (s : State) (off n : Nat) : State := { s with gcnt := tset s.gcnt off (satAdd 64 (tget s.gcnt off 0) n) }

/-- A context's counter (Table 13.1). -/
def State.cadd (s : State) (c off n : Nat) : State :=
  let b := tget s.cnts c []
  { s with cnts := tset s.cnts c (tset b off (satAdd 64 (tget b off 0) n)) }

/-- Capacity C(t) before unusable banks and windows: the block's region less the recovery reserve of T0 (R25). -/
def regionSize (s : State) (t : Nat) : Nat :=
  match t with
  | 0 => Config.t0Size
  | 1 => s.t1Size
  | 2 => s.t2Size
  | _ => 0

/-- Ceiling and reserve of a port group at reset, from its bytes per clock times 16 and the slower of its clock and the core clock (R125, R273, Table 4.5). -/
def groupReset (s : State) (k mhz : Nat) : Nat :=
  let ceil := min mhz s.coreMHz * k / 1000
  ceil + ceil / 16 * 2 ^ 32

/-- Reset values of the configuration registers whose reset is not zero. -/
def cfgReset (s : State) (off : Nat) : Nat :=
  if off = 0x84020 then 0x1F8000
  else if off = 0x84028 then (s.t1Size - Config.dirRegion) / 64 / 4096 * 4096
  else if off = 0x84030 then s.t2Size / 64 / 4096 * 4096
  else if 0x8C000 ≤ off ∧ off < 0x8C040 then 0xFFFF
  else if 0x92000 ≤ off ∧ off < 0x93000 ∧ off % 256 < 96 then 0xFFFFFFFFFFFFFFFF
  else if 0x94080 ≤ off ∧ off < 0x94100 then 0x000007D000010002
  else if off = 0x94100 then groupReset s 65536 s.tfMHz
  else if off = 0x94108 then groupReset s 32768 s.bmMHz
  else if off = 0x94110 then 0x0000020000002000
  else if off = 0x94118 then groupReset s 8192 s.peerMHz
  else if off = 0x94148 then 0x000320C80000012C
  else if off = 0x94150 then 0x0004287400000190
  else if off = 0x94158 then 0x0001D8A8000007D0
  else if off = 0x94160 then 0x1E8480
  else if off = 0x94188 then 0x08080400
  else if off = 0x98000 then 0x00010032025803E8
  else if off = 0x9E800 then 0x641388
  else if off = 0xB3580 then 0x80032
  else if off = 0xB8000 then 0xA01F403E8
  else if off = 0xE0020 then 0x1401F4
  else if off = 0xE0300 then 0x640
  else if off = 0xF0740 then 0x3E80001
  else if 0xB9600 ≤ off ∧ off < 0xB9640 then 0x20
  else 0

/-- The value of the configuration register at window offset off. -/
def reg (s : State) (off : Nat) : Nat := (tget s.cfg off (BitVec.ofNat 64 (cfgReset s off))).toNat
def setReg (s : State) (off v : Nat) : State := { s with cfg := tset s.cfg off (BitVec.ofNat 64 v) }

/-- The value in force since the last window boundary, for the registers that change only there. -/
def regNow (s : State) (off : Nat) : Nat := (tget s.inForce off (BitVec.ofNat 64 (cfgReset s off))).toNat

/-- A malformed access or a reserved write is noted in PRG_HRW_ERR (R4, R351, Table 14.4): KIND (0 for a reserved write) and OFFSET of the first since both flags were clear. -/
def hrwError (s : State) (kind off : Nat) : State :=
  let first := !s.badacc && !s.rsvwr
  { s with badacc := s.badacc || kind ≠ 0, rsvwr := s.rsvwr || kind = 0, errCount := satAdd 16 s.errCount 1,
           errKind := if first then kind else s.errKind, errOff := if first then off else s.errOff }
/-- A write with a nonzero value in a bit outside a mask of the bits that are not reserved. -/
def rsvNote (s : State) (off v mask : Nat) : State := if v ||| mask = mask then s else hrwError s 0 off

/-- Resource ranges of a partition (Table 2.15). -/
def resWord (s : State) (p i : Nat) : Nat := reg s (0x8C040 + 0x20 * p + 8 * i)
def semBase (s : State) (p : Nat) : Nat := bitsOf (resWord s p 0) 12 0
def semCount (s : State) (p : Nat) : Nat := bitsOf (resWord s p 0) 45 32
def ringBase (s : State) (p : Nat) : Nat := bitsOf (resWord s p 1) 9 0
def ringCount (s : State) (p : Nat) : Nat := bitsOf (resWord s p 1) 42 32
def rcpBase (s : State) (p : Nat) : Nat := bitsOf (resWord s p 2) 13 0
def rcpCount (s : State) (p : Nat) : Nat := bitsOf (resWord s p 2) 46 32
def cqBase (s : State) (p : Nat) : Nat := bitsOf (resWord s p 3) 11 0
def cqCount (s : State) (p : Nat) : Nat := bitsOf (resWord s p 3) 24 12
def plBase (s : State) (p : Nat) : Nat := bitsOf (resWord s p 3) 39 32
def plCount (s : State) (p : Nat) : Nat := bitsOf (resWord s p 3) 48 40

/-- The partition whose range holds an absolute index. -/
def ownerOf (base count : Nat → Nat) (n : Nat) : Option Nat :=
  (List.range 16).find? fun p => base p ≤ n ∧ n < base p + count p
def semOwner (s : State) (n : Nat) : Option Nat := ownerOf (semBase s) (semCount s) n
def ringOwner (s : State) (n : Nat) : Option Nat := ownerOf (ringBase s) (ringCount s) n
def cqOwner (s : State) (n : Nat) : Option Nat := ownerOf (cqBase s) (cqCount s) n
def plOwner (s : State) (n : Nat) : Option Nat := ownerOf (plBase s) (plCount s) n
def rcpOwner (s : State) (n : Nat) : Option Nat := ownerOf (rcpBase s) (rcpCount s) n

/-- A partition's window in a tier (R321). -/
def winBase (s : State) (p t : Nat) : Nat := bitsOf (reg s (0xF0000 + 0x40 * p + 0x10 * t)) 55 0
def winSize (s : State) (p t : Nat) : Nat := reg s (0xF0000 + 0x40 * p + 0x10 * t + 8)

/-- The range of len bytes at a TQA lies inside the partition's window of its tier (R14, R322). -/
def inWindow (s : State) (p a len : Nat) : Bool :=
  let t := tqaTier a
  t < 4 && tqaRsv a = 0 && winBase s p t ≤ tqaOff a && tqaOff a + len ≤ winBase s p t + winSize s p t

/-- Two ranges meet. -/
def meets (a n b m : Nat) : Bool := a < b + m && b < a + n && 0 < n && 0 < m

/-- The range lies inside no partition's window (the global event queue's and the log ring's rule, R333). -/
def outsideWindows (s : State) (a len : Nat) : Bool :=
  let t := tqaTier a
  t < 4 && tqaRsv a = 0 && (List.range 16).all fun p => !meets (tqaOff a) len (winBase s p t) (winSize s p t)

/-- Context configuration (Table 2.14). -/
def ctxCfg (s : State) (c : Nat) : Nat := reg s (0x88000 + 0x40 * c)
def ctxPart (s : State) (c : Nat) : Nat := bitsOf (ctxCfg s c) 3 0
def ctxPrio (s : State) (c : Nat) : Nat := bitsOf (ctxCfg s c) 10 8
def ctxDefcq (s : State) (c : Nat) : Nat := bitsOf (ctxCfg s c) 27 16
/-- The watchdog period in ns (R66). -/
def ctxWdog (s : State) (c : Nat) : Nat :=
  let ms := bitsOf (ctxCfg s c) 47 32
  (if ms = 0 then 100 else ms) * 1000000

/-- The window counter W_now (R27). -/
def wNow (s : State) : Nat := s.now / 1024 % 2 ^ 32

/-- A handle's index and generation (Table 1.1), and the handle of an entry. -/
def hIdx (h : Nat) : Nat := bitsOf h 31 11
def hGen (h : Nat) : Nat := bitsOf h 10 0
def handleOf (s : State) (x : Nat) : Nat := x * 2048 + (s.obj x).gen

/-- Ports of Table 10.1: 16 tensor, 4 board, 2 host, 8 command ports and the peer port. A LIVE port has state 0. -/
def tpPorts : List Nat := List.range 16
def bpPorts : List Nat := [16, 17, 18, 19]
def hpPorts : List Nat := [20, 21]
def isLive (s : State) (n : Nat) : Bool := (s.port n).st = 0
def livePorts (s : State) (t : Nat) : List Nat :=
  (match t with | 1 => tpPorts | 2 => bpPorts | 3 => hpPorts | 5 => [22] | _ => []).filter (isLive s)

/-- The port of a burst to tier t at offset a, stripe or burst i, with x of R34 or R258; none while no port of the kind is LIVE. -/
def portFor (s : State) (t a i x : Nat) : Option Nat :=
  let l := livePorts s t
  if l.length = 0 then none
  else if t = 1 then l[(a / 4096 + x) % l.length]?
  else l[(i + x) % l.length]?

/-- Where the byte at a TQA stands in State.mem: offsets of T3 belong to the partition's PASID where it has one (R276, R321). -/
def memKey (s : State) (p a : Nat) : Nat :=
  let h := reg s (0xB8100 + 8 * p)
  if tqaTier a = 3 ∧ bitOf h 20 then a + (bitsOf h 19 0 + 1) * 2 ^ 64 else a

/-- Bytes of a partition's memory. -/
def rdP (s : State) (p a n : Nat) : List Byte := rdBytes s.mem (memKey s p a) n
def rdNumP (s : State) (p a n : Nat) : Nat := rdNum s.mem (memKey s p a) n
def State.storeP (s : State) (p a : Nat) (bs : List Byte) : State := s.store (memKey s p a) bs

end Sys2Proof.Machine
end

