-- ==== Sys2Proof/Machine/Observe.lean ====
section
/-!
DEFINITION. Event queues (R333 to R337), interrupt vectors (R195, R281), the synchronisation trace (R344, R345).
-/

namespace Sys2Proof.Machine

/-- An MSI-X message for a vector, or its cause held while the host is detached, once for each vector (R281). -/
def signalVec (s : State) (d : VecDue) : State :=
  if s.hostl.detached then
    if s.hostl.heldVecs.any fun e => e.vec = d.vec then s else { s with hostl := { s.hostl with heldVecs := s.hostl.heldVecs ++ [d] } }
  else
    let s := s.gadd 0x250 1
    { s with hostl := { s.hostl with vecs := tset s.hostl.vecs d.vec (tget s.hostl.vecs d.vec 0 + 1), msgs := s.hostl.msgs ++ [d.vec] } }

/-- A vector becomes due; its message goes at the end of the step, in its place of the order of R337. -/
def vecIsDue (s : State) (d : VecDue) : State := { s with vecDue := s.vecDue ++ [d] }

/-- Insert an entry into a sorted list behind every entry that it does not precede, and a stable sort by it. -/
def insertBy {α : Type} (lt : α → α → Bool) (x : α) : List α → List α
  | [] => [x]
  | y :: l => if lt x y then x :: y :: l else y :: insertBy lt x l
def sortBy {α : Type} (lt : α → α → Bool) (l : List α) : List α := l.foldl (fun r x => insertBy lt x r) []

/-- Lexicographic order of keys of one length. -/
def keyLt : List Nat → List Nat → Bool
  | [], _ => false
  | _ :: _, [] => false
  | a :: l, b :: r => a < b || (a = b && keyLt l r)

/-- A due vector's place (R337): event queues first, by the lowest CODE among the queue's new records, then the global queue before the partitions. Completion queues follow by
ascending number (log entry 162). -/
def vecKey (l : List VecDue) (d : VecDue) : List Nat :=
  [b2n d.isCq, (l.filter fun e => e.isCq = d.isCq ∧ e.q = d.q).foldl (fun a e => min a e.code) d.code, if d.isCq then d.q + 1 else if d.q = 16 then 0 else d.q + 1]

/-- Send the messages of the vectors that are due, in the order of R337. -/
def flushVecs (s : State) : State :=
  match s.vecDue with
  | [] => s
  | l => (sortBy (fun a b => keyLt (vecKey l a) (vecKey l b)) l).foldl signalVec { s with vecDue := [], hostl := { s.hostl with msgs := [] } }

/-- A ring of 2^log records of `size` bytes at base lies where R192 wants it: LOG2SIZE 6 to 16, BASE in T1 or T3 on a 4 KiB boundary, the whole ring inside the windows of
partition p (16: inside no partition's window). -/
def ringOk (s : State) (p base log size : Nat) : Bool :=
  6 ≤ log && log ≤ 16 && (tqaTier base = 1 || tqaTier base = 3) && tqaOff base % 4096 = 0 &&
    (if p < 16 then inWindow s p base (2 ^ log * size) else outsideWindows s base (2 ^ log * size))

/-- The host page of a T3 offset has a translation for partition p (16: for no partition), and no invalidation of it is under way (R276). -/
def inInval (a : Ats) (p page : Nat) : Bool := a.inval.any fun e => e.1 = p && e.2.1 ≤ page && page < e.2.1 + e.2.2
def translated (s : State) (p off : Nat) : Bool :=
  let a := s.hostl.ats
  !inInval a p (off / 4096) && a.cache.any fun e => e.1 = p && off / 4096 / 2 ^ e.2.2 = e.2.1 / 2 ^ e.2.2

/-- An ATS Translation Request for a page, once (R276). -/
def askPage (s : State) (p off : Nat) : State :=
  let a := s.hostl.ats
  if inInval a p (off / 4096) || a.asked.contains (p, off / 4096) || a.pri.contains (p, off / 4096) then s
  else { s with hostl := { s.hostl with ats := { a with asked := a.asked ++ [(p, off / 4096)], misses := satAdd 64 a.misses 1 } } }

/-- The block's own write to a host line drops its copy of it (R275). -/
def dropHostLines (s : State) (p off len : Nat) : State :=
  let a := memKey s p (tqa 3 off)
  { s with hostl := { s.hostl with lines := s.hostl.lines.filter fun l => !(a / 64 ≤ l && l * 64 < a + len) } }

/-- Bytes written to an address of partition p (16: of no partition) and read back from it go through the port of R258 or R34 (R192, Table 13.2); in T3, with a translated address
(R276, log entry 158). -/
def queueIO (s : State) (p a len x : Nat) : State :=
  let s := if tqaTier a = 3 then dropHostLines (if translated s p (tqaOff a) then s else askPage s p (tqaOff a)) p (tqaOff a) len else s
  match portFor s (tqaTier a) (tqaOff a) 0 x with
  | some n => (s.gadd (0x10 * n + 8) len).gadd (0x10 * n) 64
  | none => s

/-- An address in T3 while the host is detached. -/
def t3Away (s : State) (a : Nat) : Bool := tqaTier a = 3 && s.hostl.detached

def evqLog (e : EvQ) : Nat := bitsOf e.cfg 4 0

/-- Queue q can take a record now (R336). -/
def evWritable (s : State) (q : Nat) : Bool :=
  let e := s.evq q
  ringOk s q e.base (evqLog e) 32 && !t3Away s e.base && (e.tail + 2 ^ 32 - e.head) % 2 ^ 32 < 2 ^ evqLog e

/-- The band of an event code (R334). -/
def evLevel (code : Nat) : Nat := code / 16

/-- An event record (Table 13.3). In the global queue QINFO's partition field is zero (log entry 11). -/
def evRecord (q code kind id mask time arg coal : Nat) : Nat :=
  pack [(0, 8, 0xE2), (8, 8, code), (16, 4, if q < 16 then q else 0), (20, 1, q / 16), (21, 2, evLevel code), (24, 8, kind), (32, 32, id), (64, 64, mask),
    (128, 64, time), (192, 32, arg), (224, 32, coal)]

/-- Write a record to slot TAIL and advance TAIL; signal VEC where R337 asks for it. -/
def evPut (s : State) (q rec : Nat) : State :=
  let e := s.evq q
  let a := e.base + e.tail % 2 ^ evqLog e * 32
  let s := queueIO (if q < 16 then s.storeP q a (leBytes 32 rec) else s.store a (leBytes 32 rec)) q a 32 0
  let s := s.setEvq q { e with tail := (e.tail + 1) % 2 ^ 32 }
  if bitOf e.cfg 8 ∧ evLevel (bitsOf rec 15 8) ≤ bitsOf e.cfg 10 9 then
    vecIsDue { s with evInt := s.evInt ||| 2 ^ q } { isCq := false, q := q, code := bitsOf rec 15 8, vec := bitsOf e.cfg 26 16 }
  else s

/-- One more event of each code in a mask, for a queue that holds 64 records (R336). -/
def evCount (e : EvQ) (mask time : Nat) : EvQ :=
  (List.range 64).foldl (fun e c =>
    if bitOf mask c then { e with counts := tset e.counts c (satAdd 32 (tget e.counts c (0, 0)).1 1, time) } else e) e

/-- Post a record: written when the queue can take it, else held, else counted. -/
def evPost (s : State) (q rec : Nat) : State :=
  let e := s.evq q
  if e.held = [] ∧ e.counts = [] ∧ evWritable s q then evPut s q rec
  else if e.held.length < 64 then s.setEvq q { e with held := e.held ++ [rec] }
  else s.setEvq q (evCount e (bitsOf rec 127 64) (bitsOf rec 191 128))

/-- Write the held records of a queue that has become writable, then one record for each code counted (R336). `n` bounds the records written. -/
def evDrain : Nat → State → Nat → State
  | 0, s, _ => s
  | n + 1, s, q =>
    if evWritable s q then
      let e := s.evq q
      match e.held, e.counts with
      | r :: held, _ => evDrain n (evPut (s.setEvq q { e with held := held }) q r) q
      | [], (c, k, t) :: counts => evDrain n (evPut (s.setEvq q { e with counts := counts }) q (evRecord q c 0 0 (2 ^ c) t 0 k)) q
      | [], [] => s
    else s

/-- A source raises codes for queue q in one of its samples: (code, ARG) pairs. The record is posted at the end of the step (R335). -/
def raiseAs (s : State) (q kind id sample : Nat) (codes : List (Nat × Nat)) : State :=
  { s with evNew := s.evNew ++ codes.map fun c => { q := q, kind := kind, id := id, sample := sample, code := c.1, arg := c.2, time := s.now } }

/-- The same in a core clock of the source. -/
def raiseEv (s : State) (q kind id : Nat) (codes : List (Nat × Nat)) : State := raiseAs s q kind id 0 codes

/-- Two events go in one record: one source raised them in one sample for one queue (R335). -/
def sameRecord (a b : EvNew) : Bool := a.q = b.q && a.kind = b.kind && a.id = b.id && a.sample = b.sample && a.time = b.time

/-- Add an event to the record of its source and sample, whose CODE and ARG are those of its lowest code and whose MASK holds all its codes; or begin one. -/
def addRecord (e : EvNew) : List (EvNew × Nat) → List (EvNew × Nat)
  | [] => [(e, 2 ^ e.code)]
  | (r, m) :: l => if sameRecord r e then (if e.code < r.code then e else r, m ||| 2 ^ e.code) :: l else (r, m) :: addRecord e l

/-- The records of a step's events in the order in which they are written: ascending CODE, then SRCKIND, then SRCID (R335). -/
def newRecords (l : List EvNew) : List (EvNew × Nat) :=
  sortBy (fun a b => keyLt [a.1.time, a.1.code, a.1.kind, a.1.id] [b.1.time, b.1.code, b.1.kind, b.1.id]) (l.foldl (fun r e => addRecord e r) [])

/-- Post the records of everything the step raised (R335), then send the vectors that are due (R337). -/
def flushEvs (s : State) : State :=
  flushVecs ((newRecords s.evNew).foldl (fun s r => evPost s r.1.q (evRecord r.1.q r.1.code r.1.kind r.1.id r.2 r.1.time r.1.arg 0)) { s with evNew := [] })

/-- An event to the global queue. -/
def evG (s : State) (kind id code arg : Nat) : State := raiseEv s 16 kind id [(code, arg)]

/-- A denial of Privet (R322): counted and posted for the source that supplied the address. -/
def deny (s : State) (p kind id a : Nat) : State :=
  raiseEv (s.modPart p fun v => { v with deny := satAdd 64 v.deny 1 }) p kind id [(0x17, a % 2 ^ 32)]

/-- A partition that "G+P" names: a valid PRG_JOB_CFG or an ACTIVE context (R333). -/
def partInvolved (s : State) (p : Nat) : Bool :=
  bitOf (reg s (0xB3500 + 8 * p)) 48 || (s.ctxs.any fun e => e.2.st = .active && ctxPart s e.1 = p)

/-- An event to the global queue and to every partition R333 names. -/
def evGP (s : State) (kind id code arg : Nat) : State :=
  (List.range 16).foldl (fun s p => if partInvolved s p then raiseEv s p kind id [(code, arg)] else s) (evG s kind id code arg)

/-- Codes and numbers of parties in trace records (Table 13.6). -/
def partyKind : Party → Nat
  | .none => 0
  | .ctx _ => 1
  | .chan _ => 2
  | .source _ => 3
  | .carrier _ => 4
def partyNum : Party → Nat
  | .none => 0
  | .ctx c => c
  | .chan c => c
  | .source o => o
  | .carrier n => n

/-- Write a trace record (R344), or drop and count it while the ring is unwritable. `en` is the enable bit of PRG_TRACE_CFG. -/
def trace (s : State) (p en kind : Nat) (who by_ : Party) (obj by2 arg : Nat) : State :=
  let cfg := reg s (0xB9200 + 0x10 * p + 8)
  if !bitOf cfg en then s
  else
    let base := reg s (0xB9200 + 0x10 * p)
    let log := bitsOf cfg 4 0
    let pt := (s.part p).traceRing
    if ringOk s p base log 32 && !t3Away s base && (pt.tail + 2 ^ 32 - pt.head) % 2 ^ 32 < 2 ^ log then
      let rec_ := pack [(0, 8, 0xE3), (8, 8, kind), (16, 1, b2n pt.gap), (17, 3, partyKind who), (20, 3, partyKind by_), (24, 8, p), (32, 32, partyNum who),
        (64, 32, obj), (96, 32, by2), (128, 64, s.now), (192, 64, arg)]
      let a := base + pt.tail % 2 ^ log * 32
      let s := queueIO (s.storeP p a (leBytes 32 rec_)) p a 32 0
      s.modPart p fun v => { v with traceRing := { pt with tail := (pt.tail + 1) % 2 ^ 32, gap := false } }
    else s.modPart p fun v => { v with traceRing := { pt with gap := true, drop := satAdd 64 pt.drop 1 } }

/-- The log ring lies where R192 and R305 want it: LOG2SIZE 8 to 20, BASE in T1 or T3 on a 4 KiB boundary, inside no partition's window. -/
def logOk (s : State) : Bool :=
  let a := reg s 0xE0200
  let l := bitsOf (reg s 0xE0208) 4 0
  8 ≤ l && l ≤ 20 && (tqaTier a = 1 || tqaTier a = 3) && tqaOff a % 4096 = 0 && outsideWindows s a (2 ^ l * 32)

/-- The log ring can take a record now (R305). -/
def logWritable (s : State) : Bool :=
  logOk s && !t3Away s (reg s 0xE0200) && (s.fw.logPtr.tail + 2 ^ 32 - s.fw.logPtr.head) % 2 ^ 32 < 2 ^ bitsOf (reg s 0xE0208) 4 0

/-- Records go from the log unit's buffer to the ring while it can take them (R305). `n` bounds the records written. -/
def logDrain : Nat → State → State
  | 0, s => s
  | n + 1, s =>
    match s.fw.logBuf with
    | [] => s
    | r :: l =>
      if logWritable s then
        let pt := s.fw.logPtr
        let a := reg s 0xE0200 + pt.tail % 2 ^ bitsOf (reg s 0xE0208) 4 0 * 32
        let s := queueIO (s.store a (leBytes 32 r)) 16 a 32 0
        logDrain n { s with fw := { s.fw with logBuf := l, logPtr := { pt with tail := (pt.tail + 1) % 2 ^ 32 }, logWritten := satAdd 32 s.fw.logWritten 1 } }
      else s

/-- The log unit's buffer (R305). -/
def logBufSize : Nat := 2048

/-- Which enable bit covers an object of the wait trace: semaphore, ring or barrier. -/
inductive TraceObj
  | sem | ring | bar
  deriving DecidableEq, Repr
def TraceObj.bit : TraceObj → Nat
  | .sem => 8
  | .ring => 9
  | .bar => 10

end Sys2Proof.Machine
end

