-- ==== Sys2Proof/Machine/Records.lean ====
section
/-!
DEFINITION. Completion queues and the pending store (R192 to R195), completion and command records (Tables 2.10, 3.1, 7.2), and what follows a completion: counters,
deadlines (R112, R121), unreported failures (R64), semaphore increments (R74).
-/

namespace Sys2Proof.Machine

def cqLog (q : Cq) : Nat := bitsOf q.cfg 4 0

/-- The queue is configured (R192). -/
def cqConfigured (s : State) (q : Nat) : Bool :=
  match cqOwner s q with
  | none => false
  | some p => ringOk s p (s.cq q).base (cqLog (s.cq q)) 32

/-- A configured queue that can take a record now (R194). -/
def cqWritable (s : State) (q : Nat) : Bool :=
  let c := s.cq q
  !t3Away s c.base && (c.tail + 2 ^ 32 - c.head) % 2 ^ 32 < 2 ^ cqLog c

/-- PRG_MOV_COUNT[p] word i (Table 7.6), PRG_DL_COUNT[p] (Table 4.8) and PRG_COP_COUNT[p] (Table 5.8): saturating. -/
def movAdd (s : State) (p i n : Nat) : State := s.modPart p fun v => { v with mov := tset v.mov i (satAdd 64 (tget v.mov i 0) n) }
def dlAdd (s : State) (p i : Nat) : State := s.modPart p fun v => { v with dl := tset v.dl i (satAdd 64 (tget v.dl i 0) 1) }
def copAdd (s : State) (p i : Nat) : State := s.modPart p fun v => { v with cop := tset v.cop i (satAdd 64 (tget v.cop i 0) 1) }

/-- Who makes the addition that follows a record: the channel of a SEMINC; for CMODE 3 the completion, which is known by its context's number (R254, log entry 153). -/
def source : Party → Party
  | .ctx c => .source c
  | w => w
/-- What follows a record once it is visible or discarded (R74, R190, R201). -/
def follow (s : State) (r : Pend) : State :=
  let s := match r.csem with
    | some n => s.todo (.semAdd n 1 (source r.who))
    | none => s
  match r.push with
  | some (ring, h) => s.todo (.push ring h r.who)
  | none => s

/-- Write a record to slot TAIL, advance TAIL, interrupt where IRQ_EN asks for it (R192, R195), and do what follows the record. -/
def cqPut (s : State) (r : Pend) : State :=
  let c := s.cq r.q
  let a := c.base + c.tail % 2 ^ cqLog c * 32
  let p := (cqOwner s r.q).getD 0
  let s := queueIO (s.storeP p a (leBytes 32 r.data)) p a 32 r.q
  let s := match r.chan with
    | some ch => s.setCluster (ch / 32) { s.cluster (ch / 32) with since := s.now }
    | none => s
  let s := s.setCq r.q { c with tail := (c.tail + 1) % 2 ^ 32 }
  let s := if bitOf c.cfg 8 then
      vecIsDue { s with cqInt := if s.cqInt.contains r.q then s.cqInt else r.q :: s.cqInt } { isCq := true, q := r.q, vec := bitsOf c.cfg 26 16 }
    else s
  follow s r

/-- Records the pending store holds, in all and for one queue (R194). -/
def pendHeld (s : State) : Nat := (s.pend.filter fun r => r.entered).length
def pendHeldFor (s : State) (q : Nat) : Nat := (s.pend.filter fun r => r.entered && r.q = q).length
def pendHas (s : State) (q : Nat) : Bool := s.pend.any fun r => r.q = q
/-- The store can take one more record for queue q. -/
def pendRoom (s : State) (q : Nat) : Bool := pendHeld s < 4096 && pendHeldFor s q < 256

/-- An item of a scope has its record: what the end of a DRAIN or ABORT waits for (R203). -/
def scopeCheck (s : State) (who : Party) : State :=
  match who with
  | .ctx c => s.todo (.ctxCheck c)
  | .chan ch => s.todo (.chanCheck ch)
  | _ => s

/-- One operation less without its record (R41 INFLIGHT, R75). -/
def landed (s : State) (r : Pend) : State :=
  match r.who, r.inflight with
  | .ctx c, true => (s.modCtx c fun v => { v with live := v.live.erase r.id, full := false }).todo (.fences c)
  | _, _ => s

/-- A record enters the pending store: the first of its queue sets CQFULL and posts CQ_FULL (R194). -/
def cqEnter (s : State) (r : Pend) : State :=
  let s := landed s r
  if 0 < pendHeldFor s r.q then s else raiseEv (movAdd (s.setCq r.q { s.cq r.q with full := true }) r.part 1 1) r.part 8 r.q [(0x21, 0)]

/-- The record's item is on a mover cluster in recovery: it goes by the recovery reserve and takes no room in the store (R208). -/
def inRecovery (s : State) (r : Pend) : Bool := r.chan.any fun ch => (s.cluster (ch / 32)).st = 2

/-- Post a completion record (R192, R194): written, put in the pending store, held until the store has room, or discarded because its queue is not configured. -/
def cqPost (s : State) (r : Pend) : State :=
  if !cqConfigured s r.q then
    let c := s.cq r.q
    let s := match cqOwner s r.q with
      | some p => if 6 ≤ cqLog c ∧ cqLog c ≤ 16 ∧ !inWindow s p c.base (2 ^ cqLog c * 32) then deny s p 8 r.q c.base else s
      | none => s
    let s := raiseEv (movAdd s r.part 0 1) r.part 8 r.q [(0x22, 0)]
    scopeCheck (follow (landed s r) r) r.who
  else if pendHas s r.q || !cqWritable s r.q then
    if inRecovery s r then let s := landed s r; { s with pend := s.pend ++ [{ r with entered := false, reserve := true, inflight := false }] }
    else if pendRoom s r.q then let s := cqEnter s r; { s with pend := s.pend ++ [{ r with entered := true, inflight := false }] }
    else { s with pend := s.pend ++ [{ r with entered := false }] }
  else scopeCheck (cqPut (landed s r) r) r.who

/-- Records that waited for room enter the store in order; the channels they held are free. -/
def pendEnter (s : State) : State :=
  s.pend.foldl (fun s r =>
    if r.entered ∨ r.reserve ∨ !pendRoom s r.q then s
    else
      let s := cqEnter s r
      let s := { s with pend := s.pend.map fun q => if q = r then { r with entered := true, inflight := false } else q }
      match r.chan with
      | some ch => s.todo (.chanCheck ch)
      | none => s) s

/-- Write the pending records of a queue that has become writable, oldest first. `n` bounds their number. -/
def cqDrain : Nat → State → Nat → State
  | 0, s, _ => s
  | n + 1, s, q =>
    match s.pend.find? (fun r => r.q = q) with
    | none => s
    | some r =>
      if cqConfigured s q && cqWritable s q then
        let s := { s with pend := s.pend.erase r }
        let s := scopeCheck (cqPut (landed s r) r) r.who
        cqDrain n (match r.chan with
          | some ch => s.todo (.chanCheck ch)
          | none => s) q
      else s

/-- Every queue with pending records that can be written again. -/
def cqDrainAll (s : State) : State :=
  pendEnter ((s.pend.map fun r => r.q).dedup.foldl (fun s q => cqDrain 4096 s q) s)

/-- The queue a context's default records go to. -/
def defaultCq (s : State) (c : Nat) : Nat := if ctxDefcq s c < cqCount s (ctxPart s c) then cqBase s (ctxPart s c) + ctxDefcq s c else 4096

/-- A command record (Table 2.10), in the context's default queue; LASTSTAT follows (Table 2.13). -/
def cmdRecord (s : State) (c : Nat) (k : Cmd) (status plan extra : Nat) : State :=
  let data := pack [(0, 8, 0xE1), (8, 8, status), (16, 8, k.cmd), (24, 8, c), (32, 24, k.tag), (64, 8, k.slot), (96, 32, plan), (128, 64, s.now), (192, 64, extra)]
  let s := s.modCtx c fun v => { v with laststat := status }
  cqPost s { q := defaultCq s c, data := data, who := .none, part := ctxPart s c }

/-- The absolute queue of a request: the default queue for CMODE 1 (and 0), CQ for 2 and 3. -/
def reqData (s : State) (r : Req) (status handle flags disp detail result : Nat) : Nat :=
  let c := partyNum r.who
  let fl := flags + b2n r.ladle + 2 * b2n r.merged + 128 * r.slot
  pack [(0, 8, 0xC1), (8, 8, status), (16, 8, r.opcode), (24, 8, c), (32, 32, r.pc), (64, 32, handle), (96, 8, fl), (104, 3, disp), (112, 16, detail), (128, 64, s.now),
    (192, 64, result)]

/-- The absolute deadline of a request, if one is known. -/
def Req.due (r : Req) : Option Nat :=
  match r.dl with
  | .at d => some d
  | _ => none

/-- The status that is reported (R112): a failure, then SUBST, then LATE, then OK. -/
def reported (status : Nat) (late : Bool) : Nat := if 0x10 ≤ status ∨ status = 1 then status else if late then 2 else status

/-- Lateness of a completion now; a LAND with a cutoff is never late. -/
def isLate (s : State) (r : Req) : Bool :=
  match r.due with
  | some d => d < s.now && r.opcode ≠ 0x32
  | none => false

/-- Whether partition p is in real-time mode (R121), with slack (R127), and its SATRESP bits. -/
def rtMode (s : State) (p : Nat) : Bool := bitOf (regNow s (0x94080 + 8 * p)) 0

/-- What a request leaves when it completes. -/
structure Res where
  status : Nat := 0
  handle : Nat := 0
  flags : Nat := 0
  disp : Nat := 0
  detail : Nat := 0
  result : Nat := 0
  /-- The failure raises nothing under R64: the runtime or the program asked for it. -/
  quiet : Bool := false
  deriving DecidableEq, Repr

/-- Counters of one completion (Table 13.1, PRG_DL_COUNT, PRG_MOV_COUNT) and its events (R121, R335). -/
def countDone (s : State) (r : Req) (status : Nat) (late : Bool) : State :=
  match r.who with
  | .ctx c =>
    let s := s.cadd c 0x08 1
    let s := if 0x10 ≤ status then s.cadd c 0x10 1 else s
    let s := if r.opcode = 0x14 ∨ r.opcode = 0x15 then s.cadd c 0x18 1 else s
    let s := if status = 1 then s.cadd c 0x20 1 else s
    let s := if status = 2 then s.cadd c 0x28 1 else s
    let s := if late then dlAdd s r.part 1 else s
    let s := if status = 0x21 then dlAdd (s.cadd c 0x38 1) r.part 3 else s
    let s := if status = 0x10 then movAdd s r.part 6 1 else s
    if late ∧ rtMode s r.part then raiseAs s r.part 1 c (r.id + 1) [(0x11, r.handle)] else s
  | _ => s

/-- The failure of a CMODE 0 instruction waits for its exception (R64). -/
def noteFail (s : State) (r : Req) (x : Res) (status : Nat) : State :=
  match r.who with
  | .ctx c =>
    if r.cmode = 0 ∧ 0x10 ≤ status ∧ ¬ x.quiet then
      s.modCtx c fun v => { v with fails := v.fails ++ [{ pc := r.pc, opcode := r.opcode, status := status, handle := x.handle, detail := x.detail }] }
    else s
  | _ => s

/-- A request of an instruction completes with a result: counted, recorded where CMODE sends it, or left to R64. `async` tells an operation in flight from an instruction that
completes at issue. -/
def complete (s : State) (r : Req) (x : Res) (async : Bool) : State :=
  let late := isLate s r
  let status := reported x.status late
  let s := countDone s r status late
  let s := noteFail s r x status
  let p : Pend := { q := r.cq, id := r.id, data := reqData s r status x.handle x.flags x.disp x.detail x.result, csem := r.csem, who := r.who, part := r.part, chan := r.chan, inflight := async }
  if r.cmode = 0 then scopeCheck (landed s p) r.who else cqPost s p

end Sys2Proof.Machine
end

