-- ==== Sys2Proof/Machine/Sieve.lean ====
section
/-!
DEFINITION. The Sieve code: blocks, frames and encoded objects (R154 to R161).
-/

namespace Sys2Proof.Machine

/-- ROM code lengths by table: symbols k0 to k14, then Z and ESC (Table 6.4). -/
def romLens : List (List Nat) :=
  [[1, 2, 3, 4, 7, 8, 9, 12, 12, 12, 12, 12, 12, 12, 12, 5, 6],
   [2, 2, 2, 4, 4, 5, 6, 9, 9, 9, 9, 9, 9, 9, 9, 5, 5],
   [3, 2, 2, 3, 4, 4, 5, 6, 7, 8, 9, 11, 11, 11, 11, 5, 5],
   [3, 3, 3, 3, 3, 3, 4, 4, 5, 6, 7, 9, 9, 9, 9, 5, 5],
   [3, 3, 4, 4, 5, 5, 6, 7, 7, 8, 8, 9, 9, 9, 9, 1, 6],
   [4, 4, 4, 4, 4, 4, 4, 4, 4, 4, 4, 4, 4, 4, 5, 4, 5],
   [4, 4, 4, 4, 4, 4, 4, 4, 4, 4, 5, 6, 6, 6, 6, 2, 5],
   [4, 4, 4, 4, 4, 4, 4, 4, 5, 5, 5, 5, 5, 5, 5, 5, 2]]

def romLen (n sym : Nat) : Nat := (romLens.getD n []).getD sym 0

/-- Canonical code assignment (R159): (symbol, length, code), shortest length first, then symbol order. -/
def assignCodes (lens : List Nat) : List (Nat × Nat × Nat) :=
  let step := fun (acc : Nat × Nat × List (Nat × Nat × Nat)) (x : Nat × Nat) =>
    let (code, prev, out) := acc
    let (l, sym) := x
    if lens.getD sym 0 = l then
      let code := code * 2 ^ (l - prev)
      (code + 1, l, out ++ [(sym, l, code)])
    else acc
  ((((List.range 12).flatMap fun l => (List.range 17).map fun s => (l + 1, s)).foldl step (0, 0, []))).2.2

/-- The bits of a code, most significant first. -/
def codeBits (l code : Nat) : List Bool := (List.range l).map fun i => code.testBit (l - 1 - i)

/-- Element j of a block: sign and mantissa byte, and exponent (R157, R158). -/
def elemOf (w : Nat) : Nat × Nat := (bitsOf w 15 15 * 128 + bitsOf w 6 0, bitsOf w 14 7)

/-- The 16-bit words of raw bytes. -/
def words16 : List Byte → List Nat
  | a :: b :: r => (a.toNat + 256 * b.toNat) :: words16 r
  | _ => []

/-- The symbol of an exponent under BASE (R160): k0 to k14 are 0 to 14, Z 15, ESC 16. -/
def symOf (base e : Nat) : Nat := if e = 0 then 15 else if base - e ≤ 14 then base - e else 16

/-- Bits of the EXP section under table n. -/
def expLen (n base : Nat) (es : List Nat) : Nat :=
  (es.map fun e => romLen n (symOf base e) + if symOf base e = 16 then 8 else 0).foldl (· + ·) 0

def expBits (n base : Nat) (es : List Nat) : List Bool :=
  let codes := assignCodes (romLens.getD n [])
  es.flatMap fun e =>
    let s := symOf base e
    match codes.find? fun c => c.1 = s with
    | some (_, l, c) => codeBits l c ++ if s = 16 then codeBits 8 e else []
    | none => []

/-- Bits fill bytes from bit 0 up; the last byte is filled with zeros. `n` bounds the bytes. -/
def packBits : Nat → List Bool → List Byte
  | 0, _ => []
  | _, [] => []
  | n + 1, bs => BitVec.ofNat 8 (((bs.take 8).foldr (fun b acc => b2n b + 2 * acc) 0)) :: packBits n (bs.drop 8)

def unpackBits (bs : List Byte) : List Bool := bs.flatMap fun b => (List.range 8).map fun i => b.toNat.testBit i

/-- Block header (Table 6.2). -/
def blockHeader (mode base len crc : Nat) : List Byte := leBytes 5 (pack [(0, 4, mode), (4, 8, base), (12, 10, len), (24, 16, crc)])

/-- The encoder's choice of table: the smallest LEN, ties to the lowest number (R160). -/
def bestLen (base : Nat) (es : List Nat) : Nat × Nat :=
  (List.range 8).foldl (fun best n => let b := 261 + (expLen n base es + 7) / 8; if b < best.2 then (n, b) else best) (0, 261 + (expLen 0 base es + 7) / 8)

/-- Encode one block of 512 raw bytes (R160). -/
def encodeBlock (raw : List Byte) : List Byte :=
  let crc := crc16 raw
  if raw.all fun b => b = 0 then blockHeader 9 0 5 crc
  else
    let el := (words16 raw).map elemOf
    let es := el.map fun x => x.2
    let base := es.foldl max 0
    let (n, len) := bestLen base es
    if 517 ≤ len then blockHeader 8 0 517 crc ++ raw
    else blockHeader n base len crc ++ (el.map fun x => BitVec.ofNat 8 x.1) ++ packBits 512 (expBits n base es)

/-- Read one symbol's code. `n` bounds its length. -/
def readCode (codes : List (Nat × Nat × Nat)) : Nat → Nat → Nat → List Bool → Option (Nat × List Bool)
  | 0, _, _, _ => none
  | _, _, _, [] => none
  | n + 1, l, acc, b :: r =>
    let acc := 2 * acc + b2n b
    match codes.find? fun c => c.2.1 = l + 1 && c.2.2 = acc with
    | some (s, _, _) => some (s, r)
    | none => readCode codes n (l + 1) acc r

/-- Read n exponents; none where a code does not end, or a kn gives e below 1. -/
def readExps (codes : List (Nat × Nat × Nat)) (base : Nat) : Nat → List Bool → Option (List Nat × List Bool)
  | 0, bs => some ([], bs)
  | n + 1, bs =>
    match readCode codes 12 0 0 bs with
    | none => none
    | some (s, r) =>
      if s = 15 then (readExps codes base n r).map fun x => (0 :: x.1, x.2)
      else if s = 16 then
        if r.length < 8 then none
        else (readExps codes base n (r.drop 8)).map fun x => ((r.take 8).foldl (fun a b => 2 * a + b2n b) 0 :: x.1, x.2)
      else if base < s + 1 then none
      else (readExps codes base n r).map fun x => ((base - s) :: x.1, x.2)

/-- What a decoder finds wrong (R161): a check value that does not match, or anything else. -/
inductive SieveErr
  | crc
  | form
  deriving DecidableEq, Repr

/-- Decode the block at the head of the bytes: its raw bytes and its length. -/
def decodeBlock (bs : List Byte) : Except SieveErr (List Byte × Nat) :=
  let h := leNat (bs.take 5)
  let mode := bitsOf h 3 0
  let base := bitsOf h 11 4
  let len := bitsOf h 21 12
  let crc := bitsOf h 39 24
  if bs.length < 5 ∨ bs.length < len ∨ bitsOf h 23 22 ≠ 0 ∨ 10 ≤ mode then .error .form
  else
    let out : Option (List Byte) :=
      if mode = 9 then if len = 5 ∧ base = 0 then some (List.replicate 512 0) else none
      else if mode = 8 then if len = 517 ∧ base = 0 then some ((bs.drop 5).take 512) else none
      else if len < 293 ∨ 516 < len then none
      else
        let sm := (bs.drop 5).take 256
        match readExps (assignCodes (romLens.getD mode [])) base 256 (unpackBits ((bs.drop 261).take (len - 261))) with
        | none => none
        | some (es, rest) =>
          if rest.length ≥ 8 ∨ rest.any id then none
          else some ((sm.zip es).flatMap fun x => leBytes 2 (x.1.toNat / 128 * 32768 + x.2 * 128 + x.1.toNat % 128))
    match out with
    | none => .error .form
    | some raw => if crc16 raw = crc then .ok (raw, len) else .error .crc

/-- Decode n blocks one after another: raw bytes and the length they took. -/
def decodeBlocks : Nat → List Byte → Except SieveErr (List Byte × Nat)
  | 0, _ => .ok ([], 0)
  | n + 1, bs =>
    match decodeBlock bs with
    | .error e => .error e
    | .ok (raw, len) =>
      match decodeBlocks n (bs.drop len) with
      | .error e => .error e
      | .ok (r, l) => .ok (raw ++ r, len + l)

/-- n pieces of m elements. -/
def pieces {α : Type} (m : Nat) : Nat → List α → List (List α)
  | 0, _ => []
  | n + 1, l => l.take m :: pieces m n (l.drop m)

/-- The frames of raw data, each encoded (R154). -/
def encodeFrames (raw : List Byte) : List (List Byte) :=
  (pieces 4096 (raw.length / 4096) raw).map fun f => (pieces 512 8 f).flatMap encodeBlock

/-- The index of frames at their offsets (Table 6.1). -/
def indexOf (off : Nat) : List (List Byte) → List Byte
  | [] => []
  | f :: r => leBytes 8 (pack [(0, 48, off), (48, 13, f.length)]) ++ indexOf (off + f.length) r

/-- An object's encoded bytes before the fill to 4 KiB. -/
def encodeObj (raw : List Byte) : List Byte :=
  let fs := encodeFrames raw
  indexOf (8 * fs.length) fs ++ fs.flatten

/-- Clocks that lanes spend on n blocks one after another (Table 6.5a); the bytes start at the first block's header. -/
def laneClocks (dec : Bool) : Nat → List Byte → Nat
  | 0, _ => 0
  | n + 1, bs =>
    let h := leNat (bs.take 5)
    let mode := bitsOf h 3 0
    let len := bitsOf h 21 12
    (if dec then if mode < 8 then max 4 ((len - 261 + 15) / 16) else 4 else if mode = 8 then 5 else 4) + laneClocks dec n (bs.drop len)

/-- Worst-case stored length of RAWLEN bytes (R155). -/
def worstEnc (rawlen : Nat) : Nat := up4k (rawlen / 4096 * 4144)

/-- Decode n frames from the index on: entry offset expected, stored bytes, index bytes left. -/
def decodeFrames (stored : List Byte) : Nat → Nat → List Byte → Except SieveErr (List Byte)
  | 0, _, _ => .ok []
  | n + 1, off, idx =>
    let e := leNat (idx.take 8)
    if bitsOf e 47 0 ≠ off ∨ bitsOf e 63 61 ≠ 0 then .error .form
    else
      match decodeBlocks 8 (stored.drop off) with
      | .error x => .error x
      | .ok (raw, len) =>
        if len ≠ bitsOf e 60 48 then .error .form
        else
          match decodeFrames stored n (off + len) (idx.drop 8) with
          | .error x => .error x
          | .ok r => .ok (raw ++ r)

/-- Decode a stored object of f frames (R154, R161). -/
def decodeObj (stored : List Byte) (f : Nat) : Except SieveErr (List Byte) := decodeFrames stored f (8 * f) stored

end Sys2Proof.Machine
end

