-- ==== Sys2Proof/Machine/Space.lean ====
section
/-!
DEFINITION. Pools, charges and placement (R25 to R32, R356), addresses in memory, unusable and fenced units.
-/

namespace Sys2Proof.Machine

/-- Unit k of a kind is usable (Table 12.7, PRG_UNIT_HEALTH). -/
def seqUsable (s : State) (q : Nat) : Bool := bitOf s.bist.seqs q
def clusterUsable (s : State) (k : Nat) : Bool := bitOf s.bist.clusters k
def bankUsable (s : State) (b : Nat) : Bool := bitOf s.bist.banks b
def dcUsable (s : State) (w : Nat) : Bool := bitOf s.bist.dcSlices w
def aesUsable (s : State) : List Nat := (List.range 4).filter fun k => bitOf s.bist.aes k
def encUsable (s : State) : Bool := bitsOf s.bist.lanes 15 0 ≠ 0
def decUsable (s : State) : Bool := bitsOf s.bist.lanes 31 16 ≠ 0

/-- The recovery reserve: the highest-numbered usable bank (R325). -/
def reserveBank (s : State) : Nat := (((List.range 64).filter (bankUsable s)).getLast?).getD 63

/-- A unit under test (R323): its kind's row of Table 12.6 and its number. -/
def underTest (s : State) (kind u : Nat) : Bool := s.bist.slices.any fun x => x.1 = kind && x.2.1 = u
def bankFenced (s : State) (b : Nat) : Bool := underTest s 5 b

/-- Bytes of all partitions' windows in a tier. -/
def winBytes (s : State) (t : Nat) : Nat := ((List.range 16).map fun p => winSize s p t).foldl (· + ·) 0

/-- Pool capacity C(t) of T0 to T2 (R25). -/
def capacity (s : State) (t : Nat) : Nat :=
  match t with
  | 0 => ((List.range 64).filter (bankUsable s)).length * Config.bankSize - Config.bankSize - winBytes s 0
  | 1 => s.t1Size - Config.dirRegion - winBytes s 1
  | 2 => s.t2Size - winBytes s 2
  | _ => 0

/-- A partition's charge U(p,t) (R27): home extents, reserved destinations, and space of its operations. -/
def used (s : State) (p t : Nat) : Nat :=
  (s.objs.map fun e => let o := e.2
    if o.part = p then (if o.home = t then o.resv else 0) + (if o.dest = t then o.dresv else 0) else 0).foldl (· + ·) 0
  + (s.runs.map fun r => if r.part = some p ∧ r.tier = t then r.len else 0).foldl (· + ·) 0

/-- 4 KiB extents of a tier that an orphaned write may still reach (R207, R264, R283): start and length, each once. They stay out of reach until their tags retire. -/
def orphanExtents (s : State) (t : Nat) : List (Nat × Nat) :=
  ((s.tags.filter fun g => g.orphan && g.wr && g.tier = t).map fun g => (g.addr / 4096 * 4096, 4096)).dedup
/-- An extent lies in space that an object holds. -/
def heldByObj (s : State) (t a : Nat) : Bool :=
  s.objs.any fun e => let o := e.2
    (o.home = t && meets a 4096 (tqaOff o.homeaddr) o.resv) || (o.dest = t && meets a 4096 (tqaOff o.destaddr) o.dresv)
/-- The quarantine account of a tier (R207): extents that no object holds any more. -/
def quarantined (s : State) (t : Nat) : Nat := 4096 * ((orphanExtents s t).filter fun e => !heldByObj s t e.1).length

/-- Floors in force (R30) and headroom (R31). -/
def floorOf (s : State) (p t : Nat) : Nat := regNow s (0x84100 + 0x20 * p + 8 * t)
def headroom (s : State) (t : Nat) : Nat := if t < 3 then reg s (0x84020 + 8 * t) else 0

/-- A(p,t) of R31. Space in quarantine and a bank under test are out of reach as well (R207, R325; log entry 14). -/
def avail (s : State) (p t : Nat) : Int :=
  if t = 3 then (winSize s p 3 : Int) - used s p 3
  else
    let u := ((List.range 16).map fun q => used s q t + if q = p then 0 else floorOf s q t - used s q t).foldl (· + ·) 0
    let fenced := if t = 0 then ((List.range 64).filter fun b => bankUsable s b && bankFenced s b).length * Config.bankSize else 0
    (capacity s t : Int) - (u : Nat) - (quarantined s t : Nat) - (fenced : Nat)

/-- The size fits under R31. -/
def fits (s : State) (p t n : Nat) (deadline : Bool) : Bool := (n : Int) ≤ avail s p t - if deadline then 0 else (headroom s t : Int)

/-- Two partitions see one T3 address space: no PASID, or the same one. -/
def sameSpace (s : State) (p q : Nat) : Bool := memKey s p (tqa 3 0) = memKey s q (tqa 3 0)

/-- Ranges of a tier that hold something, as partition p's placements meet them: (start, length). -/
def occupied (s : State) (p t : Nat) : List (Nat × Nat) :=
  let own := fun (q : Nat) => t ≠ 3 || sameSpace s p q
  let objs := s.objs.flatMap fun e => let o := e.2
    if own o.part then
      (if o.home = t ∧ 0 < o.resv then [(tqaOff o.homeaddr, o.resv)] else []) ++ (if o.dest = t ∧ 0 < o.dresv then [(tqaOff o.destaddr, o.dresv)] else [])
    else []
  let runs := s.runs.flatMap fun r => if r.tier = t ∧ (t ≠ 3 ∨ own (r.part.getD p)) then [(r.off, r.len)] else []
  let wins := if t < 3 then (List.range 16).flatMap fun q => if winSize s q t = 0 then [] else [(winBase s q t, winSize s q t)] else []
  let fixed := match t with
    | 0 => (List.range 64).flatMap fun b => if !bankUsable s b || bankFenced s b || b = reserveBank s then [(b * Config.bankSize, Config.bankSize)] else []
    | 1 => [(0, Config.dirRegion)]
    | _ => []
  objs ++ runs ++ wins ++ fixed ++ orphanExtents s t

/-- The part of a tier's address space where partition p may place: start and end. -/
def region (s : State) (p t : Nat) : Nat × Nat := if t = 3 then (winBase s p 3, winBase s p 3 + winSize s p 3) else (0, regionSize s t)

/-- The lowest address of a free run of n bytes (R356), with the ranges of `free` taken as free. -/
def findRun (s : State) (p t n : Nat) (free : List (Nat × Nat)) : Option Nat :=
  let occ := (occupied s p t).filter fun r => !free.contains r
  let (lo, hi) := region s p t
  let cands := lo :: occ.map fun r => r.1 + r.2
  let good := cands.filter fun a => lo ≤ a && a + n ≤ hi && occ.all fun r => !meets a n r.1 r.2
  match good with
  | [] => none
  | a :: r => some (r.foldl min a)

/-- Placement from free space: the amount under R31 and a run under R356. -/
def place (s : State) (p t n : Nat) (deadline : Bool) : Option Nat := if fits s p t n deadline then findRun s p t n [] else none

/-- The Stockpot's allocated bytes now and their largest (Table 13.2). -/
def stockpotMark (s : State) : State :=
  let now := ((List.range 16).map fun p => used s p 0).foldl (· + ·) 0 + quarantined s 0
  { s with gcnt := tset (tset s.gcnt 0x200 now) 0x208 (max (tget s.gcnt 0x208 0) now) }

/-- Age of an entry (R28). -/
def ageOf (s : State) (o : Obj) : Nat := if o.ageSat then 65535 else min 65535 ((wNow s + 2 ^ 32 - o.stamp) % 2 ^ 32)

/-- A touch (R29). -/
def touch (s : State) (x : Nat) : State := s.modObj x fun o => { o with stamp := wNow s, ageSat := false }

/-- The recipe slot counts as valid for an object (R135): valid, same length, its capture held by no other object. -/
def slotFor (s : State) (x : Nat) : Bool :=
  let o := s.obj x
  let r := s.slot o.recipe
  o.rvalid && r.valid && r.outlen = o.rawlen && (r.owner = 0 || r.owner = x)

/-- The disposition codes of Table 1.7 and their latitude bits (Table 1.3). -/
def dispBit (d : Nat) : Nat := d - 1
def latHas (o : Obj) (d : Nat) : Bool := bitOf o.lat (dispBit d)

/-- A decision meets an object with COPPICE in its latitude whose slot does not count as valid (R135). -/
def slotFault (s : State) (x : Nat) : Bool := let o := s.obj x; o.rvalid && latHas o 4 && !slotFor s x
/-- CAPCONFLICT, with SHAPE counted there: word 5 of PRG_COP_COUNT (R135). -/
def slotCount (s : State) (x : Nat) : State := if slotFault s x then copAdd s (s.obj x).part 5 else s

/-- The demotion target of an age eviction or DEMOTE AUTO (Table 1.6); TRANSIENT objects have none (R79). -/
def demotion (s : State) (x : Nat) : Option Tgt :=
  let o := s.obj x
  if o.transient || o.snapshot then none
  else
    match o.clsP, o.home with
    | false, 0 => some (.tier 1 .raw)
    | false, 1 =>
      if latHas o 3 then some (.tier 3 (if o.prot then .prot else .enc))
      else if latHas o 4 && slotFor s x && o.rngcap then some .drop
      else none
    | true, 0 => some (.tier 1 .raw)
    | true, 1 => some (.tier 2 .raw)
    | _, _ => none

/-- Table 1.6 comes to COPPICE for the object; a slot that does not count as valid then is counted (R135). -/
def triesDrop (o : Obj) : Bool := o.home = 1 && !o.clsP && !o.transient && !o.snapshot && !latHas o 3
def demoteCount (s : State) (x : Nat) : State := if triesDrop (s.obj x) then slotCount s x else s

/-- A request in an object's queue is a promotion with a deadline (R32). -/
def deadlineQueued (s : State) (x : Nat) : Bool :=
  let isDl := fun (r : Req) => match r.dl with
    | .none => false
    | _ => true
  ((s.obj x).queue.any fun w => isDl w.req) ||
    s.ops.any fun o => match o.kind with
      | .move y _ _ ev => y = x && !ev && isDl o.req && (o.phase = .queued || o.phase = .waitSpace)
      | _ => false

/-- An eviction of the object is already waiting to start. -/
def evictWaiting (s : State) (x : Nat) : Bool :=
  s.ops.any fun o => match o.kind with
    | .move y _ _ ev => y = x && ev
    | _ => false

/-- A candidate of R32 for partition p in tier t. -/
def isVictim (s : State) (p t x : Nat) : Bool :=
  let o := s.obj x
  o.st = .resident && o.home = t && !o.pinned && (demotion s x).isSome && !deadlineQueued s x && o.holds = 0 && o.snapHold = 0 && !evictWaiting s x &&
    (o.part = p || floorOf s o.part t + o.storlen ≤ used s o.part t)

/-- The order of R32: age descending, stored length descending, index ascending. -/
def victimBefore (s : State) (x y : Nat) : Bool :=
  let a := s.obj x
  let b := s.obj y
  ageOf s b < ageOf s a || (ageOf s a = ageOf s b && (b.storlen < a.storlen || (b.storlen = a.storlen && x < y)))

/-- The next victim of R32. -/
def chooseVictim (s : State) (p t : Nat) : Option Nat :=
  (s.objs.map fun e => e.1).foldl (fun best x =>
    if isVictim s p t x then
      match best with
      | none => some x
      | some y => if victimBefore s x y then some x else some y
    else best) none

end Sys2Proof.Machine
end

