-- ==== Sys2Proof/Machine/Directory.lean ====
section
/-!
DEFINITION. The directory: its on-chip cache (R10), handles (R11), allocation and release of entries (R12, R13).
-/

namespace Sys2Proof.Machine

/-- The 64 bytes of a directory entry (Table 1.7). -/
def stCode : ObjSt → Nat
  | .free => 0
  | .declared => 1
  | .bound => 2
  | .resident => 3
  | .inTransit => 4
  | .dropped => 5
  | .regen => 6
  | .parked => 7
  | .poisoned => 8

def entryWord (s : State) (x : Nat) : Nat :=
  let o := s.obj x
  pack [(0, 11, o.gen), (11, 4, stCode o.st), (15, 1, b2n o.clsP), (16, 4, o.part), (20, 8, o.ctx), (28, 5, o.lat), (33, 3, o.disp), (36, 2, o.home), (38, 2, o.dest),
    (40, 1, b2n o.pinned), (41, 1, b2n o.prot), (42, 1, b2n o.transient), (43, 1, b2n o.privileged), (44, 1, b2n o.revalidate), (45, 1, b2n o.rngcap),
    (46, 1, b2n o.digestSet), (47, 1, b2n o.ageSat), (64, 48, o.rawlen), (128, 64, o.homeaddr), (192, 64, o.destaddr), (256, 48, o.storlen), (320, 32, o.stamp),
    (352, 14, o.recipe), (366, 1, b2n o.rvalid), (384, 64, o.digest), (448, 32, o.succ)]

/-- The entries that a set holds, most recently used first: way, directory index, and the 64 bytes as the directory region holds them. -/
def dirSet (s : State) (x : Nat) : List (Nat × Nat × Nat) := tget s.dir.sets (x % 4096) []

/-- The entry is held on chip. -/
def dirHeld (s : State) (x : Nat) : Bool := (dirSet s x).any fun e => e.2.1 = x

/-- The entry is locked in its way (R10). -/
def isLocked (s : State) (x : Nat) : Bool := (s.obj x).st = .inTransit || (s.obj x).st = .regen || (s.obj x).st = .parked

/-- Ways of a set that can be used: their slices are usable and not under test. -/
def dirWays (s : State) : List Nat := (List.range 16).filter fun w => dcUsable s w && !underTest s 6 w

/-- 64 bytes of the directory region go over the tensor port of an entry's address (R10, R258), uncharged. -/
def dirIO (s : State) (x : Nat) (wr : Bool) : State :=
  match portFor s 1 (64 * x) 0 0 with
  | some n => s.gadd (0x10 * n + if wr then 8 else 0) 64
  | none => s
/-- A way gives up its entry: a changed one is written back (R10). -/
def dirEvict (s : State) (e : Nat × Nat × Nat) : State := if entryWord s e.2.1 = e.2.2 then s else dirIO s e.2.1 true

/-- Make an entry the most recently used of its set, in the way it has; or fetch it into a way that holds nothing, or into the least recently used unlocked way. -/
def dirTouch (s : State) (x : Nat) : State :=
  let l := dirSet s x
  let put := fun (s : State) (e : Nat × Nat × Nat) =>
    { s with dir := { s.dir with sets := tset s.dir.sets (x % 4096) (e :: l.filter fun d => d.1 ≠ e.1 && d.2.1 ≠ x) } }
  match l.find? fun e => e.2.1 = x with
  | some e => put s e
  | none =>
    match (dirWays s).find? fun w => !l.any fun e => e.1 = w with
    | some w => put (dirIO s x false) (w, x, entryWord s x)
    | none =>
      match l.reverse.find? fun e => !isLocked s e.2.1 && (dirWays s).contains e.1 with
      | some e => put (dirIO (dirEvict s e) x false) (e.1, x, entryWord s x)
      | none => s

/-- An access by an instruction, a mover, a recipe or REPORT: hits and misses are counted (Table 13.2, Table 4.7). -/
def dirHit (s : State) (x : Nat) : State := dirTouch (s.gadd 0x210 1) x
def dirMiss (s : State) : State :=
  let s := s.gadd 0x218 1
  { s with dir := { s.dir with misses := satAdd 64 s.dir.misses 1, missWin := s.dir.missWin + 1 } }
/-- An access that waits for nobody: a mover's, a recipe's or a new entry's. -/
def dirAccess (s : State) (x : Nat) : State := if dirHeld s x then dirHit s x else dirTouch (dirMiss s) x

/-- One more entry may be locked (R10): 2,048 a usable slice, and one usable way of the set left. -/
def lockOk (s : State) (x : Nat) : Bool :=
  isLocked s x ||
    ((s.objs.filter fun e => isLocked s e.1).length < 2048 * ((List.range 16).filter (dcUsable s)).length &&
      ((dirSet s x).filter fun e => e.2.1 ≠ x && isLocked s e.2.1).length + 1 < (dirWays s).length)

/-- The handle passes R11 for partition p. -/
def handleOk (s : State) (p h : Nat) : Bool :=
  let x := hIdx h
  let o := s.obj x
  x ≠ 0 && o.st ≠ .free && o.gen = hGen h && o.part = p && !o.successor

/-- Allocated entries of a partition (PRG_DIR_USED); a successor entry does not count before its DONE (R13). -/
def dirUsed (s : State) (p : Nat) : Nat := (s.objs.filter fun e => e.2.st ≠ .free && e.2.part = p && !e.2.successor).length
def dirQuota (s : State) (p : Nat) : Nat := reg s (0x84500 + 4 * p)

/-- The head of the free list (R12): never-allocated entries in ascending order, then freed ones in the order they were freed. -/
def dirFree (s : State) : Option Nat := if s.dir.fresh < Config.dirEntries then some s.dir.fresh else s.dir.freed.head?

/-- Entries on the free list. -/
def dirFreeCount (s : State) : Nat := (Config.dirEntries - s.dir.fresh) + s.dir.freed.length
/-- Waiting allocations take entries in the order in which they began to wait (R12): the turn of w has come, or, of one that does not wait yet, nobody who waits is passed. -/
def dirTurn (s : State) (w : Work) : Bool := (s.dir.waiters.takeWhile fun v => v ≠ w).length < dirFreeCount s
def dirJoin (s : State) (w : Work) : State := if s.dir.waiters.contains w then s else { s with dir := { s.dir with waiters := s.dir.waiters ++ [w] } }
def dirLeave (s : State) (w : Work) : State := { s with dir := { s.dir with waiters := s.dir.waiters.filter fun v => v ≠ w } }
/-- An entry is there for as many of the waiting allocations as there are entries: each is tried again. -/
def dirWake (s : State) : State := (s.dir.waiters.take (dirFreeCount s)).foldl (fun s w => s.todo w) s

/-- Take the head of the free list for an entry. GEN starts at 1 (R11); the allocation touches the object (R29). -/
def dirAlloc (s : State) (x : Nat) (o : Obj) : State :=
  let s := if s.dir.fresh < Config.dirEntries then { s with dir := { s.dir with fresh := s.dir.fresh + 1 } }
    else { s with dir := { s.dir with freed := s.dir.freed.tail } }
  let g := (s.obj x).gen
  dirAccess (s.setObj x { o with gen := if g = 0 then 1 else g, stamp := wNow s }) x

/-- The generation after one use (R11). -/
def nextGen (g : Nat) : Nat := if g = 2047 then 1 else g + 1

/-- The entry returns to FREE and joins the tail of the free list; allocations that wait for an entry are tried again. -/
def dirRelease (s : State) (x : Nat) : State :=
  let s := s.setObj x { gen := nextGen (s.obj x).gen }
  dirWake { s with dir := { s.dir with freed := s.dir.freed ++ [x] } }

end Sys2Proof.Machine
end

