-- ==== Sys2Proof/Machine/Transfer.lean ====
section
/-!
DEFINITION. Operations in flight and their transfers: acceptance and channels (R185), bursts and port tags (R182, R183, R190), budgets and the issue order (R122, R127, R357),
the estimator (R115, R116).
-/

namespace Sys2Proof.Machine

/-- A channel takes internal operations: internal, not disabled, its cluster in service (R184, R185, R204). -/
def chanInternal (s : State) (ch : Nat) : Bool :=
  let c := s.chan ch
  !c.hostq && c.st ≠ 6 && c.st ≠ 7 && c.st ≠ 4 && c.st ≠ 5 && (s.cluster (ch / 32)).st = 0 && clusterUsable s (ch / 32) && !underTest s 2 (ch / 32)

/-- Items that hold a channel: operations in progress, and those whose records the pending store could not take (R185, R194). -/
def chanLoad (s : State) (ch : Nat) : Nat := (s.ops.filter fun o => o.chan = some ch).length + (s.pend.filter fun r => !r.entered && !r.reserve && r.chan = some ch).length

/-- The internal channel with the fewest operations in progress, lowest number first; none when every one holds 128 (R185). -/
def pickChan (s : State) : Option Nat :=
  ((List.range 256).foldl (fun (best : Option (Nat × Nat)) ch =>
    let n := chanLoad s ch
    if chanInternal s ch && n < 128 then
      match best with
      | some (_, m) => if n < m then some (ch, n) else best
      | none => some (ch, n)
    else best) none).map fun b => b.1

/-- A cluster that held no item takes one: its time without progress counts from now (R207). -/
def clusBegins (s : State) (chan : Option Nat) : State :=
  match chan with
  | some ch => if s.ops.any (fun o => o.chan.any fun d => d / 32 = ch / 32) then s else s.setCluster (ch / 32) { s.cluster (ch / 32) with since := s.now }
  | none => s

/-- An operation joins those in flight. With every internal channel full it waits for one (R185). -/
def accept (s : State) (o : Op) (onChan : Bool) : State :=
  let ch := if onChan then pickChan s else o.chan
  let o := { o with id := s.nextOp, req := { o.req with chan := ch }, chan := ch, needsChan := onChan, dl := o.req.dl, acct := match o.req.who with | .ctx c => some c | _ => o.acct }
  let s := clusBegins s o.chan
  { s with ops := s.ops ++ [o], nextOp := s.nextOp + 1 }

/-- Operations that wait for an internal channel take one, oldest first (R185). -/
def giveChans (s : State) : State :=
  s.ops.foldl (fun s o =>
    if o.needsChan ∧ o.chan.isNone ∧ o.phase ≠ .ending then
      match pickChan s with
      | some ch => let o := (s.op o.id).getD o; (clusBegins s (some ch)).setOp { o with chan := some ch, req := { o.req with chan := some ch } }
      | none => s
    else s) s

/-- The number the next accepted operation takes. -/
def nextId (s : State) : Nat := s.nextOp

/-- The earliest known deadline of an operation's requests (R111). -/
def Op.due (o : Op) : Option Nat :=
  (o.req :: o.more).foldl (fun acc r =>
    match acc, r.due with
    | some a, some b => some (min a b)
    | none, d => d
    | a, none => a) none

/-- The operation carries a deadline, known or not (R110). -/
def Op.hasDl (o : Op) : Bool := (o.req :: o.more).any fun r => match r.dl with
  | .none => false
  | _ => true

/-- Port group of a tier's ports (Table 4.5); 4 for the Stockpot. -/
def groupOf (t : Nat) : Nat := match t with
  | 1 => 0
  | 2 => 1
  | 3 => 2
  | 5 => 3
  | _ => 4
/-- Ports of a group, and the tier numbers it serves. -/
def groupTier (g : Nat) : Nat := match g with
  | 0 => 1
  | 1 => 2
  | 2 => 3
  | _ => 5
def groupPorts (g : Nat) : List Nat := match g with
  | 0 => tpPorts
  | 1 => bpPorts
  | 2 => hpPorts
  | _ => [22]

/-- Ceiling and reserve in force, scaled by live ports (R125). -/
def groupScale (s : State) (g v : Nat) : Nat := v * (livePorts s (groupTier g)).length / (groupPorts g).length
def groupCeil (s : State) (g : Nat) : Nat := groupScale s g (bitsOf (regNow s (0x94100 + 8 * g)) 31 0)
def groupRes (s : State) (g : Nat) : Nat := groupScale s g (bitsOf (regNow s (0x94100 + 8 * g)) 63 32)

/-- A class's CREDIT and CAP in a table (R123), and its balance. -/
def budEntry (s : State) (p b k : Nat) : Nat × Nat :=
  let w := reg s (0x90000 + 0x200 * p + 0x100 * b + 8 * k)
  (bitsOf w 31 0, bitsOf w 63 32)
def balance (s : State) (p k : Nat) : Int := tget (s.part p).bal k 0
def slackOn (s : State) (p : Nat) : Bool := (s.part p).slackEn

/-- The class moves nothing at all under the active table (R128). -/
def classBarred (s : State) (p k : Nat) : Bool :=
  let (cr, cap) := budEntry s p (s.part p).budActive k
  cr = 0 && cap = 0 && !slackOn s p

/-- The saturation responses that hold a class back to slack (Table 4.7): indexed gathers, PEER and LAND bursts without a deadline. -/
def satBit (s : State) (i : Nat) : Bool := (tget s.sats7 i {}).on
def satResp (s : State) (p i : Nat) : Bool := bitOf (regNow s (0x94080 + 8 * p)) (48 + i)

/-- Class k of partition p may issue a burst of n credits on group g (R357). -/
def mayIssue (s : State) (p k g n : Nat) (dl : Bool) : Bool :=
  1 ≤ balance s p k || (dl && rtMode s p && n ≤ (s.group g).resLeft) ||
    (slackOn s p && (s.group g).used + n + (s.group g).resLeft ≤ groupCeil s g)

/-- Bytes up to the next 4 KiB boundary of an address. -/
def to4k (a : Nat) : Nat := 4096 - a % 4096

/-- Bytes of a list of runs, and the run that holds byte k of it, with the place within the run. -/
def segLen (l : List Seg) : Nat := (l.map fun g => g.len).foldl (· + ·) 0
def segAt : List Seg → Nat → Option (Seg × Nat)
  | [], _ => none
  | g :: r, k => if k < g.len then some (g, k) else segAt r (k - g.len)
def Xfer.slen (x : Xfer) : Nat := segLen x.rd
def Xfer.dlen (x : Xfer) : Nat := segLen x.wr
/-- Bytes that a copying transfer passes through: its bursts write what they read, or read only, or write only. -/
def Xfer.total (x : Xfer) : Nat := max x.slen x.dlen

/-- A run that passes through no port: in the Stockpot, or zeros. -/
def Seg.onChip (g : Seg) : Bool := g.tier = 0 || g.tier = 6
/-- The number of the stripe that byte k of a run lies in. -/
def Seg.stripe (g : Seg) (k : Nat) : Nat := g.i0 + ((g.addr + k) / 4096 - g.addr / 4096)

/-- Output bytes that what has been read so far allows to be written, where reads and writes keep a pace of their own (R163, R183). -/
def ready (x : Xfer) : Nat := if x.slen = 0 then x.dlen else x.dlen * x.rdBack / x.slen

/-- The page of an index that the row at place k belongs to, and whether the row may be issued: its page has returned (R199). -/
def idxPage (x : Xfer) (k : Nat) : Nat := (x.aux.filter fun a => a.at_ ≤ k).length - 1
def idxOk (x : Xfer) : Bool := x.aux = [] || (x.aux[idxPage x x.rdOff]?).any fun a => a.st = 2
/-- The next page of the index that may be read: at most two pages ahead of the row that is issued. -/
def nextPage (x : Xfer) : Option (IdxPage × Nat) :=
  ((x.aux.zip (List.range x.aux.length)).find? fun a => a.1.st = 0).bind fun a => if a.2 ≤ idxPage x x.rdOff + 2 then some a else none
def setPage (x : Xfer) (k st : Nat) : Xfer := { x with aux := x.aux.mapIdx fun i a => if i = k then { a with st := st } else a }

/-- Bytes of one side of a copying transfer from place k on that need no port; none where the next byte does. -/
def sideFree (l : List Seg) (k n : Nat) : Option Nat :=
  match segAt l k with
  | some (g, j) => if g.onChip then some (g.len - j) else none
  | none => some n

/-- An index of 32-bit row numbers as the pages it is read in (R199). `place` tells, for an entry, where in the data stream its row stands. -/
def idxPages (t a len x : Nat) (place : Nat → Nat) : List IdxPage :=
  if len = 0 then [] else
  (List.range ((a + len - 1) / 4096 - a / 4096 + 1)).map fun k =>
    let lo := max a ((a / 4096 + k) * 4096)
    let hi := min (a + len) ((a / 4096 + k + 1) * 4096)
    { at_ := place ((lo - a) / 4), seg := { tier := t, addr := lo, len := hi - lo, x := x } }

/-- What needs no port is done when its turn comes. `n` bounds the runs passed. -/
def passChip : Nat → Xfer → Xfer
  | 0, x => x
  | n + 1, x =>
    match nextPage x with
    | some (a, i) => if a.seg.onChip then passChip n (setPage x i 2) else passData n x
    | none => passData n x
where
  passData : Nat → Xfer → Xfer
    | 0, x => x
    | n + 1, x =>
      if !idxOk x then x
      else if x.copy then
        let left := x.total - x.rdOff
        match sideFree x.rd x.rdOff left, sideFree x.wr x.rdOff left with
        | some a, some b =>
          let m := min (min a b) left
          if m = 0 then x
          else passData n { x with rdOff := x.rdOff + m, rdBack := if x.rd = [] then 0 else x.rdBack + m, wrOff := if x.wr = [] then 0 else x.wrOff + m, wrBack := if x.wr = [] then 0 else x.wrBack + m }
        | _, _ => x
      else
        match segAt x.rd x.rdOff with
        | some (g, k) => if g.onChip then passData n { x with rdOff := x.rdOff + (g.len - k), rdBack := x.rdBack + (g.len - k) } else passOut n x
        | none => passOut n x
  passOut : Nat → Xfer → Xfer
    | 0, x => x
    | n + 1, x =>
      match segAt x.wr x.wrOff with
      | some (g, k) =>
        let m := min (g.len - k) (ready x - x.wrOff)
        if g.onChip ∧ 0 < m then passOut n { x with wrOff := x.wrOff + m, wrBack := x.wrBack + m } else x
      | none => x

def Xfer.pass (x : Xfer) : Xfer := passChip (2 * (x.rd.length + x.wr.length + x.aux.length) + 2) x
/-- A transfer over given runs, with what needs no port already done: one that copies where both sides are as long, or there is one side only. -/
def mkXfer (rd wr : List Seg) : Xfer := ({ rd := rd, wr := wr, copy := rd = [] || wr = [] || segLen rd = segLen wr } : Xfer).pass
/-- A transfer whose reads and writes keep a pace of their own, with bytes that may still be added. -/
def mkStream (rd wr : List Seg) : Xfer := ({ rd := rd, wr := wr, copy := false } : Xfer).pass

/-- The length of a copying transfer's burst at place k: it crosses no 4 KiB boundary of either side (R183). -/
def burstLen (x : Xfer) (k : Nat) : Nat :=
  let side := fun (l : List Seg) => match segAt l k with
    | some (g, j) => min (min g.cap (to4k (g.addr + j))) (g.len - j)
    | none => 4096
  min (side x.rd) (side x.wr)

/-- The request of one side of a copying transfer's burst; none where that side passes through no port. -/
def sideBurst (o : Op) (wr : Bool) (k n i : Nat) : Option Burst :=
  (segAt (if wr then o.x.wr else o.x.rd) k).bind fun e =>
    if e.1.onChip then none
    else some { op := o.id, wr := wr, tier := e.1.tier, off := e.1.addr + e.2, idx := if o.x.byBurst then i else e.1.stripe e.2, len := n, x := e.1.x, pos := k }

/-- The writes that a transfer owes for bursts whose read has returned, and the requests to be issued again. -/
def dueBursts (o : Op) : List Burst :=
  o.x.redo ++ (o.x.opens.filter fun e => e.st = 1).filterMap fun e => sideBurst o true e.off e.len e.idx

/-- The next page of the index, and the next burst of a transfer (R183): of one that copies its read, or its write where the source needs no port; else the next write, then the next read. -/
def newBursts (o : Op) : List Burst :=
  let x := o.x
  let page := match nextPage x with
    | some (a, i) => [({ op := o.id, wr := false, tier := a.seg.tier, off := a.seg.addr, idx := if x.byBurst then x.rdIdx else a.seg.stripe 0, len := a.seg.len, x := a.seg.x, pos := i, ax := true } : Burst)]
    | none => []
  page ++
    if !idxOk x then []
    else if x.copy then
      if x.total ≤ x.rdOff then []
      else ((sideBurst o false x.rdOff (burstLen x x.rdOff) x.rdIdx).or (sideBurst o true x.rdOff (burstLen x x.rdOff) x.rdIdx)).toList
    else
      let w := (segAt x.wr x.wrOff).bind fun e =>
        let n := min (min e.1.cap (to4k (e.1.addr + e.2))) (e.1.len - e.2)
        if !e.1.onChip ∧ x.wrOff + n ≤ ready x then some ({ op := o.id, wr := true, tier := e.1.tier, off := e.1.addr + e.2, idx := if x.byBurst then x.wrIdx else e.1.stripe e.2, len := n, x := e.1.x, pos := x.wrOff } : Burst) else none
      let r := (segAt x.rd x.rdOff).bind fun e =>
        let n := min (min e.1.cap (to4k (e.1.addr + e.2))) (e.1.len - e.2)
        if !e.1.onChip then some ({ op := o.id, wr := false, tier := e.1.tier, off := e.1.addr + e.2, idx := if x.byBurst then x.rdIdx else e.1.stripe e.2, len := n, x := e.1.x, pos := x.rdOff } : Burst) else none
      w.toList ++ r.toList

/-- The requests that an operation could issue now. One that ends, or is parked, issues no new burst: what it has issued finishes (R202, R205). -/
def nextBursts (o : Op) : List Burst :=
  match o.phase with
  | .running => dueBursts o ++ newBursts o
  | .ending => dueBursts o
  | .parked => dueBursts o
  | _ => []

/-- Tags in use on a port in a direction (a host port's request slots serve both); the number a port allows (Table 10.3, R279). -/
def portTags (s : State) (n : Nat) (wr : Bool) : List Nat := (s.tags.filter fun t => t.port = n && (t.wr = wr || n = 20 || n = 21)).map fun t => t.tag
def freeTag (s : State) (n : Nat) (wr : Bool) : Option Nat :=
  let used := portTags s n wr
  (List.range (used.length + 1)).find? fun t => !used.contains t
def portLimit (s : State) (n : Nat) : Nat := if n = 20 ∨ n = 21 then 2048 else if (s.port n).rev = 0 then 1024 else 4096
def portFull (s : State) (n : Nat) (wr : Bool) : Bool := portLimit s n ≤ (portTags s n wr).length

def chanTags (s : State) (ch : Nat) : Nat := (s.tags.filter fun t => match s.op t.op with
  | some o => o.chan = some ch
  | none => false).length
def clusTags (s : State) (k : Nat) : Nat := (s.tags.filter fun t => match s.op t.op with
  | some o => match o.chan with
    | some ch => ch / 32 = k
    | none => false
  | none => false).length

/-- The channel and the cluster have a tag, and the cluster is not fenced (R182, R207, R323). -/
def chanReady (s : State) (o : Op) : Bool :=
  match o.chan with
  | none => !o.needsChan
  | some ch => chanTags s ch < 1024 && clusTags s (ch / 32) < 8192 && (s.cluster (ch / 32)).st = 0 && !underTest s 2 (ch / 32)

/-- Request slots of a host port (R279): 64 for read-backs, records, flags and descriptor reads, 256 for the BOUNCE class, the others for every class. -/
def hostSlotFree (s : State) (n k : Nat) (rb : Bool) : Bool :=
  let mine := fun (f : Tag → Bool) => (s.tags.filter fun t => t.port = n && f t).length
  let isB := fun (t : Tag) => match s.op t.op with
    | some o => o.cls = 7
    | none => false
  let bounce := mine fun t => !t.rb && isB t
  let general := mine (fun t => !t.rb && !isB t) + (bounce - 256)
  if rb then mine (fun t => t.rb) < 64 else if k = 7 then bounce < 256 || general < 1728 else general < 1728

/-- The port that a request goes through: a read-back through the port that carried the writes, or another of the kind (R190); the others by R34 and R258. -/
def burstPort (s : State) (b : Burst) : Option Nat :=
  if b.rb ∧ b.via < 31 then if (livePorts s b.tier).contains b.via then some b.via else (livePorts s b.tier).head? else portFor s b.tier b.off b.idx b.x

/-- x_req_urg of a request (Table 10.2): revision A drives zero. -/
def urgOf (s : State) (o : Op) (b : Burst) (port : Nat) : Nat := if (s.port port).rev = 0 then 0 else if b.rb then 2 else if o.hasDl then 1 else 0

/-- The progress that the issue of a request makes. -/
def Xfer.issued (x : Xfer) (b : Burst) (port : Nat) : Xfer :=
  let x := if b.wr then { x with wports := tset x.wports port (b.tier, b.off + b.len - min 64 b.len) } else x
  if b.again then { x with redo := x.redo.erase b }
  else if b.ax then { setPage x b.pos 1 with rdIdx := x.rdIdx + 1 }
  else if !x.copy then
    if b.wr then { x with wrOff := x.wrOff + b.len, wrIdx := x.wrIdx + 1 } else { x with rdOff := x.rdOff + b.len, rdIdx := x.rdIdx + 1 }
  else if x.opens.any fun e => e.off = b.pos then { x with wrOff := x.wrOff + b.len, opens := x.opens.map fun e => if e.off = b.pos then { e with st := 2 } else e }
  else
    let x := { x with rdOff := x.rdOff + b.len, rdIdx := x.rdIdx + 1, opens := x.opens ++ [⟨b.pos, b.len, x.rdIdx, if b.wr then 2 else 0⟩] }
    if b.wr then { x with wrOff := x.wrOff + b.len, rdBack := if x.rd = [] then 0 else x.rdBack + b.len } else x

/-- The progress that the answer to a request makes. -/
def Xfer.answered (x : Xfer) (t : Tag) : Xfer :=
  match t.pos with
  | none => x
  | some k =>
    if t.rb then x
    else if t.ax then setPage x k 2
    else if !x.copy then if t.wr then { x with wrBack := x.wrBack + t.bytes } else { x with rdBack := x.rdBack + t.bytes }
    else
      match x.opens.find? fun e => e.off = k with
      | none => x
      | some _ =>
        let gone := x.opens.filter fun e => e.off ≠ k
        if t.wr then { x with wrBack := x.wrBack + t.bytes, opens := gone }
        else
          let x := { x with rdBack := x.rdBack + t.bytes }
          match segAt x.wr k with
          | some (g, _) =>
            if g.onChip then { x with wrOff := x.wrOff + t.bytes, wrBack := x.wrBack + t.bytes, opens := gone }
            else { x with opens := x.opens.map fun e => if e.off = k then { e with st := 1 } else e }
          | none => { x with opens := gone }

/-- A request is issued: its tag, the transfer's progress, bytes on the port (Table 13.2); a write to host memory drops the block's copy of the lines (R275). -/
def issueBurst (s : State) (o : Op) (b : Burst) (port : Nat) : State :=
  let tag := (freeTag s port b.wr).getD 0
  let s := if b.wr ∧ b.tier = 3 then dropHostLines s o.req.part b.off b.len else s
  let s := s.setOp { o with x := (o.x.issued b port).pass, issuedAny := true }
  let s := { s with tags := s.tags ++ [({ port := port, tag := tag, wr := b.wr, op := o.id, rb := b.rb, tier := b.tier, addr := b.off, bytes := b.len, idx := b.idx, x := b.x, pos := some b.pos, ax := b.ax, urg := urgOf s o b port, time := s.now } : Tag)] }
  let s := match o.chan with
    | some ch => s.setCluster (ch / 32) { s.cluster (ch / 32) with since := s.now }
    | none => s
  s.gadd (0x10 * port + if b.wr then 8 else 0) b.len

/-- Every byte of a transfer is answered. -/
def sidesDone (x : Xfer) : Bool := x.rdBack = x.slen && x.wrBack = x.dlen && x.aux.all fun a => a.st = 2

/-- The tier that a transfer writes through ports; 4 for none. Writes at the peer port end with RDONE or a response and are not read back. -/
def wrTier (x : Xfer) : Nat := match x.wr.find? fun g => !g.onChip with
  | some g => g.tier
  | none => 4

def needsReadBack (x : Xfer) : Bool := wrTier x ≠ 4 && wrTier x ≠ 5

/-- The place in a transfer up to which every read has returned, or every write has been answered. -/
def upTo (s : State) (o : Op) (wr : Bool) : Nat :=
  let open_ := (s.tags.filterMap fun t => if t.op = o.id ∧ t.wr = wr ∧ !t.orphan ∧ !t.rb ∧ !t.ax then t.pos else none) ++ (o.x.redo.filter fun b => b.wr = wr && !b.rb && !b.ax).map fun b => b.pos
  open_.foldl min (if wr then o.x.wrOff else o.x.rdOff)

/-- The place up to which a transfer has written its destination, or, of one that writes nothing, read its source, without a gap and without a failure (R202, R205). -/
def upToDone (s : State) (o : Op) : Nat :=
  let n := if o.x.copy then (o.x.opens.map fun e => e.off).foldl min o.x.rdOff else upTo s o (o.x.wr ≠ [])
  (o.x.fault.toList).foldl min n

/-- No request of an operation is outstanding at a port, and none is owed to one. -/
def noTags (s : State) (o : Nat) : Bool := !s.tags.any fun t => t.op = o && !t.orphan
def quiet (s : State) (o : Nat) : Bool := noTags s o && match s.op o with
  | some p => dueBursts p = []
  | none => true

/-- A port of the group that serves a tier is on its way back to LIVE (R265). -/
def portComing (s : State) (t : Nat) : Bool :=
  (match t with | 1 => tpPorts | 2 => bpPorts | 3 => hpPorts | 5 => [22] | _ => []).any fun n => (s.port n).st = 1 && (s.port n).toLive
/-- No port of a tier's group is left (R264). -/
def groupLost (s : State) (t : Nat) : Bool := livePorts s t = [] && !portComing s t

/-- A request that goes at no slot of its group, because nothing is charged for it, is issued as soon as its port and channel have a tag. -/
def redoReady (s : State) (o : Op) (b : Burst) : Bool :=
  match burstPort s b with
  | none => false
  | some n => !portFull s n b.wr && chanReady s o && (b.tier ≠ 3 || (!s.hostl.detached && hostSlotFree s n o.cls b.rb))
def flushRedo (s : State) (i : Nat) : State :=
  match s.op i with
  | none => s
  | some o => o.x.redo.foldl (fun s b =>
    match s.op i with
    | some o => if redoReady s o b then match burstPort s b with
      | some n => issueBurst s o b n
      | none => s else s
    | none => s) s

/-- The read-backs of an operation go out (R190): the last 64 bytes written through each port that carried writes. -/
def sendReadBacks (s : State) (o : Op) : State :=
  let rbs := o.x.wports.map fun e => ({ op := o.id, wr := false, tier := e.2.1, off := e.2.2, idx := 0, len := 64, x := 0, rb := true, via := e.1, again := true } : Burst)
  flushRedo (s.setOp { o with x := { o.x with rbIssued := true, redo := o.x.redo ++ rbs } }) o.id

/-- Issue the read-backs once every write is answered. -/
def issueReadBacks (s : State) (o : Op) : State :=
  if o.phase = .running ∧ sidesDone o.x ∧ !o.x.rbIssued ∧ needsReadBack o.x then sendReadBacks s o else s

/-- The transfer has reached its completion point (R190): every burst answered, every read-back returned. -/
def xferDone (s : State) (o : Op) : Bool := sidesDone o.x && o.x.redo = [] && (o.x.rbIssued || !needsReadBack o.x) && noTags s o.id

/-- Raw bytes that an operation has decoded in the lanes, in all, and those of the frames whose stored bytes have been read (R163, R116). -/
def decTotal (s : State) (o : Op) : Nat :=
  let raw := fun (x : Nat) => if (s.obj x).form = .enc then (s.obj x).rawlen else 0
  match o.kind with
  | .move x _ f _ => if f ≠ .enc ∨ ((s.obj x).revalidate ∧ (s.obj x).home = 3) then raw x else 0
  | .cmp x y _ _ => raw x + raw y
  | .recipe r => match r.temps with
    | (h, _) :: _ => if o.x.wr = [] then 0 else raw (hIdx h)
    | [] => 0
  | _ => 0
def decDone (s : State) (o : Op) : Nat := if o.x.slen = 0 then 0 else decTotal s o * o.x.rdBack / o.x.slen / 4096 * 4096

/-- Estimator terms (Table 4.1). -/
def estTfix (s : State) (t : Nat) : Nat := bitsOf (reg s (0x94140 + 8 * t)) 15 0
def estRate (s : State) (t : Nat) : Nat := max 1 (bitsOf (reg s (0x94140 + 8 * t)) 63 32)
/-- ns for bytes at n ports of tier t, rounded down (log entry 149). -/
def portTime (s : State) (t bytes : Nat) : Nat := bytes * 1000 / (max 1 (livePorts s t).length * estRate s t)
/-- ns to decode raw bytes at B_def, and at the measured B_dec. -/
def decTimeDef (s : State) (bytes : Nat) : Nat := bytes * 1000 / max 1 (bitsOf (reg s 0x94160) 31 0)
def decSum (s : State) : Nat := s.decRaw.foldl (· + ·) 0
def decTime (s : State) (bytes : Nat) : Nat := if decSum s < 1048576 then decTimeDef s bytes else bytes * 16384 / decSum s
def marginNs (s : State) (p : Nat) : Nat := bitsOf (regNow s (0x94080 + 8 * p)) 47 32
/-- E_nom and L of R116 for stored length n at tier t with rd raw bytes to decode. -/
def eNom (s : State) (t n rd : Nat) : Nat := estTfix s t + max (portTime s t n) (decTimeDef s rd)
def latestStart (s : State) (p t n rd d : Nat) : Nat := d - eNom s t n rd - marginNs s p

/-- Bytes of an operation on a group that are issued and not answered, and those it has still to issue. -/
def openBytes (s : State) (o : Op) (g : Nat) : Nat :=
  (s.tags.filter fun t => t.op = o.id && (groupPorts g).contains t.port).map (fun t => t.bytes) |>.foldl (· + ·) 0
def restBytes (o : Op) (g : Nat) : Nat :=
  let side := fun (l : List Seg) (off : Nat) => ((segAt l off).map fun e => if groupOf e.1.tier = g then segLen l - off else 0).getD 0
  side o.x.rd o.x.rdOff + side o.x.wr o.x.wrOff

/-- The deadline order of R127 as a number list: D, partition, class, acceptance. -/
def edfBefore (a b : Nat × Nat × Nat × Nat) : Bool :=
  a.1 < b.1 || (a.1 = b.1 && (a.2.1 < b.2.1 || (a.2.1 = b.2.1 && (a.2.2.1 < b.2.2.1 || (a.2.2.1 = b.2.2.1 && a.2.2.2 < b.2.2.2)))))
/-- An operation's place in it: a deadline whose D is not known comes after every known one (R110). -/
def edfKey (o : Op) : Nat × Nat × Nat × Nat := (o.due.getD (2 ^ 64), o.req.part, o.cls, o.id)

end Sys2Proof.Machine
end

