-- ==== Sys2Proof/Machine/Objects.lean ====
section
/-!
DEFINITION. Objects: the events of Table 1.5, moves (R16, R24, R26), seals (R21), evictions (R32) and release.
-/

namespace Sys2Proof.Machine

/-- Stored length of a protected object (R318). -/
def protLen (rawlen : Nat) : Nat := rawlen + up4k (64 + 16 * (rawlen / 4096))

/-- Space a form of an object takes when it is reserved (R26). -/
def formSize (o : Obj) : Form → Nat
  | .raw => o.rawlen
  | .enc => worstEnc o.rawlen
  | .prot => protLen o.rawlen

/-- The data key of a partition's key as installed (R318). -/
def keyOf (s : State) (p : Nat) : BitVec 256 := let v := s.part p; Config.dataKey v.key v.salt p v.keygen

/-- The protected trailer header (Table 12.5). -/
def protHeader (s : State) (o : Obj) (n : Nat) : Nat :=
  let v := s.part o.part
  pack [(0, 32, 0x54525650), (32, 8, 1), (40, 8, o.part), (48, 16, v.keygen), (64, 64, n), (128, 48, o.rawlen), (192, 64, o.rawlen / 4096), (256, 128, v.salt.toNat)]

/-- Counter mode: the key stream is added to the extent, so encrypting and decrypting are one operation (R318, SP 800-38D). -/
def gcmMix (k : BitVec 256) (iv x : Nat) : Nat := x ^^^ (Config.gcmStream k iv % 2 ^ 32768)

/-- Raw bytes in their protected form under nonce n (R318, R319). -/
def protSeal (s : State) (o : Obj) (n : Nat) (raw : List Byte) : List Byte :=
  let f := o.rawlen / 4096
  let hdr := protHeader s o n
  let aad := hdr % 2 ^ 384
  let msgs := ((pieces 4096 f raw).zip (List.range f)).map fun e =>
    let c := gcmMix (keyOf s o.part) (n * 2 ^ 32 + e.2) (leNat e.1)
    (c, Config.gcmTag (keyOf s o.part) (n * 2 ^ 32 + e.2) aad c)
  let body := msgs.flatMap (fun m => leBytes 4096 m.1) ++ leBytes 64 hdr ++ msgs.flatMap fun m => leBytes 16 m.2
  body ++ List.replicate (protLen o.rawlen - body.length) 0

/-- Open the protected form at an address: none when the header or a tag disagrees (R319). -/
def protOpen (s : State) (o : Obj) : Option (List Byte) :=
  let f := o.rawlen / 4096
  let v := s.part o.part
  let at_ := fun (off n : Nat) => rdNumP s o.part (o.homeaddr + off) n
  let hdr := at_ o.rawlen 64
  let n := bitsOf hdr 127 64
  if hdr ≠ protHeader s o n ∨ ¬ v.keyValid then none
  else
    let ext := (List.range f).map fun i =>
      let c := at_ (4096 * i) 4096
      (gcmMix (keyOf s o.part) (n * 2 ^ 32 + i) c, decide (Config.gcmTag (keyOf s o.part) (n * 2 ^ 32 + i) (hdr % 2 ^ 384) c % 2 ^ 128 = at_ (o.rawlen + 64 + 16 * i) 16))
    if ext.all fun e => e.2 then some (ext.flatMap fun e => leBytes 4096 e.1) else none

/-- An object's raw bytes as they stand at its home, decoded or decrypted; none where a check fails. -/
def rawBytes (s : State) (x : Nat) : Option (List Byte) :=
  let o := s.obj x
  match o.form with
  | .raw => some (rdP s o.part o.homeaddr o.rawlen)
  | .enc => match decodeObj (rdP s o.part o.homeaddr o.storlen) (o.rawlen / 4096) with
    | .ok b => some b
    | .error _ => none
  | .prot => protOpen s o

/-- PRG_SIEVE_ERR moves where the lanes find an encoded object in error (R161). -/
def sieveCount (s : State) (x : Nat) : State :=
  let o := s.obj x
  if o.form = .enc then
    match decodeObj (rdP s o.part o.homeaddr o.storlen) (o.rawlen / 4096) with
    | .error .crc => { s with sieveErrCrc := satAdd 32 s.sieveErrCrc 1 }
    | .error .form => { s with sieveErrOther := satAdd 32 s.sieveErrOther 1 }
    | .ok _ => s
  else s

/-- Raw bytes decoded or encoded for an operation (Tables 13.1, 13.2, PRG_CODEC_BYTES). B_dec counts a transfer's frames as they are decoded (tagEnd); `decNote` counts what is
decoded beside the transfers (R116). -/
def decNote (s : State) (n : Nat) : State := { s with decNow := s.decNow + n }
def countDecode (s : State) (acct : Option Nat) (n : Nat) (stored : List Byte) : State :=
  let s := (s.gadd 0x228 n).gadd 0x238 (laneClocks true (n / 512) (stored.drop (n / 512)))
  match acct with
  | some c => s.cadd c 0xD8 n
  | none => s
def countEncode (s : State) (p raw : Nat) (e : List Byte) : State :=
  ((s.gadd 0x220 raw).gadd 0x230 (laneClocks false (raw / 512) (e.drop (raw / 512)))).modPart p fun v => { v with codecRaw := satAdd 64 v.codecRaw raw, codecStored := satAdd 64 v.codecStored e.length }
/-- The stored bytes of an object at its home; they are decoded for an operation. -/
def storedBytes (s : State) (x : Nat) : List Byte := let o := s.obj x; rdP s o.part o.homeaddr o.storlen
def decodeFor (s : State) (acct : Option Nat) (x : Nat) : State := if (s.obj x).form = .enc then countDecode s acct (s.obj x).rawlen (storedBytes s x) else s

def decodeNow (s : State) (acct : Option Nat) (x : Nat) : State := if (s.obj x).form = .enc then decNote (decodeFor s acct x) (s.obj x).rawlen else s

/-- Partition-relative number of an absolute recipe slot, as records carry it (log entry 15). -/
def slotRel (s : State) (p n : Nat) : Nat := n - rcpBase s p

/-- What a request's record says of the object it named: ENCODED (Table 3.2), HANDLE, DISP and RESULT where the instruction's table fills them (R80, R82 to R84, R88). -/
def objRes (s : State) (x : Nat) (r : Req) (status : Nat) : Res :=
  let o := s.obj x
  { status := status, handle := handleOf s x
    flags := if o.st = .resident ∧ o.form = .enc then 0x20 else 0
    disp := if [0x10, 0x11, 0x12, 0x13, 0x17, 0x02].contains r.opcode then o.disp else 0
    detail := r.detail
    result := if o.st = .resident then o.homeaddr else 0 }

/-- A request on an object completes. -/
def finishOn (s : State) (x : Nat) (r : Req) (status : Nat) (q : Bool) : State := complete s r { objRes s x r status with quiet := q } true

/-- Every request of an operation completes with one status (R111). -/
def finishAll (s : State) (x : Nat) (o : Op) (status : Nat) (q : Bool) : State := (o.req :: o.more).foldl (fun s r => finishOn s x r status q) s

/-- What an ended operation was making room for is tried again (R32). -/
def wakeOf (s : State) (o : Op) : State := match o.wake with
  | some w => s.todo w
  | none => s

/-- The BIND or RCPRUN that waits for its object to be placed gets its record (R80, R88). -/
def placed (s : State) (x : Nat) (status : Nat) (q : Bool := false) : State :=
  match (s.obj x).sealReq with
  | some r =>
    let s := s.modObj x fun o => { o with sealReq := none }
    complete s r { objRes s x r status with quiet := q, disp := (s.obj x).disp } true
  | none => s

/-- A disposition fixed by an instruction ends with a status (R82). -/
def endFixed (s : State) (x : Nat) (status : Nat) (q : Bool) : State :=
  match (s.obj x).fixed with
  | some (_, r) => finishOn (s.modObj x fun o => { o with fixed := none }) x r status q
  | none => s

/-- The pending seal leaves its semaphore's queue. -/
def withdrawSeal (s : State) (x : Nat) : State :=
  match (s.obj x).sealAt with
  | some (n, _) =>
    let m := s.sem n
    let s := s.setSem n { m with q := m.q.filter fun w => match w with
      | .sealing y _ => y ≠ x
      | _ => true }
    (s.modObj x fun o => { o with sealAt := none, sealWait := none, sealAsked := false }).todo (.semAdd n 0 .none)
  | none => s

/-- An operation that has not started is on object x: a move, or a regeneration that waits until its entry may be locked (R10). -/
def unstartedOn (o : Op) (x : Nat) : Bool :=
  (o.phase = .queued || o.phase = .waitSpace) && match o.kind with
    | .move y _ _ _ => y = x
    | .onObj y => y = x
    | _ => false

/-- The taps that watch a handle. -/
def tapsOf (s : State) (h : Nat) : List Nat := (s.taps.filter fun e => e.2.armed && e.2.hdl = h).map fun e => e.1

/-- Taps of an object that went to FREE are disarmed, and samples in progress end with them (R342). -/
def freeTaps (s : State) (h : Nat) : State :=
  let s := { s with ops := s.ops.filter fun o => match o.kind with
    | .watch _ k => k ≠ h
    | _ => true }
  (tapsOf s h).foldl (fun s t => raiseEv (s.setTap t { s.tapOf t with armed := false }) (s.tapOf t).part 3 t [(0x30, h)]) s

/-- The slot's capture is released (R139). -/
def releaseCapture (s : State) (x : Nat) : State :=
  { s with slots := s.slots.map fun (e : Nat × RSlot) => if e.2.owner = x then (e.1, { e.2 with owner := 0, capmask := 0, bases := [] }) else e }

/-- The per-tensor share entries of a handle are freed (R178). -/
def dropShares (s : State) (h : Nat) : State := { s with shares := s.shares.filter fun (e : Nat × Share) => e.2.hdl ≠ h }

/-- Queries an object still waits for are forgotten; their tags stay outstanding (R147). -/
def dropQueries (s : State) (x : Nat) : State :=
  { s with cqTags := s.cqTags.map fun (e : Nat × CqTag × Nat) => if e.2.1 = CqTag.query x then (e.1, CqTag.query 0, e.2.2) else e }

/-- A recipe that runs into a DECLARED object (R88). -/
def recipeInto (s : State) (x : Nat) : Bool :=
  s.ops.any fun o => match o.kind with
    | .recipe r => r.declared && r.obj = x
    | _ => false

/-- A BOUND object whose seal is pending: it waits for its semaphore, for its recipe, for the clusters or for space (note (i) of Table 1.5). -/
def sealPending (s : State) (x : Nat) : Bool :=
  let o := s.obj x
  o.sealAt.isSome || o.sealWait.isSome || o.sealAsked || recipeInto s x

/-- A recipe that runs into an object that is freed with FORCE goes on to its end for nobody. -/
def orphanRecipe (s : State) (x : Nat) : State :=
  s.ops.foldl (fun s o => match o.kind with
    | .recipe r => if r.declared ∧ r.obj = x then (s.setOp { o with kind := .recipe { r with obj := 0, failed := 0x10, aborted := true } }).todo (.tryOp o.id) else s
    | _ => s) s

/-- The object's entry goes to FREE (R22, R81): its space is released, its capture and share entries too. The RETIRE that takes it there completes with OK, every other request on
it with ABORTED and the retired handle. -/
def objFree (s : State) (x : Nat) (by_ : Option Req) : State :=
  let o := s.obj x
  let h := handleOf s x
  let s := freeTaps (orphanRecipe (dropQueries (withdrawSeal s x) x) x) h
  let ab := fun (s : State) (r : Req) => complete s r { status := 0x10, handle := h, quiet := true } true
  let s := dropShares (releaseCapture s x) h
  let pend := s.ops.filter fun p => unstartedOn p x
  let s := dirRelease { s with ops := s.ops.filter fun p => !unstartedOn p x } x
  let s := match by_ with
    | some r => complete s r {} true
    | none => s
  let s := ((o.queue ++ o.defers).map fun w => w.req).foldl ab s
  let s := pend.foldl (fun (s : State) (p : Op) => wakeOf ((p.req :: p.more).foldl ab s) p) s
  let s := match o.fixed with
    | some (_, r) => ab s r
    | none => s
  let s := match o.sealReq with
    | some r => ab s r
    | none => s
  stockpotMark s

/-- The first RETIRE deferred on the object takes it to FREE (R22, R81). -/
def retireNow (s : State) (x : Nat) : State :=
  match (s.obj x).defers.find? fun w => w.ev = .retire with
  | some w => objFree (s.modObj x fun o => { o with defers := o.defers.erase w }) x (some w.req)
  | none => objFree s x none

/-- Why a move cannot run at all now, whatever the space: no lane, no engine, no nonce, host away (R166, R320, R319). -/
def moveBar (s : State) (x t : Nat) (f : Form) : Option Nat :=
  let o := s.obj x
  if (t = 3 ∨ o.home = 3) ∧ s.hostl.detached then some 0x32
  else if o.form = .enc ∧ (f ≠ .enc ∨ (o.revalidate ∧ o.home = 3)) ∧ ¬ decUsable s then some 0x31
  else if o.form ≠ .enc ∧ f = .enc ∧ ¬ encUsable s then some 0x31
  else if (o.form = .prot ∨ f = .prot) ∧ aesUsable s = [] then some 0x31
  else if f = .prot ∧ (s.part o.part).nonce = 2 ^ 64 - 1 then some 0x20
  else none

/-- An age eviction of a victim for a request of partition p (R32, R33, Table 4.4): dropped at once, or moved by an operation. `dl` is the promotion's deadline that it carries. -/
def evictVictim (s : State) (p v : Nat) (dl : Dl) (acct : Option Nat) (w : Work) : State :=
  match demotion s v with
  | some .drop =>
    let s := s.modObj v fun o => { o with st := .dropped, disp := 4, home := 0, homeaddr := 0, resv := 0, storlen := 0, form := .raw }
    stockpotMark (s.todo (.objLeft v))
  | some (.tier t f) =>
    let id := nextId s
    let s := accept s { id := 0, req := { part := p, dl := dl }, kind := .move v t f true, cls := 1, acct := acct, wake := some w } true
    s.todo (.tryOp id)
  | none => s

/-- A victim whose target cannot take it, and will not by eviction: T3 is full or away, its class or a lane is barred (R31, R128, log entry 16). -/
def deadEnd (s : State) (p v : Nat) : Bool :=
  match demotion s v with
  | some (.tier t f) => classBarred s p 1 || (moveBar s v t f).isSome || (t = 3 && (place s (s.obj v).part 3 (formSize (s.obj v) f) false).isNone)
  | _ => false

/-- Home runs in tier t that moves under way, and evictions that have been ordered, will free. -/
def leaving (s : State) (p t : Nat) : List (Nat × Nat) :=
  let going := fun (x : Nat) => s.ops.any fun o => match o.kind with
    | .move y u _ true => y = x && u ≠ t
    | _ => false
  s.objs.flatMap fun e => let o := e.2
    if o.home = t ∧ 0 < o.resv ∧ ((o.st = .inTransit ∧ o.dest ≠ t) ∨ (o.st = .resident ∧ going e.1 ∧ !deadEnd s p e.1)) then [(tqaOff o.homeaddr, o.resv)] else []

/-- The request will fit, in its amount and in one run (R31, R356), once those have gone. -/
def willFit (s : State) (p t n : Nat) (deadline : Bool) : Bool :=
  let l := leaving s p t
  let freed := (l.map fun r => r.2).foldl (· + ·) 0
  (n : Int) ≤ avail s p t + (freed : Nat) - (if deadline then 0 else (headroom s t : Int)) && (findRun s p t n l).isSome

/-- Objects of tier t whose demotion finds COPPICE set and their slot not valid (Table 1.6, R135), ahead of victim v in the order of R32. -/
def passedOver (s : State) (t : Nat) (v : Option Nat) : List Nat :=
  (s.objs.map fun e => e.1).filter fun x => let o := s.obj x
    o.st = .resident && !o.pinned && o.home = t && triesDrop o && slotFault s x && v.all fun y => victimBefore s x y

/-- Evict candidates in the order of R32 until a request of n bytes will fit. `n` bounds the victims; `seen` are the objects whose COPPICE bit was found clear on the way (R135). -/
def makeRoom (fuel : Nat) (s : State) (p t n : Nat) (priv : Bool) (dl : Dl) (acct : Option Nat) (w : Work) (seen : List Nat) : State :=
  match fuel with
  | 0 => s
  | f + 1 =>
    if willFit s p t n priv then s
    else
      let cand := (s.objs.map fun e => e.1).foldl (fun best x =>
        if isVictim s p t x && !deadEnd s p x then
          match best with
          | none => some x
          | some y => if victimBefore s x y then some x else some y
        else best) none
      let past := (passedOver s t cand).filter fun x => !seen.contains x
      let s := past.foldl slotCount s
      match cand with
      | none => s
      | some v => makeRoom f (evictVictim s p v dl acct w) p t n priv dl acct w (seen ++ past)

/-- Space of n bytes in tier t for a request that may evict (R31, R32, R356): the address, or the state with evictions under way. `priv`: a promotion with a deadline, which
may take the headroom; `dl`: the deadline whose D the evictions carry (R122). -/
def getSpace (s : State) (p t n : Nat) (priv : Bool) (dl : Dl) (acct : Option Nat) (w : Work) : Option Nat × State :=
  match place s p t n priv with
  | some a => (some a, s)
  | none =>
    let s := if t = 0 then { s with t0Evict := true } else s
    if t = 3 then (none, s)
    else
      let s := makeRoom 4096 s p t n priv dl acct w []
      (place s p t n priv, s)

/-- A deadline is attached, known or not (R110). -/
def Dl.some? : Dl → Bool
  | .none => false
  | _ => true

/-- A run of n bytes at offset a of a tier, of an object with index x. -/
def run (t a n x : Nat) : Seg := { tier := t, addr := a, len := n, x := x }

/-- Stored length the object will have at its destination. -/
def newLen (s : State) (x : Nat) (f : Form) : Nat :=
  let o := s.obj x
  if f = o.form then o.storlen
  else match f with
    | .raw => o.rawlen
    | .prot => protLen o.rawlen
    | .enc => match rawBytes s x with
      | some b => up4k (encodeObj b).length
      | none => o.rawlen

/-- The order in which a move writes its destination: of an encoded object the frames first, the index last (R163). -/
def destRuns (o : Obj) (f : Form) (t a n x : Nat) : List Seg :=
  let i := o.rawlen / 512
  if f = .enc then [run t (a + i) (n - i) x, { run t a i x with i0 := 0 }] else [run t a n x]

/-- A move starts (R26): destination reserved, object IN_TRANSIT, transfer set up. -/
def beginMove (s : State) (o : Op) (x t a : Nat) (f : Form) : State :=
  let ob := s.obj x
  let n := newLen s x f
  let s := dirAccess (s.modObj x fun v => { v with st := .inTransit, dest := t, destaddr := tqa t a, dresv := formSize ob f }) x
  let rd := [run ob.home (tqaOff ob.homeaddr) ob.storlen x]
  let s := s.setOp { o with phase := .running, x := if f = ob.form then mkXfer rd [run t a n x] else mkStream rd (destRuns ob f t a n x) }
  let s := (s.ops.filter fun p => unstartedOn p x).foldl (fun (s : State) (p : Op) => s.todo (.tryOp p.id)) s
  (stockpotMark s).todo (.tryOp o.id)

/-- End an operation without a transfer: its requests complete, what waits for it is tried again. -/
def dropOp (s : State) (x : Nat) (o : Op) (status : Nat) (q : Bool) : State := wakeOf (finishAll (s.delOp o.id) x o status q) o

/-- The end status of a move that the runtime aborts: ABORTED, with nothing to raise (R64). -/
def askedAbort : Nat := 0x110

/-- The parts of an abort once nothing of the move is outstanding (R202): destination freed, object RESIDENT at its source, requests complete. -/
def abortedMove (s : State) (o : Op) (x : Nat) : State :=
  let retired := (s.obj x).defers.any fun w => w.ev = .retire
  let st := o.endStatus % 256
  let q := o.endStatus = askedAbort || (retired && st = 0x10)
  let s := s.modObj x fun v => { v with st := .resident, dest := 0, destaddr := 0, dresv := 0, digestDue := false }
  let s := finishAll (s.delOp o.id) x o st q
  let s := if retired then s else endFixed (placed s x (if st < 0x10 then 0 else st) q) x (if st < 0x10 then 0 else st) q
  wakeOf ((stockpotMark s).todo (.objLeft x)) o

/-- Stop a move with a status: no further burst issues; it ends when those issued have finished. -/
def stopMove (s : State) (o : Op) (x status : Nat) : State :=
  let o := { o with phase := .ending, endStatus := status }
  if quiet s o.id then abortedMove (s.setOp o) o x else s.setOp o

/-- Recipe inputs are resident (R143): RESIDENT with home T0 or T1. -/
def inputsResident (s : State) (n p : Nat) : Bool :=
  (s.slot n).inputs.all fun h => handleOk s p h && (s.obj (hIdx h)).st = .resident && (s.obj (hIdx h)).home < 2

/-- Compute cluster c can be used: its command port is LIVE (Table 10.1, R264). -/
def copUp (s : State) (c : Nat) : Bool := isLive s (23 + c)
def maskUp (s : State) (m : Nat) : Bool := (List.range 8).all fun c => !bitOf m c || copUp s c

/-- Any cluster is ENCDEG (R169): a satellite of its eight is absent. -/
def encdeg (s : State) (c : Nat) : Bool := bitsOf s.sat.present (8 * c + 7) (8 * c) ≠ 0xFF
def anyEncdeg (s : State) : Bool := (List.range 8).any (encdeg s)

/-- Encoded inputs that the lanes decode into raw temporaries under the satellite fallback (R170). -/
def tempInputs (s : State) (n : Nat) : List Nat :=
  if (List.range 8).any fun c => bitOf (s.slot n).clmask c && encdeg s c then
    ((s.slot n).inputs.filter fun h => (s.obj (hIdx h)).form = .enc).dedup
  else []

/-- Space a recipe needs in T1 beside its output: scratch, then a temporary for each such input. -/
def scratchSizes (s : State) (n : Nat) : List Nat := (s.slot n).scrlen :: (tempInputs s n).map fun h => (s.obj (hIdx h)).rawlen

/-- Runs for a list of sizes in T1, each placed beside those before it, from free space alone; the new runs belong to operation o. -/
def placeRuns (s : State) (p o : Nat) : List Nat → Option (List Nat × State)
  | [] => some ([], s)
  | n :: r =>
    if n = 0 then (placeRuns s p o r).map fun e => (0 :: e.1, e.2)
    else
      match findRun s p 1 n [] with
      | none => none
      | some a => (placeRuns { s with runs := s.runs ++ [⟨1, a, n, some p, o⟩] } p o r).map fun e => (a :: e.1, e.2)

/-- A recipe's inputs are held from the start of dispatch (R144). -/
def holdInputs (s : State) (l : List Nat) : State := l.foldl (fun s h => s.modObj (hIdx h) fun o => { o with holds := o.holds + 1 }) s
def releaseInputs (s : State) (l : List Nat) : State :=
  l.foldl (fun s h => (s.modObj (hIdx h) fun o => { o with holds := o.holds - 1 }).todo (.objLeft (hIdx h))) s

/-- The parts of `substitutable` (R118, R145) that do not name the operation: partition enabled, object, slot, capture, inputs, clusters, space from free space alone. -/
def canSubst (s : State) (x : Nat) : Bool :=
  let o := s.obj x
  let r := s.slot o.recipe
  bitOf (regNow s (0x94080 + 8 * o.part)) 1 && o.st = .resident && !o.pinned && latHas o 4 && slotFor s x && o.rngcap && inputsResident s o.recipe o.part &&
    maskUp s r.clmask && lockOk s x && s.dir.waiters.length < dirFreeCount s && fits s o.part 1 (r.outlen + (scratchSizes s o.recipe).foldl (· + ·) 0) true &&
    (placeRuns s o.part 0 (r.outlen :: scratchSizes s o.recipe)).isSome

/-- The successor entry of a regeneration with its output space at a (R145): it inherits from the old object. -/
def makeSucc (s : State) (x a : Nat) : State × Nat :=
  let o := s.obj x
  let y := (dirFree s).getD 0
  let s := dirAlloc s y { st := .declared, clsP := o.clsP, part := o.part, ctx := o.ctx, lat := o.lat, disp := o.disp, pinned := o.pinned, prot := o.prot, rngcap := o.rngcap, digestSet := o.digestSet, digest := o.digest, rawlen := o.rawlen, recipe := o.recipe, rvalid := o.rvalid, clmask := o.clmask, successor := true, home := 1, homeaddr := tqa 1 a, resv := o.rawlen, storlen := o.rawlen }
  (s, y)

/-- A recipe's spaces are taken: the run of its output goes to the successor entry, the others stay with the operation. -/
def takeSpaces (s : State) (o : Nat) (rc : Recipe) (addrs : List Nat) : State × Recipe :=
  let temps := ((tempInputs s rc.slot).zip (addrs.drop 2)).map fun e => (e.1, tqa 1 e.2)
  let out := addrs.headD 0
  let scr := (addrs.drop 1).headD 0
  let rc := { rc with scrAddr := tqa 1 scr, temps := temps, body := s.slot rc.slot, held := (s.slot rc.slot).inputs }
  let s := holdInputs s rc.held
  if rc.declared then (s, rc)
  else
    let s := { s with runs := s.runs.filter fun r => !(r.owner = o && r.off = out) }
    let (s, y) := makeSucc s rc.obj out
    (s.modObj rc.obj fun v => { v with succ := handleOf s y }, { rc with succ := y, outAddr := tqa 1 out })

/-- Regeneration starts (Table 1.5): the object is REGEN and a recipe waits for dispatch. A substitution takes its successor and space and holds its inputs at once (R145
step 1). -/
def startRegen (s : State) (x : Nat) (o : Op) (subst : Bool) (cost : Option Nat) (tier : Nat) (enc : Bool) : State :=
  let ob := s.obj x
  let s := dirAccess (s.modObj x fun v => { v with st := .regen }) x
  let rc : Recipe := { slot := ob.recipe, obj := x, substitution := subst, tier := tier, enc := enc, cost := cost, t0 := s.now }
  let mk := fun (s : State) (rc : Recipe) =>
    s.setOp { o with kind := .recipe rc, req := { o.req with chan := none }, cls := 2, phase := .queued, chan := none, needsChan := false, x := {} }
  if subst then
    match placeRuns s ob.part o.id ((s.slot ob.recipe).outlen :: scratchSizes s ob.recipe) with
    | some (l, s) => let (s, rc) := takeSpaces s o.id rc l; stockpotMark (mk s rc)
    | none => mk s rc
  else mk s rc

/-- The order of R145: by D, then by arrival. -/
def recipeKey (o : Op) : Nat × Nat := (o.due.getD (2 ^ 64), o.id)
def keyBefore (a b : Nat × Nat) : Bool := a.1 < b.1 || (a.1 = b.1 && a.2 < b.2)

/-- A recipe under way, and clusters it runs on. -/
def Op.recipe? (o : Op) : Option Recipe := match o.kind with
  | .recipe r => some r
  | _ => none
def recipeMask (s : State) (r : Recipe) : Nat := if r.dispatched then r.body.clmask else (s.slot r.slot).clmask

/-- A sum in which none stands for infinite. -/
def addCost (a b : Option Nat) : Option Nat := match a, b with
  | some a, some b => some (a + b)
  | _, _ => none
/-- Q_cl of Table 5.6a for clusters `mask` and a recipe with order key k: per cluster the remaining costs of the recipes ahead are added up (log entry 17). -/
def queueCost (s : State) (mask : Nat) (k : Nat × Nat) : Option Nat :=
  let on := fun (c : Nat) => (s.ops.map fun o => match o.recipe? with
    | some r => if keyBefore (recipeKey o) k ∧ bitOf (recipeMask s r) c then r.cost.map fun n => if r.dispatched then n - (s.now - r.t0) else n else some 0
    | none => some 0).foldl addCost (some 0)
  (List.range 8).foldl (fun m c =>
    if bitOf mask c then
      match m, on c with
      | some a, some b => some (max a b)
      | _, _ => none
    else m) (some 0)

/-- A digest is checked when an object is regenerated (R148). -/
def checksDigest (s : State) (x : Nat) : Bool := (s.obj x).digestSet && (s.slot (s.obj x).recipe).digest && bitOf (reg s 0x98000) 48

/-- recipe_cost (R149) of regenerating object x with deadline d; none stands for infinite. -/
def recipeCost (s : State) (x : Nat) (d : Option Nat) : Option Nat :=
  let o := s.obj x
  let r := s.slot o.recipe
  let exec := if r.meas ≠ 0 then r.meas else r.exec
  if exec = 0 then none
  else
    let cfg := reg s 0x98000
    let raw := ((tempInputs s o.recipe).map fun h => (s.obj (hIdx h)).rawlen).foldl (· + ·) 0
    (queueCost s r.clmask (d.getD (2 ^ 64), s.nextOp)).map fun q =>
      bitsOf cfg 15 0 + (if r.capmask ≠ 0 then bitsOf cfg 31 16 else 0) + q + exec + decTime s raw + estTfix s 1 + if checksDigest s x then portTime s 1 o.rawlen else 0

/-- A request that brings a regeneration on its own: its operation is made and waits for dispatch (R145), or first until the entry may be locked (R10). -/
def regenFor (s : State) (x : Nat) (r : Req) (subst : Bool) (tier : Nat) (enc : Bool) : State :=
  let cost := recipeCost s x r.due
  let ok := lockOk s x
  let s' := accept s { id := 0, req := r, kind := .onObj x, cls := 2, phase := if ok then .queued else .waitSpace } false
  match s'.op (nextId s) with
  | some o => if ok then startRegen s' x o subst cost tier enc else s'
  | none => s

/-- The object's recipe could regenerate it after its data failed a check (note (e)). -/
def canRegen (s : State) (x : Nat) : Bool :=
  let o := s.obj x
  latHas o 4 && slotFor s x && o.rngcap && inputsResident s o.recipe o.part

/-- The object's data is lost: POISONED, its requests end with the status. Space at its home stays charged until RETIRE. -/
def poison (s : State) (x : Nat) : State :=
  (s.modObj x fun v => { v with st := .poisoned, dest := 0, destaddr := 0, dresv := 0 }).todo (.objLeft x)

/-- A request reaches an object whose operation in flight it joins (Table 1.5 note (d)). -/
def mergeInto (s : State) (o : Op) (r : Req) : State := s.setOp { o with more := o.more ++ [{ r with merged := true }] }

/-- The move under way on an object. -/
def moveOn (s : State) (x : Nat) : Option Op :=
  s.ops.find? fun o => (o.phase = .running || o.phase = .parked || o.phase = .ending) && match o.kind with
    | .move y _ _ _ => y = x
    | _ => false
/-- The recipe under way into the object's successor. -/
def regenOn (s : State) (x : Nat) : Option Op :=
  s.ops.find? fun o => match o.kind with
    | .recipe r => r.obj = x && !r.declared
    | _ => false

def queueOn (s : State) (x : Nat) (w : Wait) : State := s.modObj x fun o => { o with queue := o.queue ++ [w] }
def deferOn (s : State) (x : Nat) (w : Wait) : State := s.modObj x fun o => { o with defers := o.defers ++ [w] }

/-- The form a PROMOTE event asks for (R83, R153, R170): encoded only where ENC asks for it, the data is encoded, and no cluster is ENCDEG; SQZ asks for encoded data in any case. -/
def promoteForm (s : State) (o : Obj) (r : Req) (enc : Bool) : Form :=
  if r.opcode = 0x11 then .enc else if enc ∧ o.form = .enc ∧ ¬ anyEncdeg s then .enc else .raw

/-- A PROMOTE event on a RESIDENT object (note (b), (h), R115). -/
def promoteResident (s : State) (x tier : Nat) (enc : Bool) (r : Req) : State :=
  let o := s.obj x
  let f := promoteForm s o r enc
  if o.home < tier then finishOn s x r 0x20 false
  else if o.home = tier ∧ (o.form = f ∨ (o.form = .raw ∧ f = .raw)) then
    finishOn (if [0x10, 0x11, 0x17].contains r.opcode then s.modObj x fun v => { v with disp := if r.opcode = 0x17 then 5 else if r.opcode = 0x10 then 1 else 2 } else s) x r 0 false
  else if classBarred s r.part 0 then finishOn s x r 0x21 false
  else if o.home = 3 ∧ s.hostl.detached then
    let s := if r.opcode = 0x14 then slotCount s x else s
    if r.opcode = 0x14 ∧ canSubst s x ∧ (recipeCost s x r.due).isSome ∧ mayIssue s r.part 2 0 64 r.due.isSome then regenFor (dlAdd s r.part 0) x r true tier (f = .enc) else finishOn s x r 0x32 false
  else
    let d := match r.dl with
      | .at d => some d
      | _ => none
    let l := match d with
      | some d => latestStart s o.part o.home o.storlen (if o.form = .enc ∧ f = .raw then o.rawlen else 0) d
      | none => 0
    let id := nextId s
    let s := accept s { id := 0, req := r, kind := .move x tier f false, cls := 0, lstart := l } true
    s.todo (.tryOp id)

/-- The target tier of a move is slower than its source. -/
def isDownward (o : Obj) : Bool := o.home < o.dest

/-- The move has issued its last destination write. -/
def lastWriteOut (o : Op) : Bool := o.x.wrOff = o.x.dlen

/-- The PROMOTE column of Table 1.5. -/
def promoteEv (s : State) (x tier : Nat) (enc : Bool) (r : Req) : State :=
  let o := s.obj x
  let w : Wait := ⟨r, .promote tier enc⟩
  if 0 < o.holds then deferOn s x w
  else
    match o.st with
    | .free => complete s r { status := 0x20 } true
    | .declared => queueOn s x w
    | .bound => queueOn s x w
    | .resident => promoteResident s x tier enc r
    | .inTransit =>
      match moveOn s x with
      | some m =>
        let hasDl : Bool := match r.dl with
          | .none => false
          | _ => true
        if m.phase ≠ .ending ∧ o.dest = tier then mergeInto s m r
        else if hasDl ∧ isDownward o ∧ m.phase = .running ∧ !lastWriteOut m then queueOn (stopMove s m x 0x10) x w |>.todo (.objLeft x)
        else queueOn s x w
      | none => queueOn s x w
    | .dropped =>
      if !slotFor s x ∨ (tier = 0 ∧ r.opcode ≠ 0x17) then finishOn s x r 0x20 false
      else if !maskUp s (s.slot o.recipe).clmask then finishOn s x r 0x31 false
      else if classBarred s r.part 2 then finishOn s x r 0x21 false
      else regenFor s x r false 1 false
    | .regen =>
      if tier = 1 then
        match regenOn s x with
        | some m => mergeInto s m r
        | none => queueOn s x w
      else queueOn s x w
    | .parked => if s.hostl.detached then finishOn s x r 0x32 false else queueOn s x w
    | .poisoned => finishOn s x r 0x12 false

/-- The disposition code of a target (Table 3.6). -/
def tgtDisp : Tgt → Nat
  | .drop => 4
  | .tier 3 _ => 3
  | .tier 0 _ => 5
  | .tier _ .enc => 2
  | .tier _ _ => 1

/-- The EVICT column of Table 1.5. -/
def evictEv (s : State) (x : Nat) (t : Tgt) (r : Req) : State :=
  let o := s.obj x
  let w : Wait := ⟨r, .evict t⟩
  let disp := [0x10, 0x11, 0x12, 0x13, 0x17].contains r.opcode
  if 0 < o.holds ∨ (0 < o.snapHold ∧ o.st = .resident) then deferOn s x w
  else
    match o.st with
    | .free => complete s r { status := 0x20 } true
    | .declared => finishOn s x r 0 false
    | .bound => finishOn s x r 0x20 false
    | .resident =>
      if o.pinned ∧ r.opcode ≠ 0x10 then finishOn s x r 0x20 false
      else match t with
      | .drop =>
        if !(o.rngcap && slotFor s x) then finishOn s x r 0x20 false
        else
          let s := s.modObj x fun v => { v with st := .dropped, disp := 4, home := 0, homeaddr := 0, resv := 0, storlen := 0, form := .raw }
          (finishOn (stockpotMark s) x r 0 false).todo (.objLeft x)
      | .tier t f =>
        if o.home = t ∧ (o.form = f ∨ r.opcode = 0x16) then finishOn (if disp then s.modObj x fun v => { v with disp := tgtDisp (.tier t f) } else s) x r 0 false
        else if t < o.home then finishOn s x r 0x20 false
        else if classBarred s r.part 1 then finishOn s x r 0x21 false
        else
          let id := nextId s
          (accept s { id := 0, req := r, kind := .move x t f true, cls := 1 } true).todo (.tryOp id)
    | .inTransit => deferOn s x w
    | .dropped => finishOn s x r 0 false
    | .regen => deferOn s x w
    | .parked => deferOn s x w
    | .poisoned => finishOn s x r 0 false

/-- The RETIRE column of Table 1.5. -/
def retireEv (s : State) (x : Nat) (force : Bool) (r : Req) : State :=
  let o := s.obj x
  let w : Wait := ⟨r, .retire⟩
  let gone := objFree s x (some r)
  if 0 < o.holds then deferOn s x w
  else
    match o.st with
    | .free => complete s r { status := 0x20 } true
    | .bound => if force ∨ !sealPending s x then gone else deferOn s x w
    | .inTransit =>
      match moveOn s x with
      | some m => if m.phase = .ending then deferOn s x w else stopMove (deferOn s x w) m x 0x10
      | none => deferOn s x w
    | .regen => deferOn s x w
    | .parked =>
      match moveOn s x with
      | some m => stopMove (deferOn s x w) m x 0x10
      | none => gone
    | _ => gone

/-- Where a disposition instruction takes an object, by its opcode (Table 3.6). -/
def dispTarget (o : Obj) (opcode : Nat) : Tgt :=
  if opcode = 0x17 then .tier 0 .raw
  else if opcode = 0x10 then .tier 1 .raw
  else if opcode = 0x11 then .tier 1 .enc
  else if opcode = 0x12 then .tier 3 (if o.prot then .prot else .enc)
  else .drop

/-- A disposition instruction as the event that its target makes it (R82, Table 3.6). -/
def dispEv (s : State) (x : Nat) (r : Req) : State :=
  let o := s.obj x
  match dispTarget o r.opcode with
  | .drop => evictEv s x .drop r
  | .tier t f => if t = 0 ∨ t < o.home ∨ (t = o.home ∧ o.form ≠ .raw ∧ f = .raw) then promoteEv s x t false r else evictEv s x (.tier t f) r

/-- Apply an event that waited. A disposition instruction is judged by the home the object has by then, and a DEMOTE with AUTO takes its target from there (R24). -/
def applyEv (s : State) (x : Nat) (w : Wait) : State :=
  if [0x10, 0x11, 0x12, 0x13, 0x17].contains w.req.opcode then dispEv s x w.req
  else match w.ev with
    | .promote t enc => promoteEv s x t enc w.req
    | .evict t =>
      if w.req.auto ∧ (s.obj x).st = .resident then
        match demotion s x with
        | some t => evictEv (demoteCount s x) x t w.req
        | none => finishOn (demoteCount s x) x w.req 0x20 false
      else evictEv s x t w.req
    | .retire => retireEv s x false w.req

/-- The object left a state (R22): a deferred RETIRE applies first, then queued promotions, then deferred evictions. -/
def objLeft (s : State) (x : Nat) : State :=
  let o := s.obj x
  let busy := o.st = .inTransit ∨ o.st = .regen ∨ o.st = .parked ∨ o.st = .free
  if busy ∨ 0 < o.holds then s
  else if o.defers.any fun w => w.ev = .retire then
    if o.st = .bound ∧ sealPending s x then s else retireNow s x
  else if o.st = .declared ∨ o.st = .bound then s
  else
    let l := o.queue ++ o.defers
    let s := s.modObj x fun v => { v with queue := [], defers := [] }
    l.foldl (fun s w => applyEv s x w) s

/-- Start a move that waits, or try it again (R26, R32, R115). Encoded delivery asked for with ENC 1 is judged again when the move starts (R170). -/
def tryMove (s : State) (o : Op) (x t : Nat) (f : Form) (ev : Bool) : State :=
  let ob := s.obj x
  let f := if !ev ∧ (o.req.opcode = 0x14 ∨ o.req.opcode = 0x15) ∧ f = .enc ∧ anyEncdeg s then .raw else f
  let o := { o with kind := .move x t f ev }
  let sealing := ob.st = .bound ∧ ob.sealReq.isSome
  if ob.st ≠ .resident ∨ 0 < ob.holds ∨ (ev ∧ 0 < ob.snapHold) then
    if sealing then s
    else if ev ∧ o.req.who = .none then wakeOf (s.delOp o.id) o
    else
      let e : Ev := if ev then .evict (.tier t f) else .promote t (f = .enc)
      (o.req :: o.more).foldl (fun s r => applyEv s x ⟨r, e⟩) (s.delOp o.id)
  else
    match moveBar s x t f with
    | some st => if ev ∧ o.req.who = .none then wakeOf (s.delOp o.id) o else dropOp s x o st false
    | none =>
      if !lockOk s x then s.setOp { o with phase := .waitSpace }
      else
        let (a, s) := getSpace s ob.part t (formSize ob f) (!ev && o.hasDl) o.req.dl o.acct (.tryOp o.id)
        match a with
        | some a => beginMove s o x t a f
        | none => s.setOp { o with phase := .waitSpace }

/-- A regeneration that waits until the object's entry may be locked is tried again (R10). -/
def tryRegen (s : State) (o : Op) (x : Nat) : State :=
  let ob := s.obj x
  if ob.st = .dropped ∧ ob.holds = 0 ∧ slotFor s x then if lockOk s x then startRegen s x o false (recipeCost s x o.due) 1 false else s
  else (o.req :: o.more).foldl (fun s r => applyEv s x ⟨r, .promote 1 false⟩) (s.delOp o.id)

/-- The digest wanted at SEAL (R140): the recipe's FLAGS.DIGEST and R135. -/
def wantsDigest (s : State) (x : Nat) : Bool := (s.slot (s.obj x).recipe).digest && (s.obj x).rvalid && slotFor s x

def setDigest (s : State) (x : Nat) (v : Option Nat) : State :=
  match v with
  | some d => s.modObj x fun o => { o with digest := d, digestSet := true, digestDue := false }
  | none => s.modObj x fun o => { o with digestDue := false }
/-- The digest of an object's bytes as they stand. -/
def digestOf (s : State) (x : Nat) : Option Nat := (rawBytes s x).map crc64

/-- The dispositions a seal may take (R20). -/
def eligible (s : State) (x d : Nat) : Bool :=
  let o := s.obj x
  latHas o d && match d with
    | 2 => !o.prot && encUsable s
    | 3 => if o.prot then aesUsable s ≠ [] else encUsable s
    | 4 => slotFor s x && o.rngcap
    | _ => true

/-- Where a disposition puts an object (Table 1.3). -/
def dispTgt (o : Obj) (d : Nat) : Nat × Form :=
  match d with
  | 5 => (0, .raw)
  | 1 => (1, .raw)
  | 2 => (1, .enc)
  | _ => (3, if o.prot then .prot else .enc)

/-- The seal's object is already where a disposition wants it. -/
def inPlace (o : Obj) (d : Nat) : Bool := (dispTgt o d).2 = .raw && (dispTgt o d).1 = o.home

/-- The order of R21, with the response to saturated host ports (Table 4.7): SQUEEZE first and no SPILL in the first pass. -/
def hostHeld (s : State) (o : Obj) : Bool := satBit s 0 && satResp s o.part 0 && latHas o 2 && latHas o 3
def dispOrder (s : State) (o : Obj) (first : Bool) : List Nat :=
  if hostHeld s o then if first then [2, 5, 1] else [2, 5, 1, 3, 4]
  else if first then [5, 1, 2, 3] else [5, 1, 2, 3, 4]

/-- The pool of a disposition takes the object from free space alone. -/
def dispFits (s : State) (x d : Nat) : Bool :=
  let o := s.obj x
  if inPlace o d then true
  else
    let (t, f) := dispTgt o d
    lockOk s x && (moveBar s x t f).isNone && (place s o.part t (formSize o f) false).isSome

/-- A separate read of the object for its digest (R140): at once in T0, by an operation charged to COPPICE elsewhere. -/
def digestRead (s : State) (x : Nat) : State :=
  let o := s.obj x
  if o.home = 0 then setDigest s x (digestOf s x)
  else if classBarred s o.part 2 then dlAdd s o.part 3
  else
    let s := s.modObj x fun v => { v with digestDue := true }
    accept s { id := 0, req := { part := o.part }, kind := .digest (handleOf s x) (digestOf s x), cls := 2, phase := .running, acct := some o.ctx
               x := mkXfer [run o.home (tqaOff o.homeaddr) o.storlen x] [] } true

/-- A sealed object becomes DROPPED (Table 1.5 note (a)). -/
def dropSealed (s : State) (x : Nat) : State :=
  let s := s.modObj x fun v => { v with st := .dropped, home := 0, homeaddr := 0, resv := 0, storlen := 0, form := .raw, sealAsked := false }
  (endFixed (placed (stockpotMark s) x 0) x 0 false).todo (.objLeft x)

/-- Requests queued to SEAL restart when the object's seal has put it IN_TRANSIT (R22), judged against the home that SEAL gives (R83). -/
def sealQueue (s : State) (x t : Nat) : State :=
  let l := (s.obj x).queue
  l.foldl (fun s w => match w.ev with
    | .promote u _ => if t < u then finishOn s x w.req 0x20 false else applyEv s x w
    | _ => applyEv s x w) (s.modObj x fun v => { v with queue := [] })

/-- The object takes disposition d at its seal (Table 1.5 note (a)). -/
def takeDisp (s : State) (x d : Nat) : State :=
  let o := s.obj x
  let s := s.modObj x fun v => { v with disp := d, sealAt := none, sealWait := none, sealAsked := false }
  let dig := wantsDigest s x
  if d = 4 then
    let s := if dig then digestRead s x else s
    if (s.obj x).digestDue then s.modObj x fun v => { v with st := .bound, sealAsked := true } else dropSealed s x
  else if inPlace o d then
    let s := s.modObj x fun v => { v with st := .resident }
    let s := if dig then digestRead s x else s
    (endFixed (placed s x 0) x 0 false).todo (.objLeft x)
  else
    let (t, f) := dispTgt o d
    let s := if dig then if f = .raw then digestRead s x else s.modObj x fun v => { v with digestDue := true } else s
    let a := (place s o.part t (formSize o f) false).getD 0
    let id := nextId s
    let s := accept s { id := 0, req := { part := o.part }, kind := .move x t f true, cls := 1, acct := some o.ctx } true
    match s.op id with
    | some m => sealQueue (beginMove s m x t a f) x t
    | none => s

/-- The seal fails (R20, R21): the object stays BOUND with no seal pending, its operation completes with a status, a deferred RETIRE applies. -/
def failSeal (s : State) (x status : Nat) : State :=
  let s := s.modObj x fun o => { o with sealAt := none, sealWait := none, sealAsked := false }
  (placed s x status).todo (.objLeft x)

/-- The choice of R21, or the disposition fixed under R82, once the capture is settled. -/
def chooseDisp (s : State) (x : Nat) : State :=
  let s := match (s.obj x).fixed with
    | some (d, _) => if eligible s x d then s else endFixed s x 0x20 false
    | none => s
  let o := s.obj x
  let pick := match o.fixed with
    | some (d, _) => fun (_ : Bool) => [d]
    | none => fun first => (dispOrder s o first).filter (eligible s x)
  if pick false = [] then failSeal s x 0x20
  else
    match (pick true).find? fun d => d ≠ 4 && dispFits s x d with
    | some d => takeDisp s x d
    | none =>
      let second := (pick false).foldl (fun (acc : Option Nat × State) d =>
        match acc with
        | (some r, s) => (some r, s)
        | (none, s) =>
          if d = 4 then (some 4, s)
          else if inPlace o d then (some d, s)
          else
            let (t, f) := dispTgt o d
            if (moveBar s x t f).isSome || !lockOk s x then (none, s)
            else
              let (a, u) := getSpace s o.part t (formSize o f) false .none (some o.ctx) (.sealing x)
              if a.isSome then (some d, u) else if willFit u o.part t (formSize o f) false then (some 99, u) else (none, { s with t0Evict := u.t0Evict })) (none, s)
      match second with
      | (some 99, s) => s.modObj x fun v => { v with sealWait := some (v.sealWait.getD s.now) }
      | (some d, s) => takeDisp s x d
      | (none, s) => s.modObj x fun v => { v with sealWait := some (v.sealWait.getD s.now) }
/-- A free tag of a command port (R147): 32 a port. -/
def cqTagFree (s : State) (c : Nat) : Option Nat := (List.range 32).find? fun t => !s.cqTags.any fun e => e.1 = 32 * c + t

/-- A message goes out on a command port (R146, R147): its tag is outstanding from now. -/
def sendCq (s : State) (c t : Nat) (k : CqTag) (words : List Nat) : State :=
  { s with cqTags := tset s.cqTags (32 * c + t) (k, s.now), cqMsg := tset s.cqMsg c [words] }.gadd (0x178 + 0x10 * c) (16 * words.length)

/-- Send RNG_QUERY to a cluster for an object (R139). Without a free tag the query waits for one. The object of an RCPRUN has no BIND semaphore: its queries carry 0. -/
def sendQuery (s : State) (x c : Nat) : State :=
  match cqTagFree s c with
  | some t => sendCq s c t (.query x) [3 + 256 * t + (match (s.obj x).sealAt with | some (n, _) => n * 2 ^ 16 | none => 0)]
  | none => s

/-- A query of object x is outstanding on cluster c. -/
def queried (s : State) (x c : Nat) : Bool := s.cqTags.any fun e => e.1 / 32 = c && e.2.1 = CqTag.query x

/-- The capture failed (R139): no RNGCAP, the slot's capture is released. CAPLOST is word 4 of PRG_COP_COUNT. -/
def capFail (s : State) (x : Nat) : State :=
  let o := s.obj x
  let s := copAdd s o.part 4
  let s := dropQueries (releaseCapture s x) x
  chooseDisp (s.modObj x fun v => { v with rngcap := false, sealAsked := false, sealAt := none, askLost := false, askMask := 0 }) x

/-- Every queried cluster has answered: the capture stands or fails (R139). -/
def asked (s : State) (x : Nat) : State :=
  let o := s.obj x
  if !o.sealAsked ∨ o.askMask ≠ 0 ∨ o.st ≠ .bound then s
  else if o.askLost then capFail s x
  else chooseDisp (s.modObj x fun v => { v with rngcap := true, sealAsked := false, sealAt := none }) x

/-- SEAL: the semaphore served the object, or a waiting seal is tried again (R21, R80, R87, R139). -/
def sealObj (s : State) (x : Nat) : State :=
  let o := s.obj x
  if o.st ≠ .bound ∨ o.sealAsked then s
  else if o.defers.any (fun w => w.ev = .retire) then
    retireNow (s.modObj x fun v => { v with sealAt := none }) x
  else if o.clsP then
    let s := (touch s x).modObj x fun v => { v with st := .resident, sealAt := none }
    (placed s x 0).todo (.objLeft x)
  else if o.sealWait.isSome then chooseDisp s x
  else
    let s := touch (slotCount s x) x
    if latHas o 4 && slotFor s x then
      let mask := if o.clmask = 0 then 0xFF else o.clmask
      let up := ((List.range 8).filter fun c => bitOf mask c && copUp s c).foldl (fun m c => m + 2 ^ c) 0
      let s := s.setSlot o.recipe { s.slot o.recipe with owner := x, capmask := 0, bases := [] }
      let s := s.modObj x fun v => { v with sealAsked := true, askMask := up, askLost := up ≠ mask }
      asked ((List.range 8).foldl (fun s c => if bitOf up c then sendQuery s x c else s) s) x
    else chooseDisp (s.modObj x fun v => { v with sealAt := none }) x

/-- A move's last read-back has returned (R16, R190): the data is at its destination in its form, or a check failed on the way. -/
def landMove (s : State) (o : Op) (x t : Nat) (f : Form) : State :=
  let ob := s.obj x
  let raw := if f = ob.form ∧ !(ob.revalidate && ob.home = 3) then some [] else rawBytes s x
  match (if o.x.srcBad then none else raw) with
  | none =>
    let s := if o.x.srcBad then s else sieveCount s x
    let s := s.modObj x fun v => { v with dest := 0, destaddr := 0, dresv := 0, st := .resident, digestDue := false }
    if canRegen s x then
      let s := startRegen s x o false (recipeCost s x o.due) 1 false
      wakeOf s o
    else
      let s := poison s x
      wakeOf (endFixed (placed (finishAll (s.delOp o.id) x o 0x12 false) x 0x12) x 0x12 false) o
  | some b =>
    if o.x.bad ≠ 0 then abortedMove s { o with endStatus := o.x.bad } x
    else
      let n := newLen s x f
      let k := memKey s ob.part ob.homeaddr
      let d := memKey s ob.part ob.destaddr
      let nonce := (s.part ob.part).nonce
      let s :=
        if f = ob.form then { s with mem := cpBytes s.mem k d n }
        else match f with
          | .raw => s.store d b
          | .enc => let e := encodeObj b; s.store d (e ++ List.replicate (up4k e.length - e.length) 0)
          | .prot => s.store d (protSeal s ob nonce b)
      let s := if f = .prot ∧ ob.form ≠ .prot then s.modPart ob.part fun v => { v with nonce := v.nonce + 1 } else s
      let s := if f = .enc ∧ ob.form ≠ .enc then countEncode s ob.part ob.rawlen (encodeObj b) else s
      let s := if f ≠ .enc ∨ ob.revalidate then decodeFor s o.acct x else s
      let reval := ob.revalidate && ob.home = 3
      let s := if ob.digestDue ∧ f ≠ .raw then setDigest s x (digestOf s x) else s
      let s := s.modObj x fun v => { v with st := .resident, home := t, homeaddr := ob.destaddr, resv := up4k n, storlen := n, form := f, dest := 0, destaddr := 0, dresv := 0, revalidate := if ob.home = 3 then false else v.revalidate, disp := if v.clsP ∨ o.req.opcode = 0x14 ∨ o.req.opcode = 0x15 then v.disp else tgtDisp (.tier t f) }
      let s := touch s x
      let s := (o.req :: o.more).foldl (fun s r =>
        let z := objRes s x r 0
        complete s r { z with flags := z.flags + if reval ∧ (r.opcode = 0x14 ∨ r.opcode = 0x15) then 0x10 else 0 } true) (s.delOp o.id)
      let s := endFixed (placed s x 0) x 0 false
      wakeOf ((stockpotMark s).todo (.objLeft x)) o

end Sys2Proof.Machine
end

