-- ==== Sys2Proof/Machine/Contexts.lean ====
section
/-!
DEFINITION. Contexts: plan slots, sequencers, waits (R51), retirement, exceptions (R64 to R68), the end of STOPPING (R49).
-/

namespace Sys2Proof.Machine

def Ctx.slotAt (v : Ctx) (i : Nat) : Slot := if i = 0 then v.slot0 else v.slot1
def Ctx.setSlot (v : Ctx) (i : Nat) (p : Slot) : Ctx := if i = 0 then { v with slot0 := p } else { v with slot1 := p }
/-- The active plan. -/
def Ctx.plan (v : Ctx) : Slot := v.slotAt v.aslot

/-- A general register. -/
def Ctx.gr (v : Ctx) (i : Nat) : Nat := (tget v.g i 0).toNat
def setG (s : State) (c i v : Nat) : State := s.modCtx c fun k => { k with g := tset k.g i (BitVec.ofNat 64 v) }

/-- The context leaves its sequencer (R39). -/
def leaveSeq (s : State) (c : Nat) : State :=
  match (s.ctx c).seq with
  | some q => s.setSeq q { ctx := none } |>.modCtx c fun v => { v with seq := none, lastRun := s.now }
  | none => s

/-- A context's wait begins (R51, WAITST). -/
def block (s : State) (c kind on : Nat) (r : Req) : State :=
  leaveSeq (s.modCtx c fun v => { v with waitKind := kind, waitOn := on, wstart := s.now, waiting := some r, wfrozen := 0 }) c

/-- ns of a wait go to the counter of its kind (Table 13.1). -/
def waitCount (s : State) (c : Nat) : State :=
  let v := s.ctx c
  let off := match v.waitKind with
    | 1 => 0xA0
    | 5 => 0xA0
    | 2 => 0xA8
    | _ => 0xB0
  s.cadd c off (s.now - v.wstart)

/-- The wait is over: WAITST and WSTART read zero again. -/
def unwait (s : State) (c : Nat) : State := (waitCount s c).modCtx c fun v => { v with waitKind := 0, waitOn := 0, wstart := 0, waiting := none }

def isCtxWaiter (c : Nat) : SemWaiter → Bool
  | .ctx d _ => d = c
  | _ => false

/-- The queues a waiting context stands in lose it (R51): semaphores, rings, the waiter store, the free list. -/
def leaveQueues (s : State) (c : Nat) : State :=
  { s with sems := s.sems.map fun (e : Nat × Sem) => (e.1, { e.2 with q := e.2.q.filter fun w => !isCtxWaiter c w }),
           rings := s.rings.map fun (e : Nat × Ring) => (e.1, { e.2 with popq := e.2.popq.filter fun w => w ≠ .ctx c, pushq := e.2.pushq.filter fun w => w.who ≠ .ctx c || w.op.isSome }),
           storeq := s.storeq.filter fun d => d ≠ c,
           dir := { s.dir with waiters := s.dir.waiters.filter fun w => w ≠ .retryCtx c } }

/-- Trace object and enable bit of a wait (Table 13.6). -/
def waitTrace (v : Ctx) : Option (Nat × Nat) :=
  match v.waitKind with
  | 1 => some (8, v.waitOn)
  | 5 => some (9, v.waitOn)
  | 2 => some (10, v.waitOn)
  | _ => none

/-- WAIT_END with the party that served the wait (R345). -/
def traceEnd (s : State) (c : Nat) (by_ : Party) : State :=
  let v := s.ctx c
  match waitTrace v with
  | some (en, obj) => if en = 10 then s else trace s (ctxPart s c) en 2 (.ctx c) by_ obj (partyNum by_) v.wstart
  | none => s
def traceBegin (s : State) (c : Nat) : State :=
  match waitTrace (s.ctx c) with
  | some (en, obj) => if en = 10 then s else trace s (ctxPart s c) en 1 (.ctx c) .none obj 0 0
  | none => s

/-- A STOP, a RESET or an exception ends the wait without retiring the instruction (R51). The arrival of a BAR that FENCE still holds stands (R246, Table 7.5). -/
def endWait (s : State) (c : Nat) : State :=
  if (s.ctx c).waitKind = 0 then s
  else
    let n := (s.ctx c).waitOn
    let k := (s.ctx c).waitKind
    let v := s.ctx c
    let s := (unwait (leaveQueues (traceEnd s c .none) c) c).modCtx c fun u => { u with left := (v.waitKind, v.waitOn, v.wstart) }
    if k = 1 then s.todo (.semAdd n 0 .none) else s

/-- An instruction of `len` bytes retires (R41 INSTRET, R39). -/
def retireBy (s : State) (c len : Nat) : State :=
  s.modCtx c fun v => { v with pc := v.pc + len, instret := (v.instret + 1) % 2 ^ 64, issued := v.issued + 1 }

/-- The waiting instruction's condition is met: it retires. `len` is its length. -/
def retireWait (s : State) (c len : Nat) (by_ : Party) : State := retireBy (unwait (traceEnd s c by_) c) c len

/-- The context enters STOPPING (Table 2.4): its wait ends, it leaves its sequencer. -/
def enterStopping (s : State) (c : Nat) (target : CtxSt) (abort : Bool) : State :=
  let s := leaveSeq (endWait s c) c
  (s.modCtx c fun v => { v with st := .stopping, target := target, aborting := abort, miss := none, filled := [] }).todo (.ctxCheck c)

/-- What an exception record says (Table 2.10). -/
structure Exc where
  cause : Nat
  status : Nat
  pc : Nat
  opcode : Nat
  word : Nat := 0
  handle : Nat := 0
  detail : Nat := 0
  deriving DecidableEq, Repr

/-- An exception (R65, Table 2.4): its record, its event, and the way of the context into FAULTED. -/
def raiseExc (s : State) (c : Nat) (e : Exc) : State :=
  let p := ctxPart s c
  let data := pack [(0, 8, 0xE0), (8, 8, e.status), (16, 8, e.cause), (24, 8, c), (32, 32, e.pc), (64, 8, e.opcode), (72, 8, e.word), (96, 32, e.handle), (128, 64, s.now),
    (192, 64, e.detail)]
  let s := s.cadd c 0xD0 1
  let s := s.modCtx c fun v => { v with exc := true, excSince := true, lastexc := if v.excSince then v.lastexc else data }
  let s := cqPost s { q := defaultCq s c, data := data, who := .none, part := p }
  let s := raiseEv s p 1 c [(0x10, e.cause + 256 * e.status)]
  match (s.ctx c).st with
  | .active => enterStopping s c .faulted false
  | .stopping => if (s.ctx c).resetting.isSome then s else s.modCtx c fun v => { v with target := .faulted }
  | _ => s

/-- Failures of CMODE 0 instructions are raised, in the order in which they became known (R64, R67). -/
def raiseFails (s : State) (c : Nat) : State :=
  let l := (s.ctx c).fails
  l.foldl (fun s f => raiseExc s c { cause := 7, status := f.status, pc := f.pc, opcode := f.opcode, handle := f.handle, detail := f.detail }) (s.modCtx c fun v => { v with fails := [] })

/-- Nothing of the context is left without its record (R49, R203). -/
def isDrained (s : State) (c : Nat) : Bool := (s.ctx c).live = [] && !s.pend.any fun r => r.who = .ctx c

/-- Plan objects of any slot of any context (R45). -/
def planHandle (s : State) (h : Nat) : Bool := (s.obj (hIdx h)).plan && (s.obj (hIdx h)).gen = hGen h

/-- A plan slot is emptied and its object retired (R44, R53). -/
def dropPlan (s : State) (c i : Nat) : State :=
  let p := (s.ctx c).slotAt i
  let s := if p.valid then objFree s (hIdx p.handle) none else s
  s.modCtx c fun v => v.setSlot i { loading := p.loading, tag := p.tag }

/-- The context image and all of its state but its configuration and its queued loads goes back to zero (R53). DBDROP is cleared too (Table 2.13); EXC, DBERR and the other flags stay. -/
def clearCtx (s : State) (c : Nat) : State :=
  let v := s.ctx c
  s.setCtx c { slot0 := { loading := v.slot0.loading, tag := v.slot0.tag }, slot1 := { loading := v.slot1.loading, tag := v.slot1.tag }, exc := v.exc, dberr := v.dberr, imgbusy := v.imgbusy, loaderr := v.loaderr, laststat := v.laststat, fails := v.fails }

/-- The latch and the arrivals that a context reset clears (R246). -/
def clearLatch (s : State) (c : Nat) : State := { s with bars := s.bars.map fun (e : Nat × Bar) => (e.1, { e.2 with latched := e.2.latched.filter fun l => l.1 ≠ c }) }

/-- The end of a context reset (R53, R330): plans retired, image zeroed, EMPTY, command record. -/
def finishReset (s : State) (c : Nat) (k : Cmd) : State :=
  let s := dropPlan (dropPlan s c 0) c 1
  let s := clearLatch (clearCtx s c) c
  cmdRecord { s with cnts := tdel s.cnts c } c k 0 0 0

/-- What a context's state asks for when something of it has completed (R64, R49, R53). -/
def ctxCheck (s : State) (c : Nat) : State :=
  let v := s.ctx c
  let s := if v.fails ≠ [] ∧ (v.st ≠ .active ∨ v.seq.isNone) then raiseFails s c else s
  let v := s.ctx c
  if v.st = .stopping ∧ isDrained s c then
    match v.resetting with
    | some k => (finishReset s c k).todo (.partCheck (ctxPart s c))
    | none => (s.modCtx c fun v => { v with st := v.target, saved := true }).todo (.partCheck (ctxPart s c))
  else s

end Sys2Proof.Machine
end

