-- ==== Sys2Proof/Machine/Coppice.lean ====
section
/-!
DEFINITION. The Coppice unit: dispatch of recipes (R143 to R145), steps and command ports (R141, R146, R147), completion and verification (R148, R150), failures (R151,
Table 5.6), RNGSET (R87).
-/

namespace Sys2Proof.Machine

def setRecipe (s : State) (o : Op) (r : Recipe) : State := s.setOp { o with kind := .recipe r }

/-- Recipes in dispatch: those that wait for inputs or space are in step 1 of R145 and count (R143). -/
def inDispatch (s : State) : Nat := (s.ops.filter fun o => o.recipe?.isSome && o.phase ≠ .queued).length

def RProg.at (l : List RProg) (i : Nat) : RProg := (l[i]?).getD {}
def stepAt (r : Recipe) (i : Nat) : RStep := (r.body.steps[i]?).getD {}
def progSet (r : Recipe) (i : Nat) (p : RProg) : Recipe := { r with prog := r.prog.set i p }

/-- The steps of a recipe that run on cluster c. -/
def stepsOn (r : Recipe) (c : Nat) : List Nat := (List.range r.body.steps.length).filter fun i => (stepAt r i).cl = c

/-- The step before which RNG_SET goes to cluster c (R141): its step with RNGPOINT, else its first; none for a cluster outside CAPMASK. -/
def rngAt (s : State) (r : Recipe) (c : Nat) : Option Nat :=
  if bitOf (s.slot r.slot).capmask c then
    match (stepsOn r c).find? fun i => (stepAt r i).rngpoint with
    | some i => some i
    | none => (stepsOn r c).head?
  else none

/-- The step to launch next: steps are launched in body order. -/
def nextStep (r : Recipe) : Nat := (r.prog.filter fun p => p.launched).length

/-- Step i needs an RNG_SET that has not been sent. -/
def needsRng (s : State) (r : Recipe) (i : Nat) : Bool := rngAt s r (stepAt r i).cl = some i && !bitOf r.rngSent (stepAt r i).cl

/-- The conditions of R145 step 3 but for the tag: RNG_SET acknowledged, DEP met, earlier steps on the cluster fully drawn. -/
def stepReady (s : State) (r : Recipe) (i : Nat) : Bool :=
  let t := stepAt r i
  r.temps = [] && (rngAt s r t.cl ≠ some i || bitOf r.rngOk t.cl) && (!t.dep || (List.range i).all fun j => (RProg.at r.prog j).isDone) &&
    (List.range i).all fun j => (stepAt r j).cl ≠ t.cl || (RProg.at r.prog j).drawn = (stepAt r j).outunits

/-- The step whose next 64-credit unit can be drawn (R145 step 4). -/
def unitStep (s : State) (r : Recipe) : Option Nat :=
  if r.dispatched ∧ r.failed = 0 then
    (List.range r.body.steps.length).find? fun i =>
      (RProg.at r.prog i).drawn < (stepAt r i).outunits && ((RProg.at r.prog i).launched || (i = nextStep r && stepReady s r i))
  else none

/-- One unit of a step's charge is drawn. -/
def drawUnit (s : State) (o : Op) (r : Recipe) (i : Nat) : State :=
  let p := RProg.at r.prog i
  (setRecipe s o (progSet r i { p with drawn := p.drawn + 1 })).todo (.tryOp o.id)

/-- A recipe's outstanding launches: port and tag. -/
def launchesOf (s : State) (o : Nat) : List (Nat × Nat) :=
  s.cqTags.filterMap fun e => match e.2.1 with
    | .launch p _ => if p = o then some (e.1 / 32, e.1 % 32) else none
    | _ => none

/-- CANCEL for every launch that is outstanding (R151). CANCEL uses no tag. -/
def sendCancels (s : State) (o : Nat) : State :=
  let l := launchesOf s o
  (l.map fun e => e.1).dedup.foldl (fun s c => { s with cqMsg := tset s.cqMsg c ((l.filter fun e => e.1 = c).map fun e => [4 + e.2 * 2 ^ 16]) }) s

/-- Replay bases held by an operation are given back. -/
def dropBases (s : State) (o : Nat) : State := { s with baseHeld := s.baseHeld.filter fun e => e.2 ≠ o }

/-- A recipe meets a failure (R151). `aborted` tells rows 5 and 6 of Table 5.6 from the others. -/
def failRecipe (s : State) (o : Op) (r : Recipe) (status : Nat) (aborted : Bool) : State :=
  if r.failed ≠ 0 then s
  else (setRecipe s { o with phase := .ending } { r with failed := status, aborted := aborted }).todo (.tryOp o.id)

/-- RNGSET operations that wait for a replay base or a tag are tried again, as are RNG_QUERYs that wait for a tag of cluster c. -/
def copRetry (s : State) (c : Nat) : State :=
  let s := s.objs.foldl (fun (s : State) (e : Nat × Obj) =>
    if e.2.sealAsked && bitOf e.2.askMask c && !queried s e.1 c && copUp s c then sendQuery s e.1 c else s) s
  s.ops.foldl (fun s o => match o.kind with
    | .rngset _ _ _ _ => s.todo (.tryOp o.id)
    | _ => s) s

/-- Space and inputs that a recipe holds beside its output are released. -/
def releaseRecipe (s : State) (o : Op) (r : Recipe) : State :=
  let s := releaseInputs (dropBases s o.id) r.held
  let s := dirLeave { s with runs := s.runs.filter fun x => x.owner ≠ o.id } (.tryOp o.id)
  (List.range 8).foldl (fun s c => copRetry s c) (stockpotMark s)

/-- The successor entry of a recipe that did not finish goes back to the free list; nobody holds its handle. -/
def dropSucc (s : State) (r : Recipe) : State :=
  if r.succ = 0 then s
  else
    dirRelease (s.modObj r.obj fun v => { v with succ := 0 }) r.succ

/-- MEAS_NS after a run of x ns (R150). -/
def measured (m x : Nat) : Nat := if m = 0 then x else max x (m - (m - x) / 8)

/-- The requests of a finished regeneration: SUBST for the FETCHes of a substitution (R120), the successor's handle and the recipe slot for all (R83, R88). A STOCK of the object,
and a disposition fixed for a seal whose data had to be made again, go on from the successor (note (k), R82). -/
def regenDone (s : State) (y : Nat) (o : Op) (r : Recipe) : State :=
  (o.req :: o.more).foldl (fun s q =>
    if q.opcode = 0x17 then dispEv s y q
    else finishOn s y { q with detail := slotRel s o.req.part r.slot } (if r.substitution ∧ q.opcode = 0x14 then 1 else 0) false) s

/-- DONE of a regeneration (notes (f) and (k) of Table 1.5): the successor is RESIDENT, the old entry FREE, a RETIRE that waited completes, what else waited passes on. -/
def regenLands (s : State) (o : Op) (r : Recipe) : State :=
  let x := r.obj
  let y := r.succ
  let ob := s.obj x
  let h := handleOf s x
  let taps := tapsOf s h
  let s := s.modObj y fun v => { v with st := .resident, successor := false, pinned := ob.pinned, disp := ob.disp, sealReq := ob.sealReq, queue := ob.queue, defers := ob.defers.filter fun w => w.ev ≠ .retire }
  let s := touch s y
  let s := { s with slots := s.slots.map fun (e : Nat × RSlot) => if e.2.owner = x then (e.1, { e.2 with owner := y }) else e }
  let s := taps.foldl (fun s t => s.setTap t { s.tapOf t with hdl := handleOf s y }) s
  let s := regenDone (placed (s.delOp o.id) y 0) y o r
  let s := match ob.fixed with
    | some (_, q) => dispEv s y q
    | none => s
  let s := (ob.defers.filter fun w => w.ev = .retire).foldl (fun s w => complete s w.req {} true) s
  let s := dropShares (dirRelease s x) h
  wakeOf (((stockpotMark s).todo (.objLeft y)).todo (.tap y)) o

/-- A substitution falls back to the fetch (note (g)): the move starts from T3 as soon as its space is there; while the host is detached it parks (R23). -/
def fallBack (s : State) (o : Op) (r : Recipe) : State :=
  let x := r.obj
  let s := copAdd (s.modObj x fun v => { v with st := .resident }) o.req.part 6
  let o := { o with kind := .move x r.tier (if r.enc then .enc else .raw) false, cls := 0, phase := .queued, chan := none, needsChan := true, decided := true, x := {} }
  let retires := (s.obj x).defers.filter fun w => w.ev = .retire
  let s := (s.setOp o).modObj x fun v => { v with defers := v.defers.filter fun w => w.ev ≠ .retire }
  let s :=
    if s.hostl.detached then
      match place s o.req.part r.tier (formSize (s.obj x) (if r.enc then .enc else .raw)) o.hasDl with
      | some a =>
        let s := beginMove s o x r.tier a (if r.enc then .enc else .raw)
        match s.op o.id with
        | some m => (s.setOp { m with phase := .parked }).modObj x fun v => { v with st := .parked }
        | none => s
      | none => s.setOp { o with phase := .waitSpace }
    else tryMove s o x r.tier (if r.enc then .enc else .raw) false
  retires.foldl (fun s w => retireEv s x false w.req) s

/-- The end of a recipe, once no launch is outstanding (R148, Table 5.6). -/
def recipeEnd (s : State) (o : Op) (r : Recipe) : State :=
  let s := releaseRecipe s o r
  let x := r.obj
  if r.failed = 0 then
    let s := s.setSlot r.slot { s.slot r.slot with meas := if r.body.steps = [] then (s.slot r.slot).meas else measured (s.slot r.slot).meas (r.lastDone - r.firstLaunch) }
    if r.declared then (s.delOp o.id).todo (.sealing x) else regenLands s o r
  else
    let quietly := r.failed = 0x10
    if r.declared then
      let s := s.delOp o.id
      if x = 0 then s
      else
        let s := s.modObj x fun v => { v with st := .declared, home := 0, homeaddr := 0, resv := 0, storlen := 0 }
        let s := match (s.obj x).sealReq with
          | some q => finishOn (s.modObj x fun v => { v with sealReq := none }) x q r.failed quietly
          | none => s
        (stockpotMark s).todo (.objLeft x)
    else if r.substitution ∧ !r.aborted then fallBack (dropSucc s r) o r
    else if r.substitution then
      let s := (dropSucc s r).modObj x fun v => { v with st := .resident }
      wakeOf ((finishAll (s.delOp o.id) x o r.failed quietly).todo (.objLeft x)) o
    else if r.aborted then
      let s := (dropSucc s r).modObj x fun v => { v with st := .dropped, home := 0, homeaddr := 0, resv := 0, storlen := 0, form := .raw }
      wakeOf ((endFixed (placed (finishAll (s.delOp o.id) x o r.failed quietly) x r.failed) x r.failed quietly).todo (.objLeft x)) o
    else
      let s := finishAll ((dropSucc s r).delOp o.id) x o r.failed false
      wakeOf (endFixed (placed (poison s x) x r.failed) x r.failed false) o

/-- Dispatch (R143 to R145 steps 1 and 2), tried again until the inputs are resident and the space is there. -/
def dispatchRecipe (s : State) (o : Op) (r : Recipe) : State :=
  let p := o.req.part
  let s := if o.phase = .queued then copAdd s p 0 else s
  let slot := s.slot r.slot
  let bad := slot.inputs.find? fun h => !handleOk s p h || (s.obj (hIdx h)).st = .poisoned
  match (if r.held = [] then bad else none) with
  | some h => failRecipe s o r (if handleOk s p h then 0x12 else 0x20) true
  | none =>
    if !maskUp s slot.clmask then failRecipe s o r 0x31 false
    else if classBarred s p 2 then failRecipe s o r 0x21 true
    else if r.held = [] ∧ !inputsResident s r.slot p then
      let s := if r.inputWaited then s else copAdd s p 7
      setRecipe s { o with phase := .waitSpace } { r with waitedInput := some (r.waitedInput.getD s.now), inputWaited := true }
    else
      let r := { r with waitedInput := none }
      let enter := fun (s : State) (r : Recipe) =>
        setRecipe s { o with phase := .running } { r with dispatched := true, t0 := s.now, prog := r.body.steps.map fun _ => {} }
      if r.held ≠ [] then (enter s r).todo (.tryOp o.id)
      else if !r.declared && !dirTurn s (.tryOp o.id) then
        setRecipe (dirJoin s (.tryOp o.id)) { o with phase := .waitSpace } r
      else
        let s0 := s
        let sizes := (if r.declared then 0 else (s.obj r.obj).rawlen) :: scratchSizes s r.slot
        let (l, s) := sizes.foldl (fun (acc : Option (List Nat) × State) n =>
          match acc with
          | (none, s) => (none, s)
          | (some l, s) =>
            if n = 0 then (some (l ++ [0]), s)
            else
              match getSpace s p 1 n (!r.declared && o.hasDl) o.req.dl o.acct (.tryOp o.id) with
              | (some a, s) => (some (l ++ [a]), { s with runs := s.runs ++ [⟨1, a, n, some p, o.id⟩] })
              | (none, s) => (none, s)) (some [], s0)
        match l with
        | none => setRecipe (stockpotMark { s with runs := s.runs.filter fun x => x.owner ≠ o.id }) { o with phase := .waitSpace } r
        | some l =>
          let (s, r) := takeSpaces (dirLeave s (.tryOp o.id)) o.id r l
          (stockpotMark (enter s r)).todo (.tryOp o.id)

/-- The address an operand selector names (R145, Table 5.3). -/
def operandOf (s : State) (r : Recipe) (v : Nat) : Nat :=
  if v = 0 then 0
  else if v ≤ 8 then
    let h := (r.body.inputs[v - 1]?).getD 0
    match r.made.find? fun e => e.1 = h with
    | some e => e.2
    | none => (s.obj (hIdx h)).homeaddr
  else if v = 9 then r.outAddr
  else r.scrAddr

/-- LAUNCH of step i under tag t (Table 5.4). -/
def launchWords (s : State) (r : Recipe) (i t : Nat) : List Nat :=
  let p := stepAt r i
  let arg := fun k => bitsOf p.args (32 * k + 31) (32 * k)
  let op := fun k => operandOf s r (bitsOf p.sel (4 * k + 3) (4 * k))
  [pack [(0, 4, 1), (4, 4, 3), (8, 8, t), (16, 16, i), (32, 32, p.kernel), (64, 32, arg 0), (96, 32, arg 1)], op 0 + op 1 * 2 ^ 64, op 2 + op 3 * 2 ^ 64, arg 2 + arg 3 * 2 ^ 32]

/-- Send RNG_SET for the step's cluster: its replay base is held from now (R141). -/
def sendRngSet (s : State) (o : Op) (r : Recipe) (c t : Nat) : State :=
  let base := tget (s.slot r.slot).bases c 0
  let s := sendCq s c t (.rngSet o.id) [pack [(0, 4, 2), (8, 8, t), (64, 64, base)]]
  setRecipe { s with baseHeld := tset s.baseHeld c o.id } o { r with rngSent := r.rngSent ||| 2 ^ c }

/-- A recipe ahead in the order of R145 waits for the replay base of cluster c. -/
def baseWanted (s : State) (o : Op) (c : Nat) : Bool :=
  s.ops.any fun p => p.id ≠ o.id && keyBefore (recipeKey p) (recipeKey o) && match p.recipe? with
    | some r => r.dispatched && r.failed = 0 && rngAt s r c = some (nextStep r) && !bitOf r.rngSent c
    | none => false

/-- Launch step i, or send the RNG_SET it needs; none when neither can happen now. -/
def launchStep (s : State) (o : Op) (r : Recipe) (i : Nat) : Option State :=
  let c := (stepAt r i).cl
  if !r.dispatched || r.failed ≠ 0 || i ≠ nextStep r || r.body.steps.length ≤ i || r.temps ≠ [] || !copUp s c then none
  else
    match cqTagFree s c with
    | none => none
    | some t =>
      if needsRng s r i then if (tget s.baseHeld c 0) ≠ 0 || baseWanted s o c then none else some (sendRngSet s o r c t)
      else if stepReady s r i && ((stepAt r i).outunits = 0 || 0 < (RProg.at r.prog i).drawn) then
        let s := sendCq s c t (.launch o.id i) (launchWords s r i t)
        some (setRecipe s o (progSet { r with firstLaunch := if i = 0 then s.now else r.firstLaunch } i { RProg.at r.prog i with launched := true }))
      else none

/-- Every step is done and the whole charge drawn (R145 step 5). -/
def stepsDone (r : Recipe) : Bool :=
  r.dispatched && (List.range r.body.steps.length).all fun i => (RProg.at r.prog i).isDone && (RProg.at r.prog i).drawn = (stepAt r i).outunits

/-- The object a recipe produces (R148), its output address and length. -/
def producedBy (r : Recipe) : Nat := if r.declared then r.obj else r.succ
def outLen (s : State) (r : Recipe) : Nat := (s.obj (producedBy r)).rawlen

/-- The read-back of the output's last address, or the digest read of the whole output, starts (R148). -/
def startReading (s : State) (o : Op) (r : Recipe) : State :=
  let y := producedBy r
  let a := tqaOff r.outAddr
  let n := outLen s r
  let r := { r with reading := true }
  if tqaTier r.outAddr = 1 ∧ groupLost s 1 then failRecipe s o r 0x30 false
  else if !r.declared && checksDigest s r.obj then setRecipe s { o with x := { mkXfer [run (tqaTier r.outAddr) a n y] [] with free := true } } r
  else if tqaTier r.outAddr = 0 then setRecipe s { o with x := {} } r
  else
    let b : Burst := { op := o.id, wr := false, tier := 1, off := a + n - 64, idx := 0, len := 64, x := y, rb := true, again := true }
    flushRedo (setRecipe s { o with x := { redo := [b] } } r) o.id

/-- The lanes decode the next encoded input into its raw temporary (R170); with no decode lane the recipe ends and its object stays as it was (R166). -/
def startTemp (s : State) (o : Op) (r : Recipe) (h a : Nat) : State :=
  let i := s.obj (hIdx h)
  if !decUsable s then failRecipe s o r 0x31 true
  else setRecipe s { o with phase := .running, x := mkStream [run i.home (tqaOff i.homeaddr) i.storlen (hIdx h)] [run 1 (tqaOff a) i.rawlen (hIdx h)] } r

/-- A decoded input is in its temporary, or its decode failed (R170, Table 5.6). -/
def tempDone (s : State) (o : Op) (r : Recipe) : State :=
  match r.temps with
  | [] => s
  | (h, a) :: rest =>
    let i := hIdx h
    match (if o.x.srcBad then none else rawBytes s i) with
    | none => failRecipe (if o.x.srcBad then s else sieveCount s i) { o with x := {} } r 0x12 false
    | some b =>
      if o.x.bad ≠ 0 then failRecipe s { o with x := {} } r o.x.bad false
      else (setRecipe (decodeFor (s.storeP o.req.part a b) o.acct i) { o with x := {} } { r with temps := rest, made := r.made ++ [(h, a)] }).todo (.tryOp o.id)

/-- What a recipe asks for next. -/
def recipeCheck (s : State) (o : Op) (r : Recipe) : State :=
  if r.failed ≠ 0 then
    let s := if r.cancelled then s else setRecipe (sendCancels s o.id) o { r with cancelled := true }
    if launchesOf s o.id = [] ∧ quiet s o.id then recipeEnd s o r else s
  else if !r.dispatched then if o.phase = .waitSpace then dispatchRecipe s o r else s
  else
    match r.temps with
    | (h, a) :: _ => if o.x.wr = [] then startTemp s o r h a else issueReadBacks s o
    | [] => if stepsDone r ∧ !r.reading then startReading s o r else s

/-- RECIPE_DONE: the outcome of the read-back or digest read (R148). -/
def recipeRead (s : State) (o : Op) (r : Recipe) (res : RdRes) : State :=
  let p := o.req.part
  let bad := if o.x.srcBad then 0x12 else if o.x.bad ≠ 0 then o.x.bad else match res with
    | .ok => 0
    | .checkFail => 0x12
    | .portFault => 0x30
  if bad ≠ 0 then failRecipe s o r bad false
  else if !r.declared && checksDigest s r.obj && crc64 (rdP s p r.outAddr (outLen s r)) ≠ (s.obj r.obj).digest then
    let s := raiseEv (copAdd s p 1) p 7 0 [(0x05, handleOf s r.obj)]
    failRecipe s o r 0x14 false
  else recipeEnd s o r

/-- Recipes in dispatch on a cluster that is lost or failing end under row 2 of Table 5.6 (R151). -/
def failCluster (s : State) (c : Nat) : State :=
  s.ops.foldl (fun s o => match o.recipe? with
    | some r => if r.dispatched ∧ bitOf r.body.clmask c then failRecipe s o r 0x31 false else s
    | none => s) s

/-- PROTO counts a response that matches nothing (R146). -/
def copProtoErr (s : State) : State := { s with copProto := satAdd 32 s.copProto 1 }
def freeCqTag (s : State) (c t : Nat) : State := { s with cqTags := tdel s.cqTags (32 * c + t) }

/-- What an outstanding tag of a command port stands for (R147): none for a tag beyond 31. -/
def cqFind (s : State) (c t : Nat) : Option (Nat × CqTag × Nat) := if t < 32 then s.cqTags.find? fun e => e.1 = 32 * c + t else none

/-- A cluster's DONE (R147). STATUS 2 answers a CANCEL; any status but 0 and 2 is an error, as is a 2 that no CANCEL asked for. -/
def copDone (s : State) (c t status : Nat) : State :=
  let s := s.gadd (0x170 + 0x10 * c) 16
  match cqFind s c t with
  | some (_, .launch oid i, _) =>
    let s := freeCqTag s c t
    match s.op oid with
    | none => copRetry s c
    | some o =>
      match o.recipe? with
      | none => copRetry s c
      | some r =>
        let s :=
          if r.failed ≠ 0 then s.todo (.tryOp oid)
          else if status = 0 then
            let r := { progSet r i { RProg.at r.prog i with isDone := true } with lastDone := s.now }
            let last := (stepsOn r c).getLast? = some i
            let s := if last ∧ tget s.baseHeld c 0 = oid then { s with baseHeld := tdel s.baseHeld c } else s
            (setRecipe s o r).todo (.tryOp oid)
          else failCluster (copAdd s o.req.part 2) c
        copRetry s c
  | _ => copProtoErr s

/-- RNG_ACK (R147): the base is written. -/
def rngAcked (s : State) (c t : Nat) : State :=
  let s := s.gadd (0x170 + 0x10 * c) 16
  match cqFind s c t with
  | some (_, .rngSet oid, _) =>
    let s := freeCqTag s c t
    let s := match s.op oid with
      | some o => match o.kind with
        | .recipe r => (setRecipe s o { r with rngOk := r.rngOk ||| 2 ^ c }).todo (.tryOp oid)
        | .rngset x m snt acked => (s.setOp { o with kind := .rngset x m snt (acked ||| 2 ^ c) }).todo (.tryOp oid)
        | _ => s
      | none => s
    copRetry s c
  | _ => copProtoErr s

/-- A query is answered (R139). -/
def queryAnswered (s : State) (x c : Nat) (found lost : Bool) (base : Nat) : State :=
  let o := s.obj x
  if !o.sealAsked then s
  else
    let s := if found then let r := s.slot o.recipe; s.setSlot o.recipe { r with capmask := r.capmask ||| 2 ^ c, bases := tset r.bases c base } else s
    asked (s.modObj x fun v => { v with askMask := if bitOf v.askMask c then v.askMask - 2 ^ c else v.askMask, askLost := v.askLost || lost }) x

/-- RNG_DATA (R147, R139). -/
def rngDataIn (s : State) (c t : Nat) (found lost : Bool) (base : Nat) : State :=
  let s := s.gadd (0x170 + 0x10 * c) 16
  match cqFind s c t with
  | some (_, .query x, _) => copRetry (queryAnswered (freeCqTag s c t) x c found lost base) c
  | _ => copProtoErr s

/-- RNGSET: send RNG_SET to each cluster whose base is free, and complete when every one has acknowledged (R87). -/
def rngsetTry (s : State) (o : Op) (x m snt acked : Nat) : State :=
  if m ||| acked = acked then complete (s.delOp o.id) o.req {} true
  else if (List.range 8).any fun c => bitOf m c && !bitOf acked c && !copUp s c then complete (s.delOp o.id) o.req { status := 0x31 } true
  else
    let (s, snt) := (List.range 8).foldl (fun (acc : State × Nat) c =>
      let (s, snt) := acc
      if bitOf m c && !bitOf snt c && tget s.baseHeld c 0 = 0 then
        match cqTagFree s c with
        | some t => (sendCq s c t (.rngSet o.id) [pack [(0, 4, 2), (8, 8, t), (64, 64, tget (s.slot (s.obj x).recipe).bases c 0)]], snt ||| 2 ^ c)
        | none => (s, snt)
      else (s, snt)) (s, snt)
    s.setOp { o with kind := .rngset x m snt acked, issuedAny := o.issuedAny || snt ≠ 0 }

/-- A cluster's command port is lost (Table 10.4): its queries count as LOST, recipes in dispatch on it fail, RNGSETs that need it are tried again. Its tags stay outstanding until
the port reset ends (R147). -/
def copLost (s : State) (c : Nat) : State :=
  let xs := s.objs.filterMap fun e => if e.2.sealAsked && bitOf e.2.askMask c then some e.1 else none
  let s := { s with cqTags := s.cqTags.map fun (e : Nat × CqTag × Nat) => match e.2.1 with
    | .query _ => if e.1 / 32 = c then (e.1, CqTag.query 0, e.2.2) else e
    | _ => e }
  let s := xs.foldl (fun s x => queryAnswered s x c false true 0) s
  copRetry (failCluster s c) c

/-- The command port's reset is over: every tag of it is free (R147), and recipes that waited for their launches end (R151). -/
def copFreed (s : State) (c : Nat) : State :=
  let ls := s.cqTags.filterMap fun e => match e.2.1 with
    | .launch o _ => if e.1 / 32 = c then some o else none
    | _ => none
  let s := { s with cqTags := s.cqTags.filter fun (e : Nat × CqTag × Nat) => e.1 / 32 ≠ c }
  copRetry (ls.dedup.foldl (fun s o => s.todo (.tryOp o)) s) c

/-- STEP_TMO_MS in ns; 0 is read as 1 (Table 5.8). -/
def stepTmo (s : State) : Nat := max 1 (bitsOf (reg s 0x98000) 47 32) * 1000000

end Sys2Proof.Machine
end

