-- ==== Sys2Proof/Machine/Budget.lean ====
section
/-!
DEFINITION. The burst slot of a port group (R125 to R127), pacing of a burst (R196), address translation before a T3 burst (R276), the estimates and the decision at latest
start (R115 to R120).
-/

namespace Sys2Proof.Machine

/-- A candidate of a burst slot: a burst of an operation, or a 64-credit unit of a recipe step (R145). -/
structure Cand where
  o : Op
  b : Option Burst
  unit : Nat := 0
  credits : Nat
  deriving DecidableEq, Repr

/-- Credits of a burst (R122). -/
def creditsOf (n : Nat) : Nat := (n + 63) / 64

/-- The pacing line of a paced descriptor (absolute). -/
def paceLine (s : State) (o : Op) : Option Nat :=
  match o.kind with
  | .desc _ d _ _ => if d.pace then some (plBase s o.req.part + d.pline) else none
  | _ => none

/-- The request begins a burst: it is no write of a burst whose read has returned, none that is issued again, no page of an index. -/
def Burst.begins (o : Op) (b : Burst) : Bool := !b.again && !b.ax && !o.x.opens.any fun e => e.off = b.pos
/-- A paced burst may issue: it has the line's grant and no other burst of its operation is under way (R196). -/
def paceOk (s : State) (o : Op) (b : Burst) : Bool :=
  match paceLine s o with
  | none => true
  | some l => !b.begins o || ((s.line l).granted = some o.id && o.x.opens = [] && noTags s o.id)

/-- An indexed gather (Table 4.7). -/
def isIndexed (o : Op) : Bool := match o.kind with
  | .gather g => g.idx.isSome
  | _ => false

/-- Bursts without a deadline that a saturation response leaves to slack alone (Table 4.7). -/
def slackOnly (s : State) (o : Op) : Bool :=
  o.due.isNone && ((isIndexed o && (satBit s 1 || satBit s 2) && satResp s o.req.part 1) || ((o.cls = 5 || o.cls = 6) && satBit s 4 && satResp s o.req.part 3))

/-- The first candidate in an order given by a test. -/
def firstBy (before : Cand → Cand → Bool) : List Cand → Option Cand
  | [] => none
  | c :: r => some (r.foldl (fun m d => if before d m then d else m) c)

def candBefore (a b : Cand) : Bool := edfBefore (edfKey a.o) (edfKey b.o)

/-- Round robin over partitions after position rr, then class, then acceptance. -/
def rrBefore (rr : Nat) (a b : Cand) : Bool :=
  let k := fun (c : Cand) => (c.o.req.part + 15 - rr) % 16
  k a < k b || (k a = k b && (a.o.cls < b.o.cls || (a.o.cls = b.o.cls && a.o.id < b.o.id)))

/-- How a burst is paid for. -/
inductive Pay
  | free | paid | reserve | slack
  deriving DecidableEq, Repr

/-- choose(g) of R127. A burst that is charged to no class goes first. -/
def Cand.isFree (c : Cand) : Bool := c.o.x.free || c.b.any fun b => b.again
def choose (s : State) (g : Nat) (cs : List Cand) : Option (Cand × Pay) :=
  let gr := s.group g
  let bal := fun (c : Cand) => 1 ≤ balance s c.o.req.part c.o.cls
  let res := fun (c : Cand) => rtMode s c.o.req.part && c.credits ≤ gr.resLeft
  match cs.find? Cand.isFree with
  | some c => some (c, .free)
  | none =>
    match firstBy candBefore (cs.filter fun c => c.o.due.isSome && (bal c || res c)) with
    | some c => some (c, if bal c then .paid else .reserve)
    | none =>
      match firstBy (rrBefore gr.rrPaid) (cs.filter fun c => c.o.due.isNone && bal c && !slackOnly s c.o) with
      | some c => some (c, .paid)
      | none =>
        match firstBy (rrBefore gr.rrSlack) (cs.filter fun c => slackOn s c.o.req.part) with
        | some c => if gr.used + c.credits + gr.resLeft ≤ groupCeil s g then some (c, .slack) else none
        | none => none

/-- Charge a burst (R123, R126, R127). -/
def charge (s : State) (g : Nat) (c : Cand) (how : Pay) : State :=
  let gr := s.group g
  let p := c.o.req.part
  let k := c.o.cls
  let gr := { gr with used := gr.used + c.credits }
  let gr := match how with
    | .reserve => { gr with resLeft := gr.resLeft - c.credits }
    | .paid => if c.o.due.isNone then { gr with rrPaid := p } else gr
    | .slack => { gr with rrSlack := p }
    | .free => gr
  let s := match c.o.acct with
    | some i => s.cadd i (0x40 + 8 * k) c.credits
    | none => s
  let s := (s.setGroup g gr).modPart p fun v => { v with issuedNow := tset v.issuedNow k (tget v.issuedNow k 0 + c.credits) }
  if how = .paid then s.modPart p fun v => { v with bal := tset v.bal k (tget v.bal k 0 - c.credits) } else s

/-- A move that waits for its start under R115: a promotion with a known D whose source is not T0. -/
def awaitsStart (s : State) (o : Op) : Bool :=
  match o.kind with
  | .move x _ _ false => o.due.isSome && (s.obj x).home ≠ 0 && (o.phase = .queued || o.phase = .waitSpace)
  | _ => false

def srcGroup (s : State) (o : Op) : Nat := match o.kind with
  | .move x _ _ _ => groupOf (s.obj x).home
  | _ => 4

/-- The first moment of R115: the earliest unstarted deadline move of its source's group, with a class that may issue: the test is made for a burst of 4 KiB, 64 credits, which every move begins with (log entry 150). -/
def startsEarly (s : State) (o : Op) : Bool :=
  let g := srcGroup s o
  s.ops.all (fun p => p.id = o.id || !awaitsStart s p || srcGroup s p ≠ g || edfBefore (edfKey o) (edfKey p)) && mayIssue s o.req.part 0 g 64 true

/-- Raw bytes that a running operation still has to have decoded in the lanes: of a move, of a comparison, of inputs on their way into raw temporaries (R116, R163, R170). -/
def decodeLeft (s : State) (o : Op) : Nat := if o.phase = .running then decTotal s o - decDone s o + laterTemps s o else 0
where
  laterTemps (s : State) (o : Op) : Nat := match o.recipe? with
    | some r => ((r.temps.drop 1).map fun e => (s.obj (hIdx e.1)).rawlen).foldl (· + ·) 0
    | none => 0

/-- The wait for budget that a best-effort partition adds (Table 4.2); none stands for infinite. -/
def budgetWait (s : State) (p : Nat) : Option Nat :=
  let bal := balance s p 0
  let cr := (budEntry s p (s.part p).budActive 0).1
  if rtMode s p ∨ 1 ≤ bal then some 0
  else if cr ≠ 0 then some (((1 - bal).toNat + cr - 1) / cr * 1024)
  else if slackOn s p then some 0 else none

/-- Bytes on a group that an operation with a deadline has yet to issue (R116): of its transfer, of a move that has not started, of a recipe's charge (R145). -/
def heldBytes (s : State) (o : Op) (g : Nat) : Nat :=
  let units := match o.recipe? with
    | some r => if g = 0 then 4096 * (((List.range r.body.steps.length).map fun i => (stepAt r i).outunits - (RProg.at r.prog i).drawn).foldl (· + ·) 0 + if r.dispatched then 0 else ((s.slot r.slot).steps.map fun t => t.outunits).foldl (· + ·) 0) else 0
    | none => 0
  let at_ := fun (x n : Nat) => if groupOf (s.obj x).home = g then n else 0
  units + if o.phase = .running then restBytes o g
    else if o.phase = .queued ∨ o.phase = .waitSpace then
      match o.kind with
      | .move y t f _ => at_ y (s.obj y).storlen + if groupOf t = g then formSize (s.obj y) f else 0
      | .xsend v => at_ v.x (s.obj v.x).storlen
      | .gather v => at_ v.m (s.obj v.m).storlen
      | .tstream v => at_ v.x (s.obj v.x).storlen
      | _ => 0
    else 0

/-- C_live of R116; none stands for infinite. -/
def cLive (s : State) (o : Op) (x : Nat) (f : Form) : Option Nat :=
  let ob := s.obj x
  let g := groupOf ob.home
  let qg := (s.ops.map fun p => openBytes s p g + if p.id ≠ o.id ∧ p.due.isSome ∧ edfBefore (edfKey p) (edfKey o) then heldBytes s p g else 0).foldl (· + ·) 0
  let qdec := (s.ops.map (decodeLeft s)).foldl (· + ·) 0
  let rd := if ob.form = .enc ∧ f = .raw then ob.rawlen else 0
  if ob.home = 3 ∧ s.hostl.detached then none
  else (budgetWait s o.req.part).map fun w => s.now + estTfix s ob.home + max (portTime s ob.home (qg + ob.storlen)) (decTime s (qdec + rd)) + w

/-- A predicted miss (R118, Table 4.2). -/
def predictedMiss (s : State) (o : Op) (x : Nat) : State :=
  let p := o.req.part
  let s := match o.acct with
    | some c => (dlAdd s p 2).cadd c 0x30 1
    | none => dlAdd s p 2
  if rtMode s p then raiseEv s p 1 (partyNum o.req.who) [(0x20, handleOf s x)] else s

/-- A decision that finds COPPICE set and the object's slot not valid for it moves the counter of R135. -/
def substCount (s : State) (o : Op) (x : Nat) : State := if o.req.opcode = 0x14 then slotCount s x else s

/-- `substitutable` of R118 for a waiting FETCH. -/
def substitutable (s : State) (o : Op) (x : Nat) : Bool := o.req.opcode = 0x14 && canSubst s x && mayIssue s o.req.part 2 0 64 true

/-- A waiting move is turned into a substitution (R118, R120). -/
def substitute (s : State) (o : Op) (x tier : Nat) (f : Form) : State :=
  startRegen (dlAdd s o.req.part 0) x o true (recipeCost s x o.due) tier (f = .enc)

/-- decide_at_latest_start of R118. -/
def decideStart (s : State) (o : Op) (x t : Nat) (f : Form) : State :=
  let d := o.due.getD 0
  let c := cLive s o x f
  let o := { o with decided := true }
  let inTime : Bool := match c with
    | some c => c ≤ d
    | none => false
  if (s.obj x).st ≠ .resident ∨ inTime then tryMove s o x t f false
  else
    let better : Bool := match recipeCost s x o.due, c with
      | some k, some c => s.now + k < c
      | some _, none => true
      | none, _ => false
    let s := substCount s o x
    if substitutable s o x ∧ better then substitute s o x t f
    else predictedMiss (tryMove s o x t f false) o x

/-- A deadline move is looked at (R115): it starts early, is decided at its L, or keeps waiting; one that waits for its space has not started, and is decided at its L like any
other. One whose object is on its way to the same tier merges (R119). -/
def startCheck (s : State) (o : Op) (x t : Nat) (f : Form) : State :=
  let ob := s.obj x
  if ob.st = .resident then
    if o.decided then tryMove s o x t f false
    else if o.lstart ≤ s.now then decideStart s o x t f
    else if o.phase = .waitSpace ∨ startsEarly s o then tryMove s o x t f false
    else s
  else if ob.st = .inTransit ∧ ob.dest ≠ t then s
  else tryMove s o x t f false

end Sys2Proof.Machine
end

