-- ==== Sys2Proof/Machine/Packets.lean ====
section
/-!
DEFINITION. Jobs (R242) and outbound peer packets: streams, sequence numbers, replay (R248 to R253). The layouts the spec leaves open are those of log entry 8.
-/

namespace Sys2Proof.Machine

def jobCfg (s : State) (p : Nat) : Nat := reg s (0xB3500 + 8 * p)
def jobValid (s : State) (p : Nat) : Bool := bitOf (jobCfg s p) 48
def myCarrier (s : State) (p : Nat) : Nat := bitsOf (jobCfg s p) 15 0
def jobSize (s : State) (p : Nat) : Nat := bitsOf (jobCfg s p) 31 16 + 1
def jobTag (s : State) (p : Nat) : Nat := bitsOf (jobCfg s p) 47 32
/-- A carrier number inside the partition's job. -/
def inJob (s : State) (p k : Nat) : Bool := jobValid s p && k < jobSize s p
/-- The valid partition that a JOBTAG belongs to. -/
def tagPart (s : State) (tag : Nat) : Option Nat := (List.range 16).find? fun p => jobValid s p && jobTag s p = tag

/-- PRG_PEER_COUNT word i (Table 9.5). -/
def peerCount (s : State) (i n : Nat) : State := { s with peerCnt := tset s.peerCnt i (satAdd 64 (tget s.peerCnt i 0) n) }

def replayNs (s : State) : Nat := max 1 (bitsOf (reg s 0xB3580) 15 0) * 1000
def retryMax (s : State) : Nat := max 1 (bitsOf (reg s 0xB3580) 23 16)

/-- Packet types with names (Table 9.3). -/
def pHello : Nat := 0x01
def pAck : Nat := 0x02
def pNak : Nat := 0x03
def pToken : Nat := 0x10
def pVerify : Nat := 0x11
def pVreply : Nat := 0x12
def pRelease : Nat := 0x13
def pDecline : Nat := 0x14
def pShardreq : Nat := 0x20
def pXnotice : Nat := 0x21
def pCnotice : Nat := 0x22
def pData : Nat := 0x30
def pRdone : Nat := 0x31
/-- The class a type travels in: 0 control, 1 request, 2 data. -/
def pktClass (typ : Nat) : Nat := if typ < 0x20 then 0 else if typ < 0x30 then 1 else 2
def isHawthorn (typ : Nat) : Bool := 0x10 ≤ typ && typ ≤ 0x13

/-- IDs of DATA, SHARDREQ and RDONE: a traffic group, or a channel marked by bit 16 (log entry 8). -/
def idChan (ch : Nat) : Nat := 0x10000 + ch

/-- One packet leaves on PP (R268, R346): a WR request with a tag, bytes and packets counted, traced where R346 asks for it. -/
def txNow (s : State) (p dst typ cls n bytes : Nat) : State :=
    let s := { s with tags := s.tags ++ [({ port := 22, tag := (freeTag s 22 true).getD 0, wr := true, op := 0, bytes := bytes, time := s.now } : Tag)] }
    let s := (s.gadd 0x168 bytes).gadd 0x240 1
    let shift := bitsOf (reg s (0xB9200 + 0x10 * p + 8)) 15 12
    if isHawthorn typ ∨ (typ ≠ pHello ∧ typ ≠ pAck ∧ typ ≠ pNak ∧ n % 2 ^ shift = 0) then trace s p 11 6 .none .none (dst + cls * 65536) n typ
    else s

/-- A packet goes out as soon as PP has a tag for it (R261). -/
def txPkt (s : State) (p dst typ cls n bytes : Nat) : State :=
  if !isLive s 22 then s
  else if portFull s 22 true ∨ s.txq ≠ [] then { s with txq := s.txq ++ [⟨p, dst, typ, cls, n, bytes⟩] }
  else txNow s p dst typ cls n bytes
/-- Packets that waited for a tag go out, oldest first. -/
def drainTx : List TxPkt → State → State
  | [], s => { s with txq := [] }
  | k :: l, s => if portFull s 22 true ∨ !isLive s 22 then { s with txq := k :: l } else drainTx l (txNow s k.p k.dst k.typ k.cls k.n k.bytes)

/-- Bytes that arrive at the peer port for an operation are charged to its class (R214, R221, R231; log entry 151). -/
def chargeIn (s : State) (p k n : Nat) (acct : Option Nat) : State :=
  let c := creditsOf n
  let s := match acct with
    | some i => s.cadd i (0x40 + 8 * k) c
    | none => s
  s.modPart p fun v => { v with issuedNow := tset v.issuedNow k (tget v.issuedNow k 0 + c), bal := tset v.bal k (max (-63) (tget v.bal k 0 - c)) }

/-- Bytes of a packet with a payload of n bytes. -/
def pktBytes (n : Nat) : Nat := 32 + roundUp n 64

/-- HELLO opens the streams with a carrier (R253). -/
def sendHello (s : State) (p dst : Nat) : State := txPkt (s.setPeer dst { s.peer dst with hello := true }) p dst pHello 0 0 (pktBytes 64)

/-- The stream can take one more packet: at most 2^22 unacknowledged (R249). -/
def streamRoom (s : State) (dst cls : Nat) : Bool := (s.stream dst cls).unacked.length < 2 ^ 22

/-- A sequenced packet joins its stream's replay buffer and takes its number, or waits at the cap (R249). -/
def queuePkt (s : State) (k : OutPkt) : State × Option Nat :=
  let cls := pktClass k.typ
  let t := s.stream k.dst cls
  if streamRoom s k.dst cls && t.stalled = [] then
    (s.setStream k.dst cls { t with txNext := (t.txNext + 1) % 2 ^ 24, unacked := t.unacked ++ [{ k with seq := t.txNext }], progress := if t.unacked = [] then s.now else t.progress }, some t.txNext)
  else (s.setStream k.dst cls { t with stalled := t.stalled ++ [k] }, none)

/-- Bytes a packet of a stream has: control packets carry 64 bytes or none, data what its length field says. -/
def outBytes (k : OutPkt) : Nat :=
  if k.typ = pData then pktBytes (k.pay.headD 0) else if k.typ = pDecline ∨ k.typ = pRdone then 32 else pktBytes 64

/-- A sequenced packet is sent, once its streams are open (R249, R253); one to a carrier that is DOWN or refused is dropped (R251). -/
def sendPkt (s : State) (p dst typ id arg : Nat) (pay : List Nat) (bytes : Nat) : State :=
  if (s.peer dst).refused ∨ (s.peer dst).down then s
  else
    let (s, n) := queuePkt s { typ := typ, dst := dst, jobtag := jobTag s p, id := id, arg := arg, pay := pay }
    if (s.peer dst).opened then match n with
      | some n => txPkt s p dst typ (pktClass typ) n (pktBytes bytes)
      | none => s
    else if (s.peer dst).hello then s
    else sendHello s p dst

/-- Resend a stream's packets from a sequence number on (R251). -/
def resendFrom (s : State) (dst cls fromSeq : Nat) : State :=
  let t := s.stream dst cls
  let l := t.unacked.filter fun k => (k.seq + 2 ^ 24 - fromSeq) % 2 ^ 24 < 2 ^ 23
  let p := fun (k : OutPkt) => (tagPart s k.jobtag).getD 0
  l.foldl (fun s k => txPkt s (p k) dst k.typ cls k.seq (outBytes k)) (peerCount s 2 l.length)

/-- Packets that waited at the cap take their numbers and go out (R249). -/
def unstall : List OutPkt → State → Nat → Nat → State
  | [], s, _, _ => s
  | k :: l, s, dst, cls =>
    if streamRoom s dst cls then
      let t := s.stream dst cls
      let s := s.setStream dst cls { t with txNext := (t.txNext + 1) % 2 ^ 24, unacked := t.unacked ++ [{ k with seq := t.txNext }], stalled := l }
      unstall l (if (s.peer dst).opened then txPkt s ((tagPart s k.jobtag).getD 0) dst k.typ cls t.txNext (outBytes k) else s) dst cls
    else s

/-- An acknowledgement: everything before seq has arrived (R249). -/
def ackStream (s : State) (k cls seq : Nat) : State :=
  let t := s.stream k cls
  let left := t.unacked.filter fun q => (q.seq + 2 ^ 24 - seq) % 2 ^ 24 < 2 ^ 23
  if left.length < t.unacked.length then unstall t.stalled (s.setStream k cls { t with unacked := left, resends := 0, progress := s.now }) k cls else s

/-- Payload bytes a packet holds under a packet version (R248). -/
def dataMax (ver : Nat) : Nat := if ver ≤ 1 then 1024 else 4096
/-- The run of n bytes that go to a carrier: one packet, and one request at PP, for each burst (R248, R268). -/
def peerSeg (s : State) (dst n : Nat) : Seg := { tier := 5, addr := 0, len := n, cap := dataMax (s.peer dst).ver }

/-- Operations with traffic to a carrier: the peers they name, as long as something is still to come or go (R214, R251). -/
def opPeers (s : State) (o : Op) : List Nat :=
  match o.kind with
  | .gather g => (g.asked.filter fun e => !g.got.contains e.1).map fun e => e.2.1
  | .serve _ d _ _ => [d]
  | .xsend x => if x.peer = myCarrier s o.req.part then [] else [x.peer]
  | .xrecv x => [x.peer]
  | .contrib c => if c.src.isSome then [] else [c.sender]
  | _ => []

/-- An ACK packet for what a stream has received (R250). -/
def sendAck (s : State) (p k cls : Nat) : State := txPkt s p k pAck cls 0 32

/-- A NAK with the expected SEQ; BUSY when the rendezvous store is full (R250, R252). -/
def sendNak (s : State) (p k cls : Nat) (busy : Bool) : State :=
  let t := s.stream k cls
  txPkt ((peerCount s 3 1).setStream k cls { t with nakSent := true, busyNak := t.busyNak || busy }) p k pNak cls 0 32

end Sys2Proof.Machine
end

