-- ==== Sys2Proof/Machine/Sync.lean ====
section
/-!
DEFINITION. Semaphores (R236 to R239) and handle rings (R240, R241).
-/

namespace Sys2Proof.Machine

/-- The last four distinct parties, newest first (R254). -/
def lastFour (l : List Party) (p : Party) : List Party := if p = .none then l else (p :: l.filter fun q => q ≠ p).take 4

/-- Entries of the waiter store in use (R238). -/
def waiterCount (s : State) : Nat := (s.sems.map fun e => e.2.q.length).foldl (· + ·) 0
def storeFull (s : State) : Bool := 32768 ≤ waiterCount s + s.storeq.length
/-- An entry has come free for a context that waits for one, in the order of the waits; each such context is looked at again. -/
def storeTurn (s : State) (c : Nat) : Bool := s.storeq.contains c && waiterCount s + (s.storeq.takeWhile fun d => d ≠ c).length < 32768
/-- A consumer of context c cannot join a queue now: no entry is free, or those that are belong to contexts that wait already. -/
def storeWaits (s : State) (c : Nat) : Bool := storeFull s && !storeTurn s c
def storeJoin (s : State) (c : Nat) : State := if s.storeq.contains c then s else { s with storeq := s.storeq ++ [c] }
def storeLeave (s : State) (c : Nat) : State := { s with storeq := s.storeq.filter fun d => d ≠ c }
def storeWake (s : State) : State := (s.storeq.take (32768 - waiterCount s)).foldl (fun s c => s.todo (.retryCtx c)) s

/-- A WAIT completes: RESULT is the semaphore's value, or the ring's occupancy (R98). -/
def waitDone (s : State) (c : Nat) (by_ : Party) (handle result : Nat) : State :=
  match (s.ctx c).waiting with
  | some r => (complete (retireWait s c 16 by_) r { handle := handle, result := result } false).todo (.ctxCheck c)
  | none => s

/-- Serve a semaphore's queue from its head (R237). `n` bounds the consumers served. `by_` is the party whose addition serves them. -/
def serveSem : Nat → State → Nat → Party → State
  | 0, s, _, _ => s
  | f + 1, s, n, by_ =>
    let m := s.sem n
    match m.q with
    | [] => s
    | w :: q =>
      let amt := match w with
        | .ctx _ a => a
        | .sealing _ a => a
      if amt ≤ m.val then
        let s := s.setSem n { m with val := m.val - amt, q := q }
        let s := match w with
          | .ctx c _ => waitDone s c by_ 0 (m.val - amt)
          | .sealing x _ => s.todo (.sealing x)
        serveSem f s n by_
      else
        let blocked := q.any fun v => (match v with
          | .ctx _ a => a
          | .sealing _ a => a) ≤ m.val
        if blocked then s.setSem n { m with hol := true } else s

/-- An addition (R236), then the service of the queue, and of the contexts that wait for an entry of the store (R238). An amount of 0 only serves. -/
def semAddTo (s : State) (n amt : Nat) (who : Party) : State :=
  let m := s.sem n
  let v := m.val + amt
  let ovf := 0xFFFF < v
  let p := (semOwner s n).getD 0
  let s := s.setSem n { m with val := min v 0xFFFF, sat := m.sat || ovf, sig := if amt = 0 then m.sig else lastFour m.sig who }
  let s := if ovf ∧ !m.sat then raiseEv s p 10 n [(0x24, 0)] else s
  let s := if amt = 0 then s else trace s p 8 3 who .none n 0 (min v 0xFFFF)
  storeWake (serveSem 32769 s n who)

/-- A consumer joins the tail of a semaphore's queue, which is then served. -/
def joinSem (s : State) (n : Nat) (w : SemWaiter) : State :=
  let m := s.sem n
  serveSem 32769 (s.setSem n { m with q := m.q ++ [w] }) n .none

/-- A ring's depth (0: not configured), first entry of the ring store, occupancy (R240). -/
def ringDepth (r : Ring) : Nat := let l := bitsOf r.cfg 3 0; if l = 0 ∨ 10 < l then 0 else 2 ^ l
def ringStart (r : Ring) : Nat := bitsOf r.cfg 31 16
def ringCount' (r : Ring) : Nat := (r.tail + 65536 - r.head) % 65536

/-- Put a handle into a ring that has room. -/
def ringPut (s : State) (n h : Nat) : State :=
  let r := s.ring n
  let s := { s with ringStore := tset s.ringStore (ringStart r + r.tail % ringDepth r) h }
  s.setRing n { r with tail := (r.tail + 1) % 65536 }

/-- A popped handle reaches the party that waited for it (R98, R200). -/
def giveHandle (s : State) (who : Party) (n h : Nat) (by_ : Party) : State :=
  match who with
  | .ctx c =>
    match (s.ctx c).waiting with
    | some r => waitDone (setG s c r.gdst h) c by_ h (ringCount' (s.ring n))
    | none => s
  | .chan ch => (s.modChan ch fun v => { v with popped := some h, st := if v.st = 2 then 1 else v.st }).todo (.chanCheck ch)
  | _ => s

/-- A push that a waiting pop, a free entry, or the push queue takes (R241). The Bool says whether it took effect now. `op` is the held operation it belongs to, some 0 for an
RPUSH; none for a context that blocks. -/
def ringPush (s : State) (n h : Nat) (who : Party) (op : Option Nat) : State × Bool :=
  let r := s.ring n
  let r := { r with pushers := lastFour r.pushers who }
  let p := (ringOwner s n).getD 0
  match r.popq with
  | w :: q =>
    let s := s.setRing n { r with popq := q, poppers := lastFour r.poppers w }
    (trace (giveHandle s w n h who) p 9 3 who .none n 0 (ringCount' (s.ring n)), true)
  | [] =>
    if ringCount' r < ringDepth r then
      let s := ringPut (s.setRing n r) n h
      (trace s p 9 3 who .none n 0 (ringCount' (s.ring n)), true)
    else (s.setRing n { r with pushq := r.pushq ++ [⟨h, who, op⟩] }, false)

/-- Pushes waiting in the sync unit (R201, PRG_MOV_PENDING): those of no blocked context. -/
def pushesWaiting (s : State) : Nat := (s.rings.map fun e => (e.2.pushq.filter fun p => p.op.isSome).length).foldl (· + ·) 0

/-- The oldest waiting push enters the ring (R241); what it belonged to is told. -/
def servePush (s : State) (n : Nat) : State :=
  let r := s.ring n
  match r.pushq with
  | [] => s
  | p :: q =>
    let s := ringPut (s.setRing n { r with pushq := q }) n p.hdl
    let s := trace s ((ringOwner s n).getD 0) 9 3 p.who .none n 0 (ringCount' (s.ring n))
    match p.who, p.op with
    | .ctx c, none => waitDone s c .none 0 (ringCount' (s.ring n))
    | _, some o => if o = 0 then s else s.todo (.tryOp o)
    | _, none => s

/-- Pop the oldest handle of a ring, or join its pop queue (R241). -/
def ringPop (s : State) (n : Nat) (who : Party) : Option Nat × State :=
  let r := s.ring n
  if ringCount' r = 0 then (none, s.setRing n { r with popq := r.popq ++ [who] })
  else
    let h := tget s.ringStore (ringStart r + r.head % ringDepth r) 0
    (some h, servePush (s.setRing n { r with head := (r.head + 1) % 65536, poppers := lastFour r.poppers who }) n)

end Sys2Proof.Machine
end

