-- ==== Sys2Proof/Machine/Traffic.lean ====
section
/-!
DEFINITION. What the traffic operations share (chapter 8): traffic groups and members (R210, R211, R234), holds, share counters (R178), the non-finite flags (R219, R343), the
end of an operation.
-/

namespace Sys2Proof.Machine

/-- Fields of a traffic group (Table 8.5). -/
def TGrp.valid (g : TGrp) : Bool := bitOf g.w0 0
def TGrp.kind (g : TGrp) : Nat := bitsOf g.w0 1 1
def TGrp.placed (g : TGrp) : Bool := bitOf g.w0 2
def TGrp.part (g : TGrp) : Nat := bitsOf g.w0 11 8
def TGrp.cfmt (g : TGrp) : Nat := bitsOf g.w0 15 12
def TGrp.gfmt (g : TGrp) : Nat := bitsOf g.w0 19 16
def TGrp.count (g : TGrp) : Nat := bitsOf g.w0 47 32 + 1
def TGrp.rank (g : TGrp) : Nat := bitsOf g.w0 63 48
def TGrp.shards (g : TGrp) : Nat := bitsOf g.w1 15 0 + 1
def TGrp.shardLen (g : TGrp) : Nat := bitsOf g.w2 47 0
/-- Elements of a shard, N_s of R213. -/
def TGrp.elems (g : TGrp) : Nat := g.shardLen / 4

/-- The group is configured for a partition and an instruction (R210). -/
def grpFor (s : State) (p kind g : Nat) : Bool := let t := s.tgrp g; g < 1024 && t.valid && t.part = p && t.kind = kind

/-- A member table entry (Table 8.1). -/
structure Member where
  carrier : Nat
  shard : Nat
  domain : Nat
  deriving DecidableEq, Repr

def memberAt (s : State) (t : TGrp) (i : Nat) : Member :=
  let w := rdNumP s t.part (t.w3 + 8 * i) 8
  ⟨bitsOf w 15 0, bitsOf w 31 16, bitsOf w 39 32⟩
def members (s : State) (t : TGrp) : List Member := (List.range t.count).map (memberAt s t)
/-- This carrier's entry. -/
def ownMember (s : State) (t : TGrp) : Member := memberAt s t t.rank

/-- The placement of R234: replicas of a shard share a domain, and a domain holds one shard. -/
def placeOk (l : List Member) : Bool := l.all fun a => l.all fun b => (a.shard = b.shard) == (a.domain = b.domain)

/-- The first check of R211 that a group fails; 0 when it passes. `fault` tells that the read of the member table met a fault. -/
def grpErr (s : State) (t : TGrp) (fault : Bool) : Nat :=
  let okFields := t.rank < t.count && t.shards ≤ t.count &&
    (if t.kind = 0 then 0 < t.shardLen && t.shardLen % 4096 = 0
     else t.shards = 1 && !t.placed && [0, 1, 4, 5, 8].contains t.cfmt && [4, 5, 8].contains t.gfmt)
  if !okFields then 1
  else if fault || tqaTier t.w3 ≠ 1 || t.w3 % 8 ≠ 0 || !inWindow s t.part t.w3 (8 * t.count) then 2
  else
    let l := members s t
    if !jobValid s t.part || (ownMember s t).carrier ≠ myCarrier s t.part || !l.all fun m => inJob s t.part m.carrier then 3
    else if t.kind = 0 && !(l.all (fun m => m.shard < t.shards) && (List.range t.shards).all fun k => l.any fun m => m.shard = k) then 4
    else if t.placed && !placeOk l then 5
    else 0

/-- A GATHER or a LAND is in flight on a group (R210). -/
def gatherOn (s : State) (g : Nat) : Option (Op × GatherOp) :=
  s.ops.findSome? fun o => match o.kind with
    | .gather v => if v.grp = g then some (o, v) else none
    | _ => none
def landOn (s : State) (g : Nat) : Option (Op × LandOp) :=
  s.ops.findSome? fun o => match o.kind with
    | .land v => if v.grp = g then some (o, v) else none
    | _ => none

/-- An object is held as R144 holds a recipe input, and released. -/
def hold (s : State) (x : Nat) : State := s.modObj x fun o => { o with holds := o.holds + 1 }
def unhold (s : State) (x : Nat) : State := (s.modObj x fun o => { o with holds := o.holds - 1 }).todo (.objLeft x)
def holdAll (s : State) (l : List Nat) : State := l.foldl hold s
def unholdAll (s : State) (l : List Nat) : State := l.foldl unhold s

/-- The run of an object's stored bytes at its home. -/
def homeSeg (s : State) (x : Nat) : Seg := let o := s.obj x; run o.home (tqaOff o.homeaddr) o.storlen x
/-- A part of an object's home. -/
def partSeg (s : State) (x off len : Nat) : Seg := let o := s.obj x; { run o.home (tqaOff o.homeaddr + off) len x with i0 := off / 4096 }

/-- Bytes of an object's home. -/
def objBytes (s : State) (x off n : Nat) : List Byte := let o := s.obj x; rdP s o.part (o.homeaddr + off) n
def putObj (s : State) (x off : Nat) (bs : List Byte) : State := let o := s.obj x; s.storeP o.part (o.homeaddr + off) bs

/-- Counts of one quantization: the partition's totals, and the entry of the (handle, format) pair while the table has room (R178, log entry 22). -/
def countShare (s : State) (p fmt h : Nat) (t : Tally) : State :=
  if t.elems = 0 then s
  else
    let add := fun (m : Tbl Nat) (i n : Nat) => let k := (p * 16 + fmt) * 4 + i; tset m k (satAdd 64 (tget m k 0) n)
    let s := { s with shareTot := add (add (add (add s.shareTot 0 t.elems) 1 t.ovf) 2 t.unf) 3 t.nonfin }
    let bump := fun (e : Share) => { e with elems := satAdd 64 e.elems t.elems, ovf := satAdd 64 e.ovf t.ovf, unf := satAdd 64 e.unf t.unf, nonfin := satAdd 64 e.nonfin t.nonfin }
    match s.shares.find? fun e => e.2.hdl = h && e.2.fmt = fmt with
    | some e => { s with shares := tset s.shares e.1 (bump e.2) }
    | none =>
      match (List.range (min 2048 (s.shares.length + 1))).find? fun i => !s.shares.any fun e => e.1 = i with
      | some i => { s with shares := tset s.shares i (bump { hdl := h, fmt := fmt, part := p }) }
      | none => s.modPart p fun v => { v with shareFull := satAdd 64 v.shareFull 1 }

/-- LAND met n non-finite elements of a step (R219): the flag, the count, and the event when the flag was clear (R343). -/
def markNonfin (s : State) (p grp step n : Nat) : State :=
  if n = 0 then s
  else
    let v := s.part p
    let s' := s.setPart p { v with nf := v.nf ||| 2 ^ (step % 4), nfCount := satAdd 32 v.nfCount n }
    if bitOf v.nf (step % 4) then s' else raiseEv s' p 11 grp [(0x12, step % 2 ^ 32)]

/-- n free values are used. -/
def State.ticks (s : State) (n : Nat) : State := { s with free := s.free + n }

/-- Bytes of an object that an operation has written in part when it ends early: nobody says what they hold (log entry 25). -/
def scrub (s : State) (x off n : Nat) : State := (putObj s x off ((List.range n).map fun i => Config.errData (s.free + i))).ticks n

/-- Half of an XCHG with both directions has ended (R232). -/
def tellHalf (s : State) (par half : Nat) (res : Res) : State :=
  match s.op par with
  | some q =>
    match q.kind with
    | .xboth a b ra rb =>
      let r := some (res.status, res.result)
      (s.setOp { q with kind := .xboth a b (if half = a then r else ra) (if half = b then r else rb) }).todo (.tryOp par)
    | _ => s
  | none => s

/-- The operation ends: it leaves those in flight and its record is due, or its parent is told. -/
def endOp (s : State) (o : Op) (res : Res) : State :=
  let s := s.delOp o.id
  let s := match o.par with
    | some p => tellHalf s p o.id res
    | none => (o.req :: o.more).foldl (fun s r => complete s r res true) s
  wakeOf s o

/-- The operation is to end with a status; it ends when what it has issued has finished. -/
def stopOp (s : State) (o : Op) (status : Nat) : State :=
  if o.phase = .ending then s else (s.setOp { o with phase := .ending, endStatus := status }).todo (.tryOp o.id)

/-- Space of a BOUND product is given back and the object is DECLARED again (log entry 21). -/
def unbind (s : State) (x : Nat) : State :=
  (stockpotMark (s.modObj x fun v => { v with st := .declared, home := 0, homeaddr := 0, resv := 0, storlen := 0 })).todo (.objLeft x)

/-- A DECLARED product object takes its space in a tier at an address and is held as BOUND while it is made (R80, R89). -/
def bindAt (s : State) (x t a n : Nat) : State :=
  stockpotMark (s.modObj x fun v => { v with st := .bound, home := t, homeaddr := tqa t a, resv := n, storlen := n, form := .raw })

/-- The product is complete: RESIDENT under a disposition code, touched. -/
def makeResident (s : State) (x disp : Nat) : State :=
  ((touch (s.modObj x fun v => { v with st := .resident, disp := disp }) x).todo (.objLeft x)).todo (.tap x)

/-- The requests that the rendezvous store holds (R212). -/
def rdvFull (s : State) : Bool := 4096 ≤ s.rdv.length
def addRdv (s : State) (r : Rdv) : State := { s with rdv := s.rdv ++ [r] }
/-- A request leaves the store; contributions to the own carrier that found it full are announced (R212). -/
def dropRdv (s : State) (r : Rdv) : State :=
  s.ops.foldl (fun s o => match o.kind with
    | .xsend v => if v.told then s else s.todo (.tryOp o.id)
    | _ => s) { s with rdv := s.rdv.erase r }

/-- The n-th use of a channel with a carrier: sends and receives are counted apart (R231). `dir` is 0 for sends. -/
def xKey (p dir k ch : Nat) : Nat := ((p * 2 + dir) * 65536 + k) * 65536 + ch
def nextSend (s : State) (p dir k ch : Nat) : Nat × State :=
  let n := tget s.xcount (xKey p dir k ch) 0
  (n, { s with xcount := tset s.xcount (xKey p dir k ch) (n + 1) })

/-- The ID of the packets of one exchange: channel, mark, and the low 15 bits of its send index (log entry 8). -/
def idXchg (ch n : Nat) : Nat := idChan ch + n % 32768 * 2 ^ 17

/-- Sources of SNAPs that have not been read in full hold back what names them (R94). -/
def snapHeld (s : State) (l : List Nat) : Bool := l.any fun x => 0 < (s.obj x).snapHold

end Sys2Proof.Machine
end

