-- ==== Sys2Proof/Machine/Sweep.lean ====
section
/-!
DEFINITION. The optimizer sweep (R216 to R220) and history sets (R179, R180).
-/

namespace Sys2Proof.Machine

/-- The words of PRG_OPT_CFG[p][b] (Table 8.6) and the moment formats in them. -/
def optWords (s : State) (p b : Nat) : List Nat := (List.range 4).map fun i => reg s (0xB0100 + 0x40 * p + 0x20 * b + 8 * i)
def m1fmt (l : List Nat) : Nat := bitsOf ((l[3]?).getD 0) 35 32
def m2fmt (l : List Nat) : Nat := bitsOf ((l[3]?).getD 0) 39 36

/-- Raw lengths of Table 8.3 for N elements. -/
def momentLen (n : Nat) : Nat := up4k n + up4k (n / 32)
def gradLen (n : Nat) : Nat := 2 * up4k n + up4k (n / 32)

/-- The set is configured for a partition (R179). -/
def hsetFor (s : State) (p h : Nat) : Bool :=
  let c := (s.hset h).cfg
  1 ≤ h && h < 4096 && bitOf c 0 && (bitsOf c 11 8 = 2 || bitsOf c 11 8 = 3) && bitsOf c 7 4 = p

/-- The history sets an operation names. -/
def setsOf (g : SweepOp) : List Nat := if g.hset = 0 then [] else [g.hset, g.hset + 1]

/-- No operation that issued before names one of the sets (R179). -/
def hsetTurn (s : State) (o : Op) (g : SweepOp) : Bool :=
  s.ops.all fun q => match q.kind with
    | .sweep v => o.id ≤ q.id || (setsOf v).all fun h => !(setsOf g).contains h
    | _ => true
def hsetBusy (s : State) (h : Nat) : Bool :=
  s.ops.any fun q => match q.kind with
    | .sweep v => v.start && (setsOf v).contains h
    | _ => false

/-- CLEAR of a history set (R180). -/
def clearHset (v : HSet) : HSet := { cfg := if bitOf v.cfg 16 then v.cfg - 65536 else v.cfg, count := v.count }

/-- Steps 1 and 2 of R180: the scale exponent from the history. -/
def hsetScale (v : HSet) : Int :=
  let a := amaxOf ((List.range 16).map fun i => ofFp32 (tget v.amax i 0))
  if a.isZero then 0 else clampInt ((if bitsOf v.cfg 11 8 = 2 then 8 else 15) - ceilLog a - (bitsOf v.cfg 15 12 : Nat)) (-127) 127

/-- Quantization under a set (R180): codes, the count of elements replaced, the tally, the set afterwards. -/
def hsetQuant (v : HSet) (rnd : Nat → Rnd) (xs : List Num) (seed : Nat) : List Byte × Nat × Tally × HSet :=
  let f := if bitsOf v.cfg 11 8 = 2 then e4m3 else e5m2
  let k := hsetScale v
  let n := (xs.filter fun x => !x.isFin).length
  let xs := xs.map fun x => if x.isFin then x else .fin false 0 0
  let l := (xs.zip (List.range xs.length)).map fun p => f.conv (rnd p.2) (p.1.scale k) (seed + p.2)
  let t := l.foldl (fun (t : Tally) e => t.add e.2) {}
  (l.map fun e => BitVec.ofNat 8 e.1, n, { t with nonfin := t.nonfin + n },
   { v with applied := k, amax := tset v.amax v.ptr (toFp32 (amaxOf xs) seed), ptr := (v.ptr + 1) % 16, count := satAdd 32 v.count 1 })

/-- Hyperparameters of a sweep as FP32 words. -/
structure Hyper where
  lr1 : Nat
  c2 : Nat
  beta1 : Nat
  beta2 : Nat
  eps : Nat
  lrwd : Nat
  gscale : Nat
  deriving DecidableEq, Repr

def hyperOf (l : List Nat) : Hyper :=
  let w := fun i => (l[i]?).getD 0
  ⟨bitsOf (w 0) 31 0, bitsOf (w 0) 63 32, bitsOf (w 1) 31 0, bitsOf (w 1) 63 32, bitsOf (w 2) 31 0, bitsOf (w 2) 63 32, bitsOf (w 3) 31 0⟩

/-- 1.0 in FP32. -/
def fOne : Nat := 0x3F800000

/-- New moments of one element (R218): g, m1 and m2 as FP32 words. `k` is the index of its free values. -/
def sweepMoments (h : Hyper) (g m v k : Nat) : Nat × Nat :=
  (fAdd (fMul h.beta1 m k) (fMul (fSub fOne h.beta1 k) g (k + 1)) (k + 2),
   fAdd (fMul h.beta2 v (k + 3)) (fMul (fSub fOne h.beta2 k) (fMul g g (k + 4)) (k + 5)) (k + 6))

/-- The updated master element (R218). -/
def sweepMaster (h : Hyper) (w m v k : Nat) : Nat :=
  let u := fDiv (fMul h.lr1 m (k + 7)) (fAdd (fSqrt (fMul v h.c2 (k + 8)) (k + 9)) h.eps (k + 10)) (k + 11)
  fSub w (fAdd u (fMul h.lrwd w (k + 12)) (k + 13)) (k + 14)

/-- Element i of an object in a format, its scale array at scOff (R174); for a format under a history set, its APPLIED. -/
def deqWord (s : State) (x fmt scOff : Nat) (applied : Int) (i k : Nat) : Nat :=
  let o := s.obj x
  let a := memKey s o.part o.homeaddr
  toFp32 ((dequantAt fmt s.mem a (a + scOff) i).scale (-applied)) k

/-- A finite word, or zero in place of it; and whether it was replaced (R220). -/
def orZero (w : Nat) : Nat × Nat := if fFin w then (w, 0) else (0, 1)

/-- The format of a gradient object: that of the last LAND into it (log entry 24). -/
def gradFormat (s : State) (x : Nat) : Nat :=
  let f := (s.obj x).gfmt
  if f ≠ 0 then f else
    match Config.gradFmt s.free % 3 with
    | 0 => 4
    | 1 => 5
    | _ => 8

/-- What a sweep computes: new master words, new moments, elements replaced, master elements kept. -/
structure SweepRes where
  w : List Nat := []
  m : List Num := []
  v : List Num := []
  zeroed : Nat := 0
  kept : Nat := 0
  deriving DecidableEq, Repr

/-- One element of a non-privileged sweep (R218), and of a privileged one (R220). -/
def sweepElem (hy : Hyper) (priv : Bool) (g m v w k : Nat) (a : SweepRes) : SweepRes :=
  if priv then
    let (g, a1) := orZero g
    let (m, a2) := orZero m
    let (v, a3) := orZero v
    let (m', v') := sweepMoments hy g m v k
    let w' := sweepMaster hy w m' v' k
    { w := a.w ++ [if fFin w' then w' else w], m := a.m ++ [ofFp32 m'], v := a.v ++ [ofFp32 v'], zeroed := a.zeroed + a1 + a2 + a3, kept := a.kept + if fFin w' then 0 else 1 }
  else
    let (m', v') := sweepMoments hy g m v k
    { a with w := a.w ++ [sweepMaster hy w m' v' k], m := a.m ++ [ofFp32 m'], v := a.v ++ [ofFp32 v'] }

/-- The whole sweep (R218, R220). -/
def sweepCalc (s : State) (g : SweepOp) (priv : Bool) (p n : Nat) : SweepRes :=
  let hy := hyperOf g.opt
  let f1 := bitsOf g.h1.cfg 11 8
  let f2 := bitsOf g.h2.cfg 11 8
  (List.range n).foldl (fun a i =>
    let k := s.free + 32 * i + 1
    let gr := fMul (deqWord s g.gr (gradFormat s g.gr) (2 * up4k n) 0 i (k + 16)) hy.gscale (k + 17)
    let m := if priv then deqWord s g.m1 f1 0 g.h1.applied i (k + 18) else deqWord s g.m1 (m1fmt g.opt) (up4k n) 0 i (k + 18)
    let v := if priv then deqWord s g.m2 f2 0 g.h2.applied i (k + 19) else deqWord s g.m2 (m2fmt g.opt) (up4k n) 0 i (k + 19)
    sweepElem hy priv gr m v (rdNumP s p ((s.obj g.m).homeaddr + 4 * i) 4) k a) {}

/-- Write a moment in its MX format with stochastic rounding (R175, R176, R218). -/
def putMoment (s : State) (g : SweepOp) (x fmt p n : Nat) (l : List Num) : State :=
  let (el, sc, t) := quantParts fmt (fun i => .stoch (srBits g.key (handleOf s x) g.step i)) l s.free
  countShare (putObj (putObj (s.ticks (2 * n)) x 0 el) x (up4k n) sc) p fmt (handleOf s x) t

/-- Write a moment under a history set (R180, R220). -/
def putHistory (s : State) (g : SweepOp) (x h : Nat) (v : HSet) (p n : Nat) (l : List Num) : State × Nat :=
  let (el, z, t, v') := hsetQuant v (fun i => .stoch (srBits g.key (handleOf s x) g.step i)) l s.free
  let s := countShare (putObj (s.ticks (2 * n)) x 0 el) p (bitsOf v.cfg 11 8) (handleOf s x) t
  let now := s.hset h
  let v' := { v' with cfg := now.cfg }
  (s.setHset h (if bitOf now.cfg 16 then clearHset v' else v'), z)

def sweepObjs (g : SweepOp) : List Nat := [g.m, g.m1, g.m2, g.gr]
def setSweep (s : State) (o : Op) (g : SweepOp) : State := s.setOp { o with kind := .sweep g }

/-- SWEEP issues (R90, R216): its objects are held (log entry 20). -/
def sweepBegin (s : State) (r : Req) (m m1 m2 gr h : Nat) (gate : Bool) : State :=
  let p := r.part
  let g : SweepOp := { m := m, m1 := m1, m2 := m2, gr := gr, hset := h, opt := optWords s p (s.part p).budActive, gate := gate, step := (s.ctx (partyNum r.who)).step, key := reg s (0x9A100 + 8 * p) }
  let id := nextId s
  (accept (holdAll s (sweepObjs g)) { id := 0, req := r, kind := .sweep g, cls := 4 } true).todo (.tryOp id)

/-- Operations that waited for a history set. -/
def retrySets (s : State) : State :=
  s.ops.foldl (fun s q => match q.kind with
    | .sweep _ => if q.phase = .queued then s.todo (.tryOp q.id) else s
    | _ => s) s

/-- A CLEAR that waited for the operation on its set (R180). -/
def clearWaiting (s : State) (g : SweepOp) : State :=
  (setsOf g).foldl (fun s h => if bitOf (s.hset h).cfg 16 then s.setHset h (clearHset (s.hset h)) else s) s

/-- The end of a SWEEP. -/
def sweepEnd (s : State) (o : Op) (g : SweepOp) (res : Res) : State :=
  retrySets (clearWaiting (endOp (unholdAll s (sweepObjs g)) o { res with handle := handleOf s g.m }) g)

/-- A sweep is looked at: it starts in its turn (R94, R179), is skipped on the non-finite gate (R90, R219), or ends early. -/
def sweepTry (s : State) (o : Op) (g : SweepOp) : State :=
  match o.phase with
  | .queued =>
    if snapHeld s (sweepObjs g) || !hsetTurn s o g then s
    else if g.gate ∧ !(s.obj g.m).privileged ∧ bitOf (s.part o.req.part).nf (g.step % 4) then sweepEnd s o g { flags := 8 }
    else
      let g := { g with start := true, h1 := s.hset g.hset, h2 := s.hset (g.hset + 1) }
      (setSweep s { o with phase := .running, x := mkStream ((sweepObjs g).map (homeSeg s)) ([g.m, g.m1, g.m2].map (homeSeg s)) } g).todo (.tryOp o.id)
  | .ending => if quiet s o.id then sweepEnd (if 0 < o.x.wrOff then [g.m, g.m1, g.m2].foldl (fun s x => scrub s x 0 (s.obj x).storlen) s else s) o g { status := o.endStatus, quiet := o.endStatus = 0x10 } else s
  | _ => issueReadBacks s o

/-- MOVE_DONE of a SWEEP: the update is in place (R218, R220). -/
def sweepDone (s : State) (o : Op) (g : SweepOp) : State :=
  let bad := if o.x.srcBad then 0x12 else o.x.bad
  if bad ≠ 0 then stopOp s o bad
  else
    let p := o.req.part
    let n := (s.obj g.m).rawlen / 4
    let priv := (s.obj g.m).privileged
    let r := sweepCalc s g priv p n
    let s := (putObj (s.ticks (32 * n + 1)) g.m 0 (r.w.flatMap (leBytes 4))).todo (.tap g.m)
    if priv then
      let (s, z1) := putHistory s g g.m1 g.hset g.h1 p n r.m
      let (s, z2) := putHistory s g g.m2 (g.hset + 1) g.h2 p n r.v
      sweepEnd s o g { detail := min 0xFFFF (r.zeroed + r.kept + z1 + z2), result := n - r.kept }
    else
      let s := putMoment s g g.m1 (m1fmt g.opt) p n r.m
      let s := putMoment s g g.m2 (m2fmt g.opt) p n r.v
      sweepEnd s o g { result := n }

end Sys2Proof.Machine
end

