-- ==== Sys2Proof/Machine/Landing.lean ====
section
/-!
DEFINITION. Gradient landing: contributions, LAND, the cutoff and the late ledger (R221 to R225).
-/

namespace Sys2Proof.Machine

/-- Length of a contribution to an accumulator of N elements (R221). -/
def contribLen (cfmt n : Nat) : Nat := if cfmt = 0 then up4k (4 * n) else if cfmt = 1 then up4k (2 * n) else momentLen n

def setLand (s : State) (o : Op) (l : LandOp) : State := s.setOp { o with kind := .land l }
def setContrib (s : State) (o : Op) (c : ContribOp) : State := s.setOp { o with kind := .contrib c }

/-- Contributions on their way into a LAND's accumulator, and late ones into accumulator `acc` (land 0). -/
def contribsOf (s : State) (land : Nat) : List (Op × ContribOp) :=
  s.ops.filterMap fun o => match o.kind with
    | .contrib c => if c.land = land then some (o, c) else none
    | _ => none

/-- The XCHG at the own carrier that sends a contribution on a landing channel. -/
def localSend (s : State) (p ch key : Nat) : Option Op :=
  s.ops.find? fun o => match o.kind with
    | .xsend x => o.req.part = p && x.chan = ch && x.n % 32768 = key && x.peer = myCarrier s p && o.phase ≠ .ending
    | _ => false

/-- The end of the sending half of an XCHG (R221, R225, R232): the send object is released. -/
def sendEnd (s : State) (o : Op) (x : SendOp) (status moved : Nat) : State :=
  endOp (unhold s x.x) o { status := status, handle := handleOf s x.x, result := if status = 0 then moved else 0, quiet := status = 0x10 }

/-- The receiver turns a contribution away (R221, R225): DECLINE, or the end of the XCHG at the own carrier. `why` is 0 for LATEPOL 1, else a status. -/
def decline (s : State) (p src ch key why : Nat) : State :=
  if src = myCarrier s p then
    match localSend s p ch key with
    | some o => match o.kind with
      | .xsend x => sendEnd s o x why 0
      | _ => s
    | none => s
  else sendPkt s p src pDecline (idXchg ch key) why [] 0

/-- The contribution is taken: its data is asked for (log entry 8), or read at the own carrier. Into a LAND with a deadline it moves under that deadline (R110, R122). -/
def takeContrib (s : State) (p src grp key step len land acc : Nat) : State :=
  let id := nextId s
  let ch := 0x8000 + grp
  let loc := if src = myCarrier s p then localSend s p ch key else none
  let s := if land = 0 then hold s acc else s
  let dl : Dl := match s.op land with
    | some o => o.req.dl
    | none => .none
  let s := accept s { id := 0, req := { part := p, dl := dl }, kind := .contrib { land := land, acc := acc, grp := grp, sender := src, key := key, step := step, len := len, src := loc.map fun o => o.id }, cls := 5, phase := .running } true
  match loc with
  | some o => match o.kind with
    | .xsend x => (s.setOp { o with kind := .xsend { x with asked := true } }).todo (.tryOp o.id)
    | _ => s
  | none => (sendPkt s p src pShardreq (idXchg ch key) 0 [0, key] 64).todo (.tryOp id)

/-- A late contribution enters the ledger (R225). -/
def enterLedger (s : State) (grp src step : Nat) : State :=
  let t := s.tgrp grp
  s.setTgrp grp { t with lastSender := src, lastStep := step, lateNow := match t.lastLand with | some (_, st, _) => if st = step then t.lateNow + 1 else t.lateNow | none => t.lateNow }

/-- A late contribution is handled by the policy of the group's last LAND (R225). -/
def actLate (s : State) (p src grp key step len : Nat) : State :=
  let t := s.tgrp grp
  let reject := fun (why : Nat) => decline (s.setTgrp grp { t with rejected := satAdd 32 t.rejected 1 }) p src (0x8000 + grp) key why
  match t.lastLand with
  | some (h, _, pol) =>
    let a := hIdx h
    if !handleOk s p h ∨ (s.obj a).st ≠ .resident then reject 0
    else if pol = 1 then decline (s.setTgrp grp { t with lateDropped := satAdd 32 t.lateDropped 1 }) p src (0x8000 + grp) key 0
    else if len ≠ contribLen t.cfmt ((s.obj a).rawlen / 4) then reject 0x20
    else takeContrib (s.setTgrp grp { t with lateAdded := satAdd 32 t.lateAdded 1 }) p src grp key step len 0 a
  | none => reject 0

/-- A contribution notice (R212, R221, R222, R225). `late` tells that it is in the ledger already. -/
def contribNotice (s : State) (p src grp key step len : Nat) (late : Bool) : State :=
  let t := s.tgrp grp
  let reject := decline (s.setTgrp grp { t with rejected := satAdd 32 t.rejected 1 }) p src (0x8000 + grp) key 0x20
  if !grpFor s p 1 grp ∨ !(members s t).any (fun m => m.carrier = src) then reject
  else
    let enter := fun (s : State) => if late then s else enterLedger s grp src step
    match landOn s grp with
    | some (o, l) =>
      if late ∨ step < l.step ∨ (step = l.step ∧ (l.cut ∨ o.phase = .ending)) then
        if l.cut ∨ o.phase = .ending then addRdv (enter s) (.cnotice p src grp key step len true) else actLate (enter s) p src grp key step len
      else if l.step < step ∨ o.phase = .queued then addRdv s (.cnotice p src grp key step len false)
      else if len ≠ contribLen t.cfmt ((s.obj l.acc).rawlen / 4) then reject
      else takeContrib s p src grp key step len o.id l.acc
    | none =>
      match t.lastLand with
      | some (_, st, _) => if late ∨ step ≤ st then actLate (enter s) p src grp key step len else addRdv s (.cnotice p src grp key step len false)
      | none => addRdv s (.cnotice p src grp key step len false)

/-- The held contribution notices of a group are looked at again, in arrival order. -/
def rdvContribs (s : State) (grp : Nat) : State :=
  let p := (s.tgrp grp).part
  let l := s.rdv.filter fun r => match r with
    | .cnotice q _ g _ _ _ _ => g = grp && q = p
    | _ => false
  l.foldl (fun s r => match r with
    | .cnotice _ src g k st n late => contribNotice (dropRdv s r) p src g k st n late
    | _ => s) s

/-- LAND issues (R91, R222). -/
def landBegin (s : State) (r : Req) (acc gr grp expect : Nat) (cutD : Bool) (pol : Nat) : State :=
  let p := r.part
  let step := (s.ctx (partyNum r.who)).step
  let t := s.tgrp grp
  let s := s.setTgrp grp { t with lastLand := some (handleOf s acc, step, pol), lateNow := 0 }
  let id := nextId s
  let l : LandOp := { acc := acc, gr := gr, grp := grp, step := step, expect := expect, cutD := cutD, pol := pol, key := reg s (0x9A100 + 8 * p), cut := expect = 0 }
  (accept (holdAll s [acc, gr]) { id := 0, req := r, kind := .land l, cls := 5 } true).todo (.tryOp id)

/-- The end of a LAND (R91, R223): its record, its objects, and the late contributions that waited. -/
def landEnd (s : State) (o : Op) (l : LandOp) (status : Nat) : State :=
  let t := s.tgrp l.grp
  let res : Res := { status := status, handle := handleOf s l.gr, detail := min 0xFFFF l.landed, result := t.lateNow % 2 ^ 32 + if l.nonfin then 2 ^ 32 else 0, quiet := status = 0x10 }
  rdvContribs (endOp (unholdAll s [l.acc, l.gr]) o res) l.grp

/-- The cutoff (R223). -/
def landCut (s : State) (o : Op) (l : LandOp) : State := if l.cut then s else (setLand s o { l with cut := true }).todo (.tryOp o.id)

/-- Contributions taken for a LAND whose first byte had not come at its end or cutoff are late (R222, R225). -/
def dropUnbegun (s : State) (o : Op) (l : LandOp) : State :=
  (contribsOf s o.id).foldl (fun s e =>
    if e.2.begun then s
    else
      let s := enterLedger s l.grp e.2.sender l.step
      let t := s.tgrp l.grp
      if l.pol = 1 then decline ((s.delOp e.1.id).setTgrp l.grp { t with lateDropped := satAdd 32 t.lateDropped 1 }) o.req.part e.2.sender (0x8000 + l.grp) e.2.key 0
      else hold (setContrib (s.setTgrp l.grp { t with lateAdded := satAdd 32 t.lateAdded 1 }) e.1 { e.2 with land := 0 }) e.2.acc) s

/-- A LAND is looked at: started, cut off, or ended early. -/
def landTry (s : State) (o : Op) (l : LandOp) : State :=
  match o.phase with
  | .queued =>
    if snapHeld s [l.acc, l.gr] then s
    else rdvContribs ((s.setOp { o with phase := .running }).todo (.tryOp o.id)) l.grp
  | .ending =>
    let s := dropUnbegun s o l
    if quiet s o.id ∧ contribsOf s o.id = [] then
      let s := if 0 < o.x.wrOff then scrub (scrub s l.gr 0 (s.obj l.gr).storlen) l.acc 0 (s.obj l.acc).storlen else s
      landEnd s o l o.endStatus
    else s
  | _ =>
    if l.requant then issueReadBacks s o
    else if l.cut then
      let s := dropUnbegun s o l
      if contribsOf s o.id = [] then
        let n := (s.obj l.acc).rawlen / 4
        let rd := [homeSeg s l.acc, partSeg s l.gr (up4k n) n, partSeg s l.gr (2 * up4k n) (n / 32)]
        (setLand s { o with x := mkStream rd [homeSeg s l.gr, homeSeg s l.acc] } { l with requant := true }).todo (.tryOp o.id)
      else s
    else s

/-- One block of 32 elements requantized (R224): scale, G codes, error codes, their tallies. `x0` is the number of its first element. -/
def requantBlock (gfmt : Nat) (key hdl step x0 seed : Nat) (xs : List Num) : Nat × List Nat × List Nat × Tally × Tally :=
  let (sc, gs, t) := mxBlock gfmt (fun i => .stoch (srBits key hdl step i)) xs x0 seed
  let es := (xs.zip (gs.zip (List.range gs.length))).map fun e =>
    let g := match fmtOf gfmt with
      | some f => f.read e.2.1
      | none => readInt8 e.2.1
    let dq := if sc = 0xFF then Num.nan false else g.scale ((sc : Int) - 127)
    let d := ofFp32 (fSub (toFp32 e.1 (seed + x0 + e.2.2)) (toFp32 dq (seed + x0 + e.2.2)) (seed + x0 + e.2.2))
    e5m2.conv .rne (d.scale (127 - (sc : Int))) (seed + x0 + e.2.2)
  (sc, gs, es.map fun e => e.1, t, es.foldl (fun t e => t.add e.2) {})

/-- The blocks of an accumulator requantized one after another. -/
def requantBlocks (gfmt : Nat) (key hdl step seed : Nat) : Nat → Nat → List Num → List Nat × List Nat × List Nat × Tally × Tally
  | 0, _, _ => ([], [], [], {}, {})
  | n + 1, x0, xs =>
    let (sc, gs, es, t, u) := requantBlock gfmt key hdl step x0 seed (xs.take 32)
    let (scs, gss, ess, t', u') := requantBlocks gfmt key hdl step seed n (x0 + 32) (xs.drop 32)
    (sc :: scs, gs ++ gss, es ++ ess, t.add t', u.add u')

/-- MOVE_DONE of a LAND's requantization (R223 steps 3 to 5, R224). -/
def landDone (s : State) (o : Op) (l : LandOp) : State :=
  let bad := if o.x.srcBad then 0x12 else o.x.bad
  if bad ≠ 0 then stopOp s o bad
  else
    let p := o.req.part
    let t := s.tgrp l.grp
    let n := (s.obj l.acc).rawlen / 4
    let acc := fp32s n (objBytes s l.acc 0 (4 * n))
    let old := fun i => (e5m2.read (leNat (objBytes s l.gr (up4k n + i) 1))).scale ((leNat (objBytes s l.gr (2 * up4k n + i / 32) 1) : Int) - 127)
    let oldNan := fun i => leNat (objBytes s l.gr (2 * up4k n + i / 32) 1) = 0xFF
    let xs := (acc.zip (List.range n)).map fun e => ofFp32 (fAdd e.1 (toFp32 (if oldNan e.2 then .nan false else old e.2) (s.free + e.2)) (s.free + e.2))
    let bad := (acc.filter fun w => !fFin w).length
    let h := handleOf s l.gr
    let (scs, gs, es, tg, te) := requantBlocks t.gfmt l.key h l.step s.free (n / 32) 0 xs
    let s := putObj (putObj (putObj (s.ticks (4 * n)) l.gr 0 (elemsToBytes t.gfmt gs)) l.gr (up4k n) (elemsToBytes 3 es)) l.gr (2 * up4k n) (scs.map (BitVec.ofNat 8))
    let s := s.modObj l.gr fun v => { v with gfmt := t.gfmt }
    let s := putObj s l.acc 0 (List.replicate (4 * n) 0)
    let s := countShare (countShare s p t.gfmt h tg) p 3 h te
    let s := markNonfin s p l.grp l.step bad
    landEnd ((s.todo (.tap l.gr)).todo (.tap l.acc)) o { l with nonfin := l.nonfin || bad ≠ 0 } 0

/-- The first byte of a contribution has been accepted: it counts toward the cutoff (R222, R223). -/
def contribBegins (s : State) (o : Op) (c : ContribOp) : State :=
  if c.begun then s
  else
    let s := setContrib s o { c with begun := true }
    match s.op c.land with
    | some lo => match lo.kind with
      | .land l =>
        let l := { l with landed := l.landed + 1 }
        let s := setLand s lo l
        if l.expect ≤ l.landed then landCut s { lo with kind := .land l } l else s
      | _ => s
    | none => s

/-- Data of a contribution (R221, log entry 8). -/
def contribData (s : State) (o : Op) (c : ContribOp) (off : Nat) (bs : List Byte) : State :=
  if off ≠ c.buf.length then s
  else
    let s := contribBegins s o c
    let s := setContrib s o { c with begun := true, buf := (c.buf ++ bs).take c.len }
    s.todo (.tryOp o.id)

/-- A late contribution waits for the LAND in flight (R223, R225). -/
def mayAdd (s : State) (c : ContribOp) : Bool := c.land ≠ 0 || (landOn s c.grp).isNone

/-- A contribution is looked at: once its data is complete the addition starts. -/
def contribTry (s : State) (o : Op) (c : ContribOp) : State :=
  if o.phase = .ending then
    if quiet s o.id then
      let s := if 0 < o.x.wrOff then scrub s c.acc 0 (s.obj c.acc).storlen else s
      let s := s.delOp o.id
      if c.land = 0 then unhold s c.acc else s.todo (.tryOp c.land)
    else s
  else if c.adding then issueReadBacks s o
  else if c.buf.length = c.len ∧ mayAdd s c then
    (setContrib s { o with x := mkXfer [homeSeg s c.acc] [homeSeg s c.acc] } { c with adding := true }).todo (.tryOp o.id)
  else s

/-- Element i of a contribution's bytes in format cfmt for N elements, as a number (R174, R222). -/
def contribElem (cfmt n : Nat) (bs : List Byte) (i : Nat) : Num :=
  let w := leNat ((bs.drop (i * (elemBits cfmt / 8))).take (elemBits cfmt / 8))
  let x := match fmtOf cfmt with
    | some f => f.read w
    | none => readInt8 w
  if isMx cfmt then
    let sc := leNat ((bs.drop (up4k n + i / 32)).take 1)
    if sc = 0xFF then .nan false else x.scale ((sc : Int) - 127)
  else x

/-- MOVE_DONE of a contribution: every element is added (R177, R222), the sender learns that the read-back is done. -/
def contribDone (s : State) (o : Op) (c : ContribOp) : State :=
  let bad := if o.x.srcBad then 0x12 else o.x.bad
  if bad ≠ 0 then stopOp s o bad
  else
    let p := o.req.part
    let t := s.tgrp c.grp
    let n := (s.obj c.acc).rawlen / 4
    let es := (List.range n).map (contribElem t.cfmt n c.buf)
    let acc := fp32s n (objBytes s c.acc 0 (4 * n))
    let sum := (acc.zip (es.zip (List.range n))).map fun e => fAdd e.1 (toFp32 e.2.1 (s.free + e.2.2)) (s.free + e.2.2)
    let nf := (es.filter fun x => !x.isFin).length
    let s := putObj (s.ticks n) c.acc 0 (sum.flatMap (leBytes 4))
    let s := s.delOp o.id
    let s := match c.src with
      | some so => match s.op so with
        | some q => match q.kind with
          | .xsend x => sendEnd s q x 0 c.len
          | _ => s
        | none => s
      | none => sendPkt s p c.sender pRdone (idXchg (0x8000 + c.grp) c.key) 0 [] 0
    let next := match t.lastLand with
      | some (_, st, _) => st + 1
      | none => c.step + 1
    let s := markNonfin s p c.grp (if c.land = 0 then next else c.step) nf
    if c.land = 0 then unhold s c.acc
    else
      let s := match s.op c.land with
        | some lo => match lo.kind with
          | .land l => if nf ≠ 0 then setLand s lo { l with nonfin := true } else s
          | _ => s
        | none => s
      s.todo (.tryOp c.land)

end Sys2Proof.Machine
end

