-- ==== Sys2Proof/Machine/Exchange.lean ====
section
/-!
DEFINITION. Sequence-split exchange and contributions sent (R221, R231, R232), teacher streams (R226 to R230), snapshots (R233).
-/

namespace Sys2Proof.Machine

def setRecv (s : State) (o : Op) (v : RecvOp) : State := s.setOp { o with kind := .xrecv v }

/-- A contribution to the own carrier is announced once the rendezvous store has room for it (R212). -/
def tellOwn (s : State) (o : Op) (v : SendOp) : State :=
  if v.told ∨ rdvFull s then s
  else contribNotice (s.setOp { o with kind := .xsend { v with told := true } }) o.req.part v.peer (v.chan - 0x8000) (v.n % 32768) v.step (s.obj v.x).rawlen false

/-- The sending half of an XCHG issues (R221, R231): the object is held, the receiver gets its notice. -/
def sendBegin (s : State) (r : Req) (x peer ch : Nat) (par : Option Nat) : State :=
  let p := r.part
  let (n, s) := nextSend s p 0 peer ch
  let step := (s.ctx (partyNum r.who)).step
  let ob := s.obj x
  let id := nextId s
  let own : Bool := 0x8000 ≤ ch && peer = myCarrier s p
  let s := accept (hold s x) { id := 0, req := r, kind := .xsend { x := x, peer := peer, chan := ch, n := n, step := step, told := !own }, cls := 6, phase := .running, par := par } true
  let s :=
    if own then s
    else if 0x8000 ≤ ch then sendPkt s p peer pCnotice (idXchg ch n) 0 [step, ob.rawlen] 64
    else sendPkt s p peer pXnotice (idXchg ch n) 0 [n, ob.rawlen, b2n (ob.form = .enc), b2n ob.prot] 64
  match s.op id with
  | some o => match o.kind with
    | .xsend v => if ob.prot ∧ (ch < 0x8000 ∨ peer ≠ myCarrier s p) then sendEnd s o v 0x20 0 else s.todo (.tryOp id)
    | _ => s
  | none => s

/-- The send that a packet of a channel belongs to. -/
def sendFor (s : State) (p peer ch key : Nat) : Option (Op × SendOp) :=
  s.ops.findSome? fun o => match o.kind with
    | .xsend v => if o.req.part = p ∧ v.peer = peer ∧ v.chan = ch ∧ v.n % 32768 = key then some (o, v) else none
    | _ => none

/-- A sending half is looked at: once the receiver has asked, its data moves. -/
def sendTry (s : State) (o : Op) (v : SendOp) : State :=
  if o.phase = .ending then if quiet s o.id then sendEnd s o v o.endStatus 0 else s
  else if o.x.srcBad ∨ o.x.bad ≠ 0 then stopOp s o (if o.x.srcBad then 0x12 else o.x.bad)
  else if v.asked ∧ o.x.rd = [] then
    let loc := v.peer = myCarrier s o.req.part ∧ 0x8000 ≤ v.chan
    (s.setOp { o with x := mkXfer [homeSeg s v.x] (if loc then [] else [peerSeg s v.peer (s.obj v.x).storlen]) }).todo (.tryOp o.id)
  else tellOwn s o v

/-- The receiver asks for the data of a send (log entry 8). -/
def sendAsked (s : State) (p peer ch key : Nat) : State :=
  match sendFor s p peer ch key with
  | some (o, v) => if v.asked then s else (s.setOp { o with kind := .xsend { v with asked := true } }).todo (.tryOp o.id)
  | none => s

/-- The statuses of Table 0.5. -/
def assigned (n : Nat) : Bool := n ≤ 2 || (0x10 ≤ n && n ≤ 0x14) || (0x20 ≤ n && n ≤ 0x23) || (0x30 ≤ n && n ≤ 0x32) || n = 0x3F

/-- The receiver's read-back is done (R232), or it declines (R225, R231). -/
def sendOver (s : State) (p peer ch key status moved : Nat) : State :=
  match sendFor s p peer ch key with
  | some (o, v) => if o.phase = .ending then s else sendEnd s o v status (if moved = 0 then 0 else (s.obj v.x).storlen)
  | none => s

/-- A contribution sent at the own carrier has been read: its data is there (R221). -/
def sendReady (s : State) (o : Op) (v : SendOp) : Bool :=
  v.asked && o.phase = .running && v.peer = myCarrier s o.req.part && 0x8000 ≤ v.chan && o.x.rd ≠ [] && sidesDone o.x && quiet s o.id && s.ops.any fun q => match q.kind with
    | .contrib c => c.src = some o.id && c.buf = []
    | _ => false
def sendRead (s : State) (o : Op) (v : SendOp) : State :=
  let bad := if o.x.srcBad then 0x12 else o.x.bad
  match s.ops.find? fun q => match q.kind with
    | .contrib c => c.src = some o.id
    | _ => false with
  | some q => match q.kind with
    | .contrib c => if bad ≠ 0 then stopOp (stopOp s q bad) o bad else contribData s q c 0 (objBytes s v.x 0 (s.obj v.x).rawlen)
    | _ => s
  | none => s

/-- The receiving half of an XCHG issues (R93, R231). -/
def recvBegin (s : State) (r : Req) (y peer ch tier : Nat) (par : Option Nat) : State :=
  let (n, s) := nextSend s r.part 1 peer ch
  let id := nextId s
  (accept (hold s y) { id := 0, req := r, kind := .xrecv { x := y, peer := peer, chan := ch, tier := tier, n := n }, cls := 6, par := par } true).todo (.tryOp id)

/-- The end of a receiving half. -/
def recvEnd (s : State) (o : Op) (v : RecvOp) (status disp : Nat) : State :=
  let s := if status = 0 then makeResident s v.x disp else if status = 0x12 ∧ v.placed then poison s v.x else if v.placed then unbind s v.x else s
  let res : Res := { status := status, handle := handleOf s v.x, disp := 0, result := if status = 0 then (s.obj v.x).storlen else 0, quiet := status = 0x10 }
  endOp (unhold s v.x) o res

/-- The notice that a receive waits for is in the rendezvous store. -/
def noticeFor (s : State) (p : Nat) (v : RecvOp) : Option Rdv :=
  s.rdv.find? fun r => match r with
    | .xnotice q src ch i _ _ _ => q = p && src = v.peer && ch = v.chan && i = v.n
    | _ => false

/-- Bytes a receive reserves: the worst case of the form it keeps (R26). -/
def recvSize (v : RecvOp) (rawlen : Nat) (enc : Bool) : Nat := if enc ∧ v.tier = 1 then worstEnc rawlen else rawlen

/-- A receiving half is looked at: matched with its notice, placed, taken to memory, or ended (R231, R232). -/
def recvTry (s : State) (o : Op) (v : RecvOp) : State :=
  if o.phase = .ending then if quiet s o.id then recvEnd s o v o.endStatus 0 else s
  else
    match v.notice with
    | none =>
      match noticeFor s o.req.part v with
      | some (.xnotice q src ch i n enc prot) =>
        let s := dropRdv s (.xnotice q src ch i n enc prot)
        if n ≠ (s.obj v.x).rawlen ∨ prot ∨ (s.obj v.x).prot then
          recvEnd (sendPkt s o.req.part src pDecline (idXchg ch i) 0x20 [] 0) o v 0x20 0
        else (setRecv s o { v with notice := some (n, enc, prot) }).todo (.tryOp o.id)
      | _ => s
    | some (n, enc, _) =>
      if v.placed then if o.x.wr ≠ [] then issueReadBacks s o else s
      else if enc ∧ v.tier = 0 ∧ !decUsable s then recvEnd (sendPkt s o.req.part v.peer pDecline (idXchg v.chan v.n) 0x31 [] 0) o v 0x31 0
      else
        match getSpace s o.req.part v.tier (recvSize v n enc) o.hasDl o.req.dl o.acct (.tryOp o.id) with
        | (some a, s) =>
          let s := bindAt s v.x v.tier a (recvSize v n enc)
          sendPkt (setRecv s { o with phase := .running } { v with placed := true }) o.req.part v.peer pShardreq (idXchg v.chan v.n) 0 [0, v.n] 64
        | (none, s) => s.setOp { o with phase := .waitSpace }

/-- Data of an exchange arrives: in order, an empty packet ends an encoded transfer (log entry 8); its bytes are charged to PEER at this end too (R231). -/
def recvData (s : State) (o : Op) (v : RecvOp) (off : Nat) (bs : List Byte) : State :=
  match v.notice with
  | none => s
  | some (n, enc, _) =>
    if off ≠ v.buf.length ∨ !v.placed ∨ o.phase ≠ .running ∨ o.x.wr ≠ [] then s
    else
      let s := chargeIn s o.req.part 6 bs.length o.acct
      let buf := v.buf ++ bs
      let whole := if enc then bs = [] else n ≤ buf.length
      let v := { v with buf := if enc then buf else buf.take n }
      if whole then
        let a := s.obj v.x
        (setRecv s { o with x := mkXfer [] [run v.tier (tqaOff a.homeaddr) (if v.tier = 1 then v.buf.length else n) v.x] } v).todo (.tryOp o.id)
      else setRecv s o v

/-- The receive that data of a channel belongs to. -/
def recvFor (s : State) (p peer ch key : Nat) : Option (Op × RecvOp) :=
  s.ops.findSome? fun o => match o.kind with
    | .xrecv v => if o.req.part = p ∧ v.peer = peer ∧ v.chan = ch ∧ v.n % 32768 = key then some (o, v) else none
    | _ => none
def contribFor (s : State) (p src grp key : Nat) : Option (Op × ContribOp) :=
  s.ops.findSome? fun o => match o.kind with
    | .contrib c => if o.req.part = p ∧ c.sender = src ∧ c.grp = grp ∧ c.key = key ∧ c.src = none then some (o, c) else none
    | _ => none

/-- MOVE_DONE of a receive (R232): the data is in its home, the sender hears of it. -/
def recvDone (s : State) (o : Op) (v : RecvOp) : State :=
  match v.notice with
  | none => s
  | some (n, enc, _) =>
    if o.x.bad ≠ 0 then stopOp s o o.x.bad
    else
      let told := fun (s : State) => sendPkt s o.req.part v.peer pRdone (idXchg v.chan v.n) 0 [] 0
      if enc ∧ v.tier = 0 then
        match decodeObj v.buf (n / 4096) with
        | .ok b => recvEnd (told (decNote (countDecode (putObj s v.x 0 b) o.acct n v.buf) n)) o v 0 5
        | .error e =>
          let s := match e with
            | .crc => { s with sieveErrCrc := satAdd 32 s.sieveErrCrc 1 }
            | .form => { s with sieveErrOther := satAdd 32 s.sieveErrOther 1 }
          recvEnd (told s) o v 0x12 0
      else
        let s := putObj s v.x 0 v.buf
        let s := s.modObj v.x fun x => { x with form := if enc then .enc else .raw, storlen := v.buf.length, resv := up4k v.buf.length }
        recvEnd (told (stockpotMark s)) o v 0 (if v.tier = 0 then 5 else if enc then 2 else 1)

/-- An XCHG in both directions (R232): one operation with two halves. -/
def bothBegin (s : State) (r : Req) (x y peer ch tier : Nat) : State :=
  let id := nextId s
  let s := accept s { id := 0, req := { r with handle := handleOf s y }, kind := .xboth 0 0 none none, cls := 6, phase := .running } false
  let a := nextId s
  let s := match s.op id with
    | some q => s.setOp { q with kind := .xboth a (a + 1) none none }
    | none => s
  recvBegin (sendBegin s r x peer ch (some id)) r y peer ch tier (some id)

/-- The order of R112 over two statuses: failures, then SUBST, then LATE, then OK; the send's failure before the receive's. -/
def worst (a b : Nat) : Nat := if 0x10 ≤ a then a else if 0x10 ≤ b then b else if a = 1 ∨ b = 1 then 1 else max a b

/-- Both halves have ended. -/
def bothTry (s : State) (o : Op) (ra rb : Option (Nat × Nat)) : State :=
  match ra, rb with
  | some (a, n), some (b, m) => endOp s o { status := worst a b, handle := o.req.handle, result := n + m, quiet := worst a b = 0x10 }
  | _, _ => s

/-- Clusters of a mask, ascending; the present satellites of one. -/
def clustersOf (m : Nat) : List Nat := (List.range 8).filter fun c => bitOf m c
def satsOf (s : State) (c : Nat) : List Nat := ((List.range 8).map fun i => 8 * c + i).filter fun n => bitOf s.sat.present n

/-- K rows of TOPK: ROWBYTES (R230). -/
def topkBytes (k : Nat) : Nat := roundUp (6 * k) 64

def setTeach (s : State) (o : Op) (t : TeachOp) : State := s.setOp { o with kind := .tstream t }

/-- TSTREAM issues (R92, R228). -/
def teachBegin (s : State) (r : Req) (x mode clmask k out idx : Nat) : State :=
  let run := if mode = 0 ∧ satBit s 3 ∧ satResp s r.part 2 then 1 else mode
  let id := nextId s
  (accept (holdAll s ([x] ++ if mode = 2 then [out, idx] else [])) { id := 0, req := r, kind := .tstream { x := x, mode := mode, run := run, clmask := clmask, k := k, out := out, idx := idx }, cls := 3 } true).todo (.tryOp id)

/-- Row numbers of the index object of a TOPK stream. -/
def topkRows (s : State) (t : TeachOp) : List Nat := fp32s ((s.obj t.idx).rawlen / 4) (objBytes s t.idx 0 (s.obj t.idx).rawlen)
/-- Row v lies wholly inside the teacher. -/
def topkIn (s : State) (t : TeachOp) (v : Nat) : Bool := v ≠ 0xFFFFFFFF && (v + 1) * topkBytes t.k ≤ (s.obj t.x).rawlen

/-- Link credits of a satellite: 1,536 after training (R270). -/
def satCredits (s : State) (n : Nat) : Nat := tget s.sat.credits n 1536
/-- Flits of the first k frames of a stream to a satellite: one for SOF, then eight blocks of 517 bytes a frame (R227, R270). -/
def flitsOf (k : Nat) : Nat := if k = 0 then 0 else 1 + (k * 4136 + 63) / 64

/-- Frames of the teacher, and first frame and end of the part that position j receives in round r (R228, R229). -/
def teachFrames (s : State) (t : TeachOp) : Nat := (s.obj t.x).rawlen / 4096
def teachPart (s : State) (t : TeachOp) (j r : Nat) : Nat × Nat :=
  let f := teachFrames s t
  let c := (clustersOf t.clmask).length
  if t.run = 0 then (0, f) else let q := (j + r) % c; (q * f / c, (q + 1) * f / c)
/-- The run of a part in the teacher's home. -/
def teachSeg (s : State) (t : TeachOp) (j r : Nat) : Seg := let q := teachPart s t j r; partSeg s t.x (4096 * q.1) (4096 * (q.2 - q.1))

/-- Frames of the present part of position j that have been read: with one read for all clusters, or with a read of its own (R228, R229). -/
def teachRead (s : State) (o : Op) (t : TeachOp) (j : Nat) : Nat :=
  let q := teachPart s t j (tget t.rounds j 0)
  if t.run = 0 then upTo s o false / 4096
  else
    let i := (t.queue.takeWhile fun e => e ≠ (j, tget t.rounds j 0)).length
    if i < t.queue.length then min (q.2 - q.1) ((upTo s o false - segLen (o.x.rd.take i)) / 4096) else 0

/-- A frame goes to the present satellite whose turn it is, if that has the credits (R227, R270). -/
def sendFrame (s : State) (t : TeachOp) (c f : Nat) : Option (State × TeachOp) :=
  let ss := satsOf s c
  (ss[f % ss.length]?).bind fun n =>
    let k := tget t.nsat n 0
    let m := flitsOf (k + 1) - flitsOf k
    if m ≤ satCredits s n then
      some ({ s with sat := { s.sat with credits := tset s.sat.credits n (satCredits s n - m) } }, { t with nsat := tset t.nsat n (k + 1) })
    else none

/-- What position j can send now: a frame that was lost with a satellite, else the next frame of its part; at the end of a part its next round begins (R227 to R229). -/
def teachStep (s : State) (o : Op) (t : TeachOp) (j : Nat) : Option (State × Op × TeachOp) :=
  let c := ((clustersOf t.clmask)[j]?).getD 0
  let r := tget t.rounds j 0
  let q := teachPart s t j r
  let f := tget t.sent j 0
  match t.again.find? fun e => e.1 = j with
  | some e => (sendFrame s t c e.2).map fun x => (x.1, o, { x.2 with again := x.2.again.erase e })
  | none =>
    if (if t.run = 0 then 1 else (clustersOf t.clmask).length) ≤ r then none
    else if f = q.2 - q.1 then
      let t := { t with sent := tset t.sent j 0, rounds := tset t.rounds j (r + 1), nsat := t.nsat.filter fun e => e.1 / 8 ≠ c }
      if t.run = 1 ∧ r + 1 < (clustersOf t.clmask).length then
        some (s, { o with x := ({ o.x with rd := o.x.rd ++ [teachSeg s t j (r + 1)] } : Xfer).pass }, { t with queue := t.queue ++ [(j, r + 1)] })
      else some (s, o, t)
    else if f < teachRead s o t j then
      (sendFrame s t c (q.1 + f)).map fun x => (x.1, o, { x.2 with sent := tset x.2.sent j (f + 1), total := x.2.total + 1 })
    else none

/-- Every position sends what it can. `n` bounds the rounds over the positions. -/
def teachFlow : Nat → State → Op → TeachOp → State × Op × TeachOp
  | 0, s, o, t => (s, o, t)
  | n + 1, s, o, t =>
    let step := (List.range (clustersOf t.clmask).length).foldl (fun (acc : Bool × State × Op × TeachOp) j =>
      match teachStep acc.2.1 acc.2.2.1 acc.2.2.2 j with
      | some x => (true, x)
      | none => acc) (false, s, o, t)
    if step.1 then teachFlow n step.2.1 step.2.2.1 step.2.2.2 else step.2

/-- Every cluster has been sent all that it is to receive. -/
def teachOver (t : TeachOp) : Bool :=
  let c := (clustersOf t.clmask).length
  t.again = [] && (List.range c).all fun j => (if t.run = 0 then 1 else c) ≤ tget t.rounds j 0

/-- A STREAM reads no further ahead than its staging area holds: a frame stays there until every cluster has been sent it (R228). -/
def stagingOk (o : Op) (b : Burst) : Bool :=
  match o.kind with
  | .tstream t =>
    let c := (clustersOf t.clmask).length
    let least := (List.range c).foldl (fun m j => min m (if tget t.rounds j 0 = 0 then tget t.sent j 0 else o.x.slen / 4096)) (o.x.slen / 4096)
    t.mode = 2 || t.run ≠ 0 || b.pos + b.len ≤ 4096 * least + c * 2097152
  | _ => true

/-- The end of a TSTREAM (R92). -/
def teachEnd (s : State) (o : Op) (t : TeachOp) (status : Nat) : State :=
  let s := { s with runs := s.runs.filter fun x => x.owner ≠ o.id }
  let c := (clustersOf t.clmask).length
  let s := if t.mode = 2 then if status = 0 then makeResident s t.out 1 else if (s.obj t.out).st = .bound then unbind s t.out else s else s
  let res : Res := { status := status, handle := handleOf s (if t.mode = 2 then t.out else t.x)
                     detail := if t.mode = 1 then (List.range c).foldl (fun m j => min m (tget t.rounds j 0)) c else if t.mode = 2 then t.k else 0
                     result := if t.mode = 2 then o.x.wrBack else 4096 * t.total, quiet := status = 0x10 }
  endOp (unholdAll (stockpotMark s) ([t.x] ++ if t.mode = 2 then [t.out, t.idx] else [])) o res

/-- A TSTREAM is looked at: staging or OUT placed, started, carried on, or ended. -/
def teachTry (s : State) (o : Op) (t : TeachOp) : State :=
  let go := fun (s : State) (x : Xfer) => (s.setOp { o with phase := .running, x := x }).todo (.tryOp o.id)
  if o.phase = .ending then if quiet s o.id then teachEnd s o t o.endStatus else s
  else if o.phase = .queued ∨ o.phase = .waitSpace then
    if t.mode = 2 then
      match getSpace s o.req.part 1 (s.obj t.out).rawlen false o.req.dl o.acct (.tryOp o.id) with
      | (some a, s) =>
        let s := bindAt s t.out 1 a (s.obj t.out).rawlen
        let rows := topkRows s t
        let s := movAdd s o.req.part 3 (rows.filter fun v => v ≠ 0xFFFFFFFF && !topkIn s t v).length
        let n := topkBytes t.k
        let ix := homeSeg s t.idx
        let aux := idxPages ix.tier ix.addr ix.len t.idx fun i => i * n
        go s ({ mkXfer (rows.map fun v => if topkIn s t v then partSeg s t.x (v * n) n else run 6 0 n 0) ((List.range rows.length).map fun i => partSeg s t.out (i * n) n) with aux := aux } : Xfer).pass
      | (none, s) => s.setOp { o with phase := .waitSpace }
    else if t.run = 0 then
      match getSpace s o.req.part 0 ((clustersOf t.clmask).length * 2097152) false o.req.dl o.acct (.tryOp o.id) with
      | (some a, s) => go (stockpotMark { s with runs := s.runs ++ [⟨0, a, (clustersOf t.clmask).length * 2097152, some o.req.part, o.id⟩] }) (mkStream [homeSeg s t.x] [])
      | (none, s) => s.setOp { o with phase := .waitSpace }
    else
      let js := List.range (clustersOf t.clmask).length
      ((setTeach s { o with phase := .running, x := mkStream (js.map fun j => teachSeg s t j 0) [] } { t with queue := js.map fun j => (j, 0) })).todo (.tryOp o.id)
  else if t.mode = 2 then issueReadBacks s o
  else
    let (s, o, t) := teachFlow ((clustersOf t.clmask).length * (teachFrames s t + 1) * 8) s o t
    let s := setTeach s o t
    if teachOver t ∧ noTags s o.id then teachEnd s o t 0 else s

/-- MOVE_DONE of a TSTREAM: OUT is written (R230). In the other modes it ends when the last frame has gone. -/
def teachReady (s : State) (o : Op) (t : TeachOp) : Bool := o.phase = .running && t.mode = 2 && xferDone s o
def teachDone (s : State) (o : Op) (t : TeachOp) : State :=
  let bad := if o.x.srcBad then 0x12 else o.x.bad
  if bad ≠ 0 then stopOp s o bad
  else
    let rows := topkRows s t
    let n := topkBytes t.k
    let s := (rows.zip (List.range rows.length)).foldl (fun s e =>
      putObj s t.out (e.2 * n) (if topkIn s t e.1 then objBytes s t.x (e.1 * n) n else List.replicate n 0)) s
    teachEnd s o t 0

/-- Frames of a stream that a lost satellite n still had in its queue, the credits for their flits not given back: the last it was sent (R227). -/
def lostFrames (s : State) (t : TeachOp) (j n : Nat) : List Nat :=
  let old := ((List.range 8).map fun i => 8 * (n / 8) + i).filter fun m => m = n || bitOf s.sat.present m
  let q := teachPart s t j (tget t.rounds j 0)
  let mine := ((List.range (tget t.sent j 0)).map fun i => q.1 + i).filter fun f => old[f % old.length]? = some n
  mine.drop (mine.length - ((1536 - satCredits s n) * 64 + 4135) / 4136)

/-- A satellite is lost: the frames still to come go to the other satellites of its cluster, and the lost frames go again (R227); a cluster without one is unusable (R92). -/
def teachLost (s : State) (n : Nat) : State :=
  s.ops.foldl (fun s o => match o.kind with
    | .tstream t =>
      if t.mode = 2 ∨ !bitOf t.clmask (n / 8) then s
      else if satsOf s (n / 8) = [] then stopOp s o 0x31
      else
        let j := ((clustersOf t.clmask).takeWhile fun c => c ≠ n / 8).length
        (setTeach s o { t with again := t.again ++ (lostFrames s t j n).map fun f => (j, f) }).todo (.tryOp o.id)
    | _ => s) s

/-- SNAP with its T3 space at address a (R94, R233): the source is held and its bytes are taken as they stand; the copy begins once the snapshot has its entry (R12). -/
def snapBegin (s : State) (r : Req) (x a : Nat) : State :=
  let o := s.obj x
  let id := nextId s
  let s := s.modObj x fun v => { v with snapHold := v.snapHold + 1 }
  let s := accept s { id := 0, req := r, kind := .snap x 0 false (objBytes s x 0 o.rawlen), cls := 8 } true
  ({ s with runs := s.runs ++ [⟨3, a, formSize o (if o.prot then .prot else .raw), some o.part, id⟩] } : State).todo (.tryOp id)

/-- The snapshot takes its entry: its handle goes to G[GDST] and the copy runs (R94); with the free list empty, or others waiting for it, it waits (R12). -/
def snapEntry (s : State) (o : Op) (x : Nat) (img : List Byte) : State :=
  let w := Work.tryOp o.id
  if !dirTurn s w then dirJoin s w
  else
    let ob := s.obj x
    let f : Form := if ob.prot then .prot else .raw
    let n := formSize ob f
    let a := ((s.runs.find? fun g => g.owner = o.id).map fun g => g.off).getD 0
    let y := (dirFree s).getD 0
    let s := dirLeave { s with runs := s.runs.filter fun g => g.owner ≠ o.id } w
    let s := dirAlloc s y { st := .declared, clsP := true, part := ob.part, ctx := partyNum o.req.who, home := 3, homeaddr := tqa 3 a, resv := n, storlen := n, rawlen := ob.rawlen, pinned := true, prot := ob.prot, form := f, snapshot := true, holds := 1 }
    let s := setG s (partyNum o.req.who) o.req.gdst (handleOf s y)
    let s := s.setOp { o with kind := .snap x y false img, phase := .running, x := mkXfer [homeSeg s x] [run 3 a n y] }
    s.todo (.tryOp o.id)

/-- The source of a snapshot has been read in full, or will not be: what waited for it goes on (R94). -/
def snapRelease (s : State) (x : Nat) : State :=
  let s := (s.modObj x fun v => { v with snapHold := v.snapHold - 1 }).todo (.objLeft x)
  s.ops.foldl (fun s q => match q.kind with
    | .gather _ | .sweep _ | .land _ => if q.phase = .queued then s.todo (.tryOp q.id) else s
    | _ => s) s

/-- The end of a SNAP; a snapshot that fails leaves no object (log entry 21). -/
def snapEnd (s : State) (o : Op) (x y : Nat) (read : Bool) (status : Nat) : State :=
  let s := dirLeave (if read then s else snapRelease s x) (.tryOp o.id)
  let s := { s with runs := s.runs.filter fun g => g.owner ≠ o.id }
  let res : Res := { status := status, handle := if y = 0 then 0 else handleOf s y, result := if status = 0 then (s.obj y).homeaddr else 0, quiet := status = 0x10 }
  let s := if y = 0 then s else s.modObj y fun v => { v with holds := v.holds - 1 }
  if status = 0 then endOp (makeResident s y 0) o res else if y = 0 then endOp s o res else objFree (endOp s o res) y none

def snapTry (s : State) (o : Op) (x y : Nat) (read : Bool) (img : List Byte) : State :=
  if o.phase = .ending then if quiet s o.id then snapEnd s o x y read o.endStatus else s
  else if y = 0 then snapEntry s o x img
  else
    let s := if !read ∧ o.x.rdBack = o.x.slen then snapRelease (s.setOp { o with kind := .snap x y true img }) x else s
    match s.op o.id with
    | some o => issueReadBacks s o
    | none => s

/-- MOVE_DONE of a SNAP: the bytes of the source as they stood at issue are in T3 (R233, R318). -/
def snapDone (s : State) (o : Op) (x y : Nat) (read : Bool) (img : List Byte) : State :=
  let bad := if o.x.srcBad then 0x12 else o.x.bad
  if bad ≠ 0 then stopOp s o bad
  else
    let ob := s.obj y
    let v := s.part ob.part
    let s := if ob.prot then (putObj s y 0 (protSeal s ob v.nonce img)).setPart ob.part { v with nonce := v.nonce + 1 } else putObj s y 0 img
    snapEnd s o x y read 0

end Sys2Proof.Machine
end

