-- ==== Sys2Proof/Machine/Gather.lean ====
section
/-!
DEFINITION. Parameter gather: GATHER, the shard requests it sends and serves (R199, R213 to R215).
-/

namespace Sys2Proof.Machine

/-- The members to ask for shard k, in the order of R214. -/
def askOrder (s : State) (t : TGrp) (k : Nat) : List Nat :=
  let l := (members s t).filter fun m => m.shard = k
  let near := l.filter fun m => m.domain = (ownMember s t).domain
  let cands := if near = [] then l else near
  let far := if near = [] then [] else l.filter fun m => m.domain ≠ (ownMember s t).domain
  let r := t.rank % max 1 cands.length
  (cands.drop r ++ cands.take r ++ far).map fun m => m.carrier

/-- Elements of the working copy: of all shards, or of the rows. -/
def copyElems (t : TGrp) (idx : Option (Nat × Nat)) (rows : Nat) : Nat :=
  match idx with
  | some (_, rb) => rows * (rb / 4)
  | none => t.shards * t.elems

/-- Slice i of the working copy (a shard, or a row): offset and length of its elements and of its scales. -/
def sliceOf (t : TGrp) (g : GatherOp) (i : Nat) : (Nat × Nat) × (Nat × Nat) :=
  let n := match g.idx with
    | some (_, rb) => rb / 4
    | none => t.elems
  let e := elemBytes g.fmt n
  ((i * e, e), if isMx g.fmt then (up4k (elemBytes g.fmt (copyElems t g.idx g.rows.length)) + i * (n / 32), n / 32) else (0, 0))

/-- The runs of slices in the working copy. -/
def sliceSegs (s : State) (t : TGrp) (g : GatherOp) (l : List Nat) : List Seg :=
  (l.map fun i => partSeg s g.w (sliceOf t g i).1.1 (sliceOf t g i).1.2) ++
    if isMx g.fmt then l.map fun i => partSeg s g.w (sliceOf t g i).2.1 (sliceOf t g i).2.2 else []

/-- Write one slice. -/
def putSlice (s : State) (t : TGrp) (g : GatherOp) (i : Nat) (el sc : List Byte) : State :=
  let p := sliceOf t g i
  let s := putObj s g.w p.1.1 el
  if isMx g.fmt then putObj s g.w p.2.1 sc else s

/-- The shard that row v lies in; none where it does not lie wholly inside the source (R199, R213): inside the group's master, and inside the one object that holds its shard
(log entry 23). -/
def rowShard (t : TGrp) (rb v : Nat) : Option Nat :=
  if v = 0xFFFFFFFF ∨ t.shards * t.shardLen < (v + 1) * rb ∨ t.shardLen < v * rb % t.shardLen + rb then none else some (v * rb / t.shardLen)

/-- FP32 words of row v in this carrier's master shard. -/
def rowWords (s : State) (t : TGrp) (m rb v : Nat) : List Nat := fp32s (rb / 4) (objBytes s m (v * rb % t.shardLen) rb)

/-- Cast FP32 words to the format under RNE, with the counts of R178 for the working copy. -/
def castWords (s : State) (g : GatherOp) (ws : List Nat) : State × List Byte × List Byte :=
  let (el, sc, t) := quantParts g.fmt (fun _ => .rne) (ws.map ofFp32) s.free
  (countShare (s.ticks (2 * ws.length)) (s.obj g.w).part g.fmt (handleOf s g.w) t, el, sc)

def setGather (s : State) (o : Op) (g : GatherOp) : State := s.setOp { o with kind := .gather g }

/-- Rows of the own shard among the first n entries of the index. -/
def ownRows (s : State) (t : TGrp) (g : GatherOp) (rb n : Nat) : List Nat := (g.rows.take n).filter fun v => rowShard t rb v = some (ownMember s t).shard
/-- Runs of the master that the own part of a gather reads. -/
def ownReads (s : State) (t : TGrp) (g : GatherOp) : List Seg :=
  match g.idx with
  | none => [homeSeg s g.m]
  | some (_, rb) => (ownRows s t g rb g.rows.length).map fun v => partSeg s g.m (v * rb % t.shardLen) rb
/-- The pages of the index object (R199). -/
def idxReads (s : State) (t : TGrp) (g : GatherOp) : List IdxPage :=
  match g.idx with
  | none => []
  | some (ix, rb) => idxPages (s.obj ix).home (tqaOff (s.obj ix).homeaddr) (4 * g.rows.length) ix fun i => (ownRows s t g rb i).length * rb

/-- Slices of the working copy that the own master fills, zero rows included. -/
def ownSlices (s : State) (t : TGrp) (g : GatherOp) : List Nat :=
  match g.idx with
  | none => [(ownMember s t).shard]
  | some (_, rb) => (List.range g.rows.length).filter fun i => let k := rowShard t rb ((g.rows[i]?).getD 0); k = none || k = some (ownMember s t).shard

/-- Rows of a shard that an indexed gather asks for, by slice. -/
def rowsOf (t : TGrp) (g : GatherOp) (k : Nat) : List Nat :=
  match g.idx with
  | none => [k]
  | some (_, rb) => (List.range g.rows.length).filter fun i => rowShard t rb ((g.rows[i]?).getD 0) = some k

/-- Rows that one SHARDREQ names: its payload, eight bytes and four a row, fits a packet of any version (R248). -/
def reqRows : Nat := 254
/-- Units of a gather's requests: shard k, or with INDEXED the j-th part of the rows wanted of it, has number k + S * j. -/
def unitRows (t : TGrp) (g : GatherOp) (u : Nat) : List Nat :=
  let l := rowsOf t g (u % t.shards)
  if g.idx.isSome then (l.drop (reqRows * (u / t.shards))).take reqRows else l
def unitsOf (t : TGrp) (g : GatherOp) (k : Nat) : List Nat :=
  if g.idx.isSome then (List.range (((rowsOf t g k).length + reqRows - 1) / reqRows)).map fun j => k + t.shards * j else [k]

/-- Bytes a unit's data has on the wire: the elements of its slices, then their scales (log entry 8). -/
def shardBytes (t : TGrp) (g : GatherOp) (u : Nat) : Nat :=
  ((unitRows t g u).map fun i => (sliceOf t g i).1.2 + (sliceOf t g i).2.2).foldl (· + ·) 0
/-- Units whose data has come whole. -/
def gotUnits (t : TGrp) (g : GatherOp) : List Nat := g.got ++ (g.bufs.filter fun b => b.2.length = shardBytes t g b.1).map fun b => b.1

/-- The next request to a member goes out once it has answered the one before: its data is taken in order (R214, log entry 8). -/
def askNext (s : State) (o : Op) (t : TGrp) (g : GatherOp) (c : Nat) : State × GatherOp :=
  let mine := g.asked.filter fun a => a.2.1 = c && !(gotUnits t g).contains a.1
  if mine.any fun a => g.sent.contains a.1 then (s, g)
  else
    match mine with
    | [] => (s, g)
    | a :: _ =>
      let rows := if g.idx.isSome then (unitRows t g a.1).map fun i => (g.rows[i]?).getD 0 else []
      (sendPkt s o.req.part c pShardreq g.grp 0 ([a.1 % t.shards, g.sequence] ++ rows) (8 + 4 * rows.length), { g with sent := g.sent ++ [a.1] })
def askAll (s : State) (o : Op) (t : TGrp) (g : GatherOp) : State × GatherOp :=
  (g.asked.map fun a => a.2.1).dedup.foldl (fun acc c => askNext acc.1 o t acc.2 c) (s, g)

/-- Put the data of a unit that has arrived into the working copy. -/
def putShard (s : State) (t : TGrp) (g : GatherOp) (u : Nat) (bs : List Byte) : State :=
  let l := unitRows t g u
  let e := match l with
    | i :: _ => (sliceOf t g i).1.2
    | [] => 0
  let c := match l with
    | i :: _ => (sliceOf t g i).2.2
    | [] => 0
  (l.zip (List.range l.length)).foldl (fun s x =>
    putSlice s t g x.1 ((bs.drop (x.2 * e)).take e) ((bs.drop (l.length * e + x.2 * c)).take c)) s

/-- Shards that have come whole. -/
def shardsGot (t : TGrp) (g : GatherOp) : Nat :=
  ((List.range t.shards).filter fun k => g.asked.any (fun a => a.1 % t.shards = k) && g.asked.all fun a => a.1 % t.shards ≠ k || g.got.contains a.1).length

/-- GATHER issues with the working copy's space at address a of tier `tier` (R89, R214, R215). -/
def gatherBegin (s : State) (r : Req) (m w tier a fmt grp : Nat) (idx : Option (Nat × Nat)) (rows : List Nat) : State :=
  let t := s.tgrp grp
  let s := bindAt s w tier a (s.obj w).rawlen
  let s := holdAll s ([m, w] ++ (match idx with | some (ix, _) => [ix] | none => []))
  let s := s.setTgrp grp { t with nextseq := (t.nextseq + 1) % 2 ^ 32 }
  let id := nextId s
  (accept s { id := 0, req := r, kind := .gather { m := m, w := w, fmt := fmt, grp := grp, sequence := t.nextseq, idx := idx, rows := rows }, cls := 3 } true).todo (.tryOp id)

/-- Serving operations of a gather that have not ended. -/
def servesOf (s : State) (o : Nat) : List Op := s.ops.filter fun q => match q.kind with
  | .serve p _ _ _ => p = o
  | _ => false

/-- A member's request is served from the own slice, piece by piece as it is written, or, with rows, from the master (R214). -/
def startServe (s : State) (o : Op) (g : GatherOp) (dst : Nat) (rows : List Nat) : State :=
  let t := s.tgrp g.grp
  let own := (ownMember s t).shard
  let (rd, n) := match g.idx with
    | none => (sliceSegs s t g [own], shardBytes t g own)
    | some (_, rb) =>
      (rows.map fun v => partSeg s g.m (v * rb % t.shardLen) (min rb (t.shardLen - v * rb % t.shardLen)),
       rows.length * ((sliceOf t g 0).1.2 + (sliceOf t g 0).2.2))
  let s := match g.idx with
    | none => s
    | some (_, rb) => rows.foldl (fun s v => (castWords s g (rowWords s t g.m rb v)).1) s
  let id := nextId s
  let wr := [peerSeg s dst n]
  (accept s { id := 0, req := { part := o.req.part }, kind := .serve o.id dst g.grp rows, cls := 3, phase := .running, acct := o.acct, x := if g.idx = none then mkXfer rd wr else mkStream rd wr } true).todo (.tryOp id)

/-- A burst of a serve may issue: the piece of the own slice that it reads has been written (R214). -/
def serveOk (s : State) (o : Op) (b : Burst) : Bool :=
  match o.kind with
  | .serve par _ _ _ => b.wr || match s.op par with
    | some q => match q.kind with
      | .gather g => g.cast || g.idx.isSome || b.pos + b.len ≤ upTo s q true
      | _ => true
    | none => true
  | _ => true

/-- A shard request (R212, R214): served once the own GATHER of that sequence number has issued, discarded because the group has completed that number, or held. -/
def shardReq (s : State) (p src grp shard sequence : Nat) (rows : List Nat) : State :=
  let t := s.tgrp grp
  let stale := s.setTgrp grp { t with stale := satAdd 32 t.stale 1 }
  let held := addRdv s (.shard p src grp shard sequence rows)
  if !grpFor s p 0 grp then held
  else
    match gatherOn s grp with
    | some (o, g) =>
      if g.sequence = sequence then if o.phase = .running then startServe s o g src rows else held
      else if (g.sequence + 2 ^ 32 - sequence) % 2 ^ 32 < 2 ^ 31 then stale else held
    | none => if (t.nextseq + 2 ^ 32 - sequence) % 2 ^ 32 - 1 < 2 ^ 31 ∧ t.nextseq ≠ sequence then stale else held

/-- The held requests of a group are looked at again. -/
def rdvShards (s : State) (grp : Nat) : State :=
  let l := s.rdv.filter fun r => match r with
    | .shard _ _ g _ _ _ => g = grp
    | _ => false
  l.foldl (fun s r => match r with
    | .shard p src g k n rows => shardReq (dropRdv s r) p src g k n rows
    | _ => s) s

/-- A gather starts once no snapshot reads its master: the own part is read and cast, the shards are asked for, the requests that came before it are served. -/
def gatherStart (s : State) (o : Op) (g : GatherOp) : State :=
  let t := s.tgrp g.grp
  let p := o.req.part
  let own := (ownMember s t).shard
  let ks := (List.range t.shards).filter fun k => k ≠ own && rowsOf t g k ≠ []
  let g := { g with asked := (ks.flatMap (unitsOf t g)).map fun u => let l := askOrder s t (u % t.shards); (u, l.headD 0, l.tail) }
  let (s, g) := askAll s o t g
  let s := match g.idx with
    | some (_, rb) => movAdd s p 3 (g.rows.filter fun v => v ≠ 0xFFFFFFFF && rowShard t rb v = none).length
    | none => s
  let x := { mkStream (ownReads s t g) (sliceSegs s t g (ownSlices s t g)) with aux := idxReads s t g }
  rdvShards ((setGather s { o with phase := .running, x := x.pass } g).todo (.tryOp o.id)) g.grp

/-- Units that have arrived whole are written, once the own part is cast. -/
def landShards (s : State) (o : Op) (g : GatherOp) : State :=
  let t := s.tgrp g.grp
  let full := g.bufs.filter fun b => b.2.length = shardBytes t g b.1
  let s := full.foldl (fun s b => putShard s t g b.1 b.2) s
  let us := full.map fun b => b.1
  let segs := us.flatMap fun u => sliceSegs s t g (unitRows t g u)
  let x := o.x
  setGather s { o with x := { x with wr := x.wr ++ segs }.pass } { g with bufs := g.bufs.filter fun b => !us.contains b.1, got := g.got ++ us }

/-- The own part has been read and written: it is cast, the requests that waited for it are served (R213, R214). -/
def gatherCast (s : State) (o : Op) (g : GatherOp) : State :=
  let t := s.tgrp g.grp
  let s := match g.idx with
    | none =>
      let (s, el, sc) := castWords s g (fp32s t.elems (objBytes s g.m 0 t.shardLen))
      putSlice s t g (ownMember s t).shard el sc
    | some (_, rb) =>
      (ownSlices s t g).foldl (fun s i =>
        let v := (g.rows[i]?).getD 0
        match rowShard t rb v with
        | some _ => let (s, el, sc) := castWords s g (rowWords s t g.m rb v); putSlice s t g i el sc
        | none => putSlice s t g i (List.replicate (sliceOf t g i).1.2 0) (List.replicate (sliceOf t g i).2.2 0)) s
  let g := { g with cast := true }
  let s := landShards (setGather s o g) o g
  ((servesOf s o.id).foldl (fun s q => s.todo (.tryOp q.id)) s).todo (.tryOp o.id)

/-- Every unit is there and every request served: the final read-backs go out. -/
def gatherFull (s : State) (o : Op) (g : GatherOp) : Bool := g.cast && g.got.length = g.asked.length && servesOf s o.id = []

/-- The end of a GATHER (R89, R215). -/
def gatherEnd (s : State) (o : Op) (g : GatherOp) (status : Nat) : State :=
  let held := [g.m, g.w] ++ (match g.idx with | some (ix, _) => [ix] | none => [])
  let s := if status = 0 then makeResident s g.w (s.obj g.w).disp else s
  let res : Res := { status := status, handle := handleOf s g.w, detail := min 0xFFFF (shardsGot (s.tgrp g.grp) g), result := if status = 0 then (s.obj g.w).homeaddr else 0, quiet := status = 0x10 }
  let s := unholdAll s held
  let s := if status = 0 then s else unbind s g.w
  rdvShards (endOp s o res) g.grp

/-- A gather is looked at: started, ended, or taken on to its read-backs. -/
def gatherTry (s : State) (o : Op) (g : GatherOp) : State :=
  match o.phase with
  | .queued => if snapHeld s [g.m] then s else gatherStart s o g
  | .ending =>
    let s := (servesOf s o.id).foldl (fun s q => stopOp s q 0x10) s
    if quiet s o.id ∧ servesOf s o.id = [] then gatherEnd s o g o.endStatus else s
  | _ => if gatherFull s o g then issueReadBacks s o else s

/-- MOVE_DONE of a gather: the own part is complete, or the whole of it is. -/
def gatherReady (s : State) (o : Op) (g : GatherOp) : Bool :=
  o.phase = .running && if g.cast then gatherFull s o g && xferDone s o else sidesDone o.x && quiet s o.id
def gatherDone (s : State) (o : Op) (g : GatherOp) : State :=
  let bad := if o.x.srcBad then 0x12 else o.x.bad
  if bad ≠ 0 then stopOp s o bad
  else if g.cast then gatherEnd s o g 0 else gatherCast s o g

/-- A serving operation ends; its gather is looked at again. -/
def serveEnd (s : State) (o : Op) (par : Nat) : State := (s.delOp o.id).todo (.tryOp par)

/-- Data of a shard (R214, log entry 8): it belongs to the request that is out to that carrier and is taken in order; its bytes are charged at this end too. -/
def gatherData (s : State) (p src grp off : Nat) (bs : List Byte) : State :=
  match gatherOn s grp with
  | some (o, g) =>
    let t := s.tgrp grp
    match g.asked.find? fun a => a.2.1 = src && g.sent.contains a.1 && !(gotUnits t g).contains a.1 with
    | some a =>
      let have_ := ((g.bufs.find? fun b => b.1 = a.1).map fun b => b.2).getD []
      if off ≠ have_.length ∨ o.phase = .ending ∨ o.req.part ≠ p then s
      else
        let s := chargeIn s p 3 bs.length o.acct
        let g := { g with bufs := tset g.bufs a.1 ((have_ ++ bs).take (shardBytes t g a.1)) }
        let (s, g) := askNext s o t g src
        let s := setGather s o g
        if g.cast then (landShards s o g).todo (.tryOp o.id) else s
    | none => s
  | none => s

/-- A carrier has failed for a gather (R214, R251, R253): its requests go to the next member, or the gather ends. -/
def gatherPeer (s : State) (o : Op) (g : GatherOp) (c status : Nat) : State :=
  let t := s.tgrp g.grp
  let done := gotUnits t g
  let hit := g.asked.filter fun a => a.2.1 = c && !done.contains a.1
  if o.phase = .ending then s
  else if status ≠ 0x30 ∨ hit.any (fun a => a.2.2 = []) then stopOp s o status
  else
    let g := { g with asked := g.asked.map fun a => if a.2.1 = c && !done.contains a.1 then (a.1, a.2.2.headD 0, a.2.2.tail) else a
                      sent := g.sent.filter fun u => !hit.any fun a => a.1 = u
                      bufs := g.bufs.filter fun b => !hit.any fun a => a.1 = b.1 }
    let (s, g) := askAll s o t g
    setGather s o g

end Sys2Proof.Machine
end

