-- ==== Sys2Proof/Machine/Hawthorn.lean ====
section
/-!
DEFINITION. Hawthorn barriers (R243 to R246): arrivals, tokens, the verify pass, release. A token, VERIFY, VREPLY or RELEASE between two nodes of this carrier is delivered
without a packet; `n` bounds the nodes a delivery passes (a tree has at most five levels).
-/

namespace Sys2Proof.Machine

/-- Fields of a node (Table 9.7) and of its child entries. -/
def nodeWord (s : State) (n : Nat) : Nat := reg s (0xB4000 + 0x10 * n)
def nodeValid (s : State) (n : Nat) : Bool := n < 64 && bitOf (nodeWord s n) 0
def nodeRoot (s : State) (n : Nat) : Bool := bitOf (nodeWord s n) 1
def nodeLeaf (s : State) (n : Nat) : Bool := bitOf (nodeWord s n) 2
def nodeKids (s : State) (n : Nat) : Nat := bitsOf (nodeWord s n) 15 12 + 1
def nodeGrp (s : State) (n : Nat) : Nat := bitsOf (nodeWord s n) 23 16
def nodeSlot (s : State) (n : Nat) : Nat := bitsOf (nodeWord s n) 27 24
def nodePcarr (s : State) (n : Nat) : Nat := bitsOf (nodeWord s n) 47 32
def nodePnode (s : State) (n : Nat) : Nat := bitsOf (nodeWord s n) 53 48
def childWord (s : State) (n i : Nat) : Nat := reg s (0xB5000 + 0x40 * n + 4 * i)
/-- Slots of a node with a valid child. -/
def kidSlots (s : State) (n : Nat) : List Nat := (List.range (nodeKids s n)).filter fun i => bitOf (childWord s n i) 31

def barValid (s : State) (g : Nat) : Bool := bitOf (s.bar g).cfg 0
def barPart (s : State) (g : Nat) : Nat := bitsOf (s.bar g).cfg 7 4
def barLeaf (s : State) (g : Nat) : Nat := bitsOf (s.bar g).cfg 21 16
/-- The group that BAR names (R243). -/
def barFor (s : State) (p lg : Nat) : Option Nat :=
  (s.bars.find? fun e => bitOf e.2.cfg 0 && bitsOf e.2.cfg 7 4 = p && bitsOf e.2.cfg 15 8 = lg).map fun e => e.1
/-- The context is a child of the group's leaf. -/
def barChild (s : State) (g c : Nat) : Bool := (kidSlots s (barLeaf s g)).any fun i => bitsOf (childWord s (barLeaf s g) i) 7 0 = c
/-- Nodes of a group on this carrier. -/
def nodesOf (s : State) (g : Nat) : List Nat := (List.range 64).filter fun n => nodeValid s n && nodeGrp s n = g

/-- Two tuples agree (R244). -/
def Tuple.agrees (a b : Tuple) : Bool := a.digest = b.digest && a.fmt = b.fmt && a.step = b.step

/-- The combination of a node's tuples (R244): the reference, with `mixed`. Entries stand in slot or context order. -/
def combine (l : List (Nat × Tuple)) : Tuple :=
  match l with
  | [] => {}
  | e :: r =>
    let ref := (r.foldl (fun (m : Nat × Tuple) x => if x.2.mincarr < m.2.mincarr then x else m) e).2
    { ref with mixed := l.any fun x => x.2.mixed || !x.2.agrees ref }

/-- Payload words of Table 9.4: DIGEST, STEP, FMT, FLAGS, CARR, NDIS. -/
def hawPay (t : Tuple) (mismatch : Bool) (carr ndis : Nat) : List Nat := [t.digest, t.step, t.fmt, b2n t.mixed + 2 * b2n mismatch, carr, ndis]
/-- The ID of a Hawthorn packet (Table 9.2): target node, slot, sending node. -/
def hawId (target slot sender : Nat) : Nat := target + slot * 2 ^ 8 + sender * 2 ^ 16

/-- A Hawthorn packet that no node accepts (R244). -/
def hawError (s : State) (n gen : Nat) : State :=
  let g := nodeGrp s n
  let s := peerCount s 6 1
  let s := if nodeValid s n then s.setBar g { s.bar g with generr := satAdd 32 (s.bar g).generr 1 } else s
  evG s 11 (if nodeValid s n then g else 0) 0x1C (gen % 2 ^ 32)

/-- A group of a node accepts messages of its current generation. -/
def genOk (s : State) (n gen : Nat) : Bool := nodeValid s n && barValid s (nodeGrp s n) && (s.bar (nodeGrp s n)).gen = gen

/-- An outcome reaches a context (R246): its BAR retires, or the outcome is latched. `by_` is the carrier the release came from (log entry 27). -/
def releaseCtx (s : State) (g c : Nat) (by_ : Nat) (status result : Nat) : State :=
  let v := s.ctx c
  let s := trace s (barPart s g) 10 5 (.ctx c) (.carrier by_) g by_ (status + result * 2 ^ 32)
  match v.waitKind, v.waiting with
  | 2, some r =>
    if v.waitOn = g then (complete (retireWait s c 16 (.carrier by_)) r { status := status, result := result, quiet := false } false).todo (.ctxCheck c)
    else s.setBar g { s.bar g with latched := (s.bar g).latched ++ [(c, status, result)] }
  | _, _ => s.setBar g { s.bar g with latched := (s.bar g).latched.filter (fun l => l.1 ≠ c) ++ [(c, status, result)] }

/-- A node is released (R245): it passes the release on, its arrivals are cleared, the group's GEN goes on. -/
def releaseNode : Nat → State → Nat → Nat → Nat → Bool → Nat → Nat → State
  | 0, s, _, _, _, _, _, _ => s
  | f + 1, s, n, gen, by_, mismatch, carr, ndis =>
    let g := nodeGrp s n
    let h := s.node n
    if h.arrived = [] then s
    else
      let p := barPart s g
      let b := s.bar g
      let s := if b.gen = gen then s.setBar g { b with gen := (gen + 1) % 2 ^ 32, mism := if mismatch then satAdd 32 b.mism 1 else b.mism } else s
      let s := s.setNode n {}
      if nodeLeaf s n then
        let result := if mismatch then carr + min ndis 0xFFFF * 65536 else 0
        let s := if mismatch then raiseEv s p 11 g [(0x18, result)] else s
        h.arrived.foldl (fun s e => releaseCtx s g e.1 by_ (if mismatch then 0x23 else 0) result) s
      else
        (kidSlots s n).foldl (fun s i =>
          let w := childWord s n i
          if bitsOf w 15 0 = myCarrier s p then releaseNode f s (bitsOf w 21 16) gen (myCarrier s p) mismatch carr ndis
          else sendPkt s p (bitsOf w 15 0) pRelease (hawId (bitsOf w 21 16) i n) gen (hawPay {} mismatch carr ndis) 64) s

/-- The disagreeing count and the lowest disagreeing carrier of two parts (R245). -/
def addDis (a b : Nat × Nat) : Nat × Nat := (a.1 + b.1, if a.1 = 0 then b.2 else if b.1 = 0 then a.2 else min a.2 b.2)

/-- A reply of the verify pass goes from node n to its parent, or ends the pass at the root (R245). -/
def replyUp : Nat → State → Nat → Nat → Nat × Nat → State
  | 0, s, _, _, _ => s
  | f + 1, s, n, gen, d =>
    let p := barPart s (nodeGrp s n)
    if nodeRoot s n then releaseNode 8 s n gen (myCarrier s p) true d.2 d.1
    else if nodePcarr s n = myCarrier s p then
      let m := nodePnode s n
      let h := s.node m
      let replies := h.replies ++ [(nodeSlot s n, d.1, d.2)]
      let s := s.setNode m { h with replies := replies }
      if replies.length = (kidSlots s m).length then replyUp f s m gen (replies.foldl (fun a r => addDis a (r.2.1, r.2.2)) (0, 0)) else s
    else sendPkt s p (nodePcarr s n) pVreply (hawId (nodePnode s n) (nodeSlot s n) n) gen (hawPay {} false d.2 d.1) 64

/-- The verify pass reaches node n (R245). -/
def verifyNode : Nat → State → Nat → Nat → Tuple → State
  | 0, s, _, _, _ => s
  | f + 1, s, n, gen, ref =>
    let p := barPart s (nodeGrp s n)
    let h := s.node n
    if !nodeValid s n then s else
    let s := s.setNode n { h with verifying := true, ref := ref, replies := [] }
    if nodeLeaf s n then replyUp 8 s n gen (if h.arrived.any fun e => !e.2.agrees ref then (1, myCarrier s p) else (0, 0))
    else
      (kidSlots s n).foldl (fun s i =>
        let w := childWord s n i
        if bitsOf w 15 0 = myCarrier s p then verifyNode f s (bitsOf w 21 16) gen ref
        else sendPkt s p (bitsOf w 15 0) pVerify (hawId (bitsOf w 21 16) i n) gen (hawPay ref false 0 0) 64) s

/-- Node n accepts a token of generation `gen` for a slot: the first of that slot in its group's generation (R244). -/
def tokenOk (s : State) (n slot gen : Nat) : Bool :=
  genOk s n gen && !nodeLeaf s n && (kidSlots s n).contains slot && !(s.node n).arrived.any fun e => e.1 = slot

/-- A tuple arrives at a slot of node n, or from a context at a leaf; when the last has come the node combines (R244). -/
def arriveNode : Nat → State → Nat → Nat → Tuple → State
  | 0, s, _, _, _ => s
  | f + 1, s, n, slot, t =>
    let g := nodeGrp s n
    let p := barPart s g
    let h := s.node n
    let l := tset h.arrived slot t
    let s := s.setNode n { h with arrived := l }
    if l.length < (kidSlots s n).length then s
    else
      let ref := combine l
      let gen := (s.bar g).gen
      if nodeRoot s n then if ref.mixed then verifyNode 8 s n gen ref else releaseNode 8 s n gen (myCarrier s p) false 0 0
      else if nodePcarr s n = myCarrier s p then if tokenOk s (nodePnode s n) (nodeSlot s n) gen then arriveNode f s (nodePnode s n) (nodeSlot s n) ref else hawError s (nodePnode s n) gen
      else sendPkt s p (nodePcarr s n) pToken (hawId (nodePnode s n) (nodeSlot s n) n) gen (hawPay ref false ref.mincarr 0) 64

/-- A context's BAR arrives at its group's leaf (R244, R246). -/
def arriveCtx (s : State) (g c : Nat) : State :=
  let v := s.ctx c
  let s := trace s (barPart s g) 10 4 (.ctx c) .none g 0 0
  arriveNode 8 s (barLeaf s g) c { digest := v.plan.digest, fmt := v.plan.format, step := v.step, mincarr := myCarrier s (barPart s g) }

/-- TOKEN (R244). -/
def tokenIn (s : State) (n slot gen : Nat) (t : Tuple) : State :=
  if tokenOk s n slot gen then arriveNode 8 s n slot t else hawError s n gen

/-- VERIFY (R245). -/
def verifyIn (s : State) (n gen : Nat) (ref : Tuple) : State := if genOk s n gen then verifyNode 8 s n gen ref else hawError s n gen

/-- VREPLY (R245). -/
def vreplyIn (s : State) (n slot gen ndis carr : Nat) : State :=
  let h := s.node n
  if !genOk s n gen || !h.verifying || !(kidSlots s n).contains slot || h.replies.any (fun r => r.1 = slot) then hawError s n gen
  else
    let replies := h.replies ++ [(slot, ndis, carr)]
    let s := s.setNode n { h with replies := replies }
    if replies.length = (kidSlots s n).length then replyUp 8 s n gen (replies.foldl (fun a r => addDis a (r.2.1, r.2.2)) (0, 0)) else s

/-- RELEASE (R245): of the current generation, or of the one that another node of this carrier has already released. -/
def releaseIn (s : State) (n gen by_ : Nat) (mismatch : Bool) (carr ndis : Nat) : State :=
  let b := s.bar (nodeGrp s n)
  if nodeValid s n && barValid s (nodeGrp s n) && (b.gen = gen || b.gen = (gen + 1) % 2 ^ 32) && (s.node n).arrived ≠ [] then
    releaseNode 8 s n gen by_ mismatch carr ndis
  else hawError s n gen

end Sys2Proof.Machine
end

