-- ==== Sys2Proof/Machine/Peers.lean ====
section
/-!
DEFINITION. Peer packets received (R248 to R253), the loss of a carrier (R251), RELINK.
-/

namespace Sys2Proof.Machine

/-- PKT_RECV (R346). -/
def traceRecv (s : State) (p src typ cls n : Nat) : State :=
  let shift := bitsOf (reg s (0xB9200 + 0x10 * p + 8)) 15 12
  if isHawthorn typ ∨ (typ ≠ pHello ∧ typ ≠ pAck ∧ typ ≠ pNak ∧ n % 2 ^ shift = 0) then trace s p 11 7 .none .none (src + cls * 65536) n typ else s

/-- PROTO is counted and PEER_PROTO posted (R250). -/
def protoError (s : State) (src : Nat) : State := evG (peerCount s 0 1) 5 src 0x1B 0

/-- Packets of a carrier's streams go out from a sequence number on, or HELLO while they are not open. -/
def resend (s : State) (dst cls fromSeq : Nat) : State :=
  if (s.peer dst).opened then resendFrom s dst cls fromSeq
  else
    match (s.stream dst cls).unacked with
    | k :: _ => sendHello s ((tagPart s k.jobtag).getD 0) dst
    | [] => s

/-- What a packet's header must pass before it is looked at (R250); the packet's own effect is `f` on the partition its JOBTAG names. -/
def receive (s : State) (h : Hdr) (typ bytes : Nat) (f : State → Nat → State) : State :=
  let src := h.src.toNat
  let cls := h.cls.toNat
  let s := (s.gadd 0x248 1).gadd 0x160 (pktBytes bytes)
  let p := tagPart s h.jobtag.toNat
  if !h.crcOk then sendNak (peerCount s 1 1) (p.getD 0) src cls false
  else
    match p with
    | none => peerCount s 5 1
    | some p =>
      if h.dst.toNat ≠ myCarrier s p then peerCount s 5 1
      else if !h.known then protoError s src
      else if (if typ ≤ pNak then cls = 3 ∨ (typ = pHello ∧ cls ≠ 0) else cls ≠ pktClass typ) then protoError s src
      else
        let s := traceRecv s p src typ cls h.seq.toNat
        let s := if h.ackv then ackStream s src cls h.ack.toNat else s
        f s p

/-- A sequenced packet (R250, R252, R307): taken in order, otherwise discarded with the answer its distance asks for. -/
def sequenced (s : State) (h : Hdr) (typ bytes : Nat) (f : State → Nat → State) : State :=
  receive s h typ bytes fun s p =>
    let src := h.src.toNat
    let cls := h.cls.toNat
    let t := s.stream src cls
    let q := h.seq.toNat
    if s.fw.level = 3 then sendNak s p src cls true
    else if q = t.rxExp then
      if cls = 1 ∧ rdvFull s then if t.busyNak then s else sendNak s p src cls true
      else f (sendAck (s.setStream src cls { t with rxExp := (q + 1) % 2 ^ 24, nakSent := false, busyNak := false }) p src cls) p
    else if (t.rxExp + 2 ^ 24 - q) % 2 ^ 24 ≤ 2 ^ 22 then sendAck s p src cls
    else if (q + 2 ^ 24 - t.rxExp) % 2 ^ 24 < 2 ^ 22 then if t.nakSent then s else sendNak s p src cls false
    else protoError s src

/-- ACK carries its acknowledgement in the header. -/
def ackIn (s : State) (h : Hdr) : State := receive s h pAck 0 fun s _ => s

/-- NAK (R251, R252): the stream is resent from the number it expects, after a wait where the receiver is busy. -/
def nakIn (s : State) (h : Hdr) : State :=
  receive s h pNak 0 fun s _ =>
    let src := h.src.toNat
    let cls := h.cls.toNat
    let e := bitsOf h.arg.toNat 23 0
    let s := ackStream s src cls e
    if bitOf h.arg.toNat 32 then (peerCount s 4 1).setStream src cls { s.stream src cls with txBusy := true, progress := s.now }
    else resend s src cls e

/-- The streams with a carrier start again from 0 (R251); packets that wait are numbered afresh. -/
def reopen (s : State) (k : Nat) : State :=
  [0, 1, 2].foldl (fun s cls =>
    let t := s.stream k cls
    let l := (t.unacked.zip (List.range t.unacked.length)).map fun e => { e.1 with seq := e.2 }
    s.setStream k cls { txNext := l.length, unacked := l, stalled := t.stalled, progress := s.now }) s

/-- An operation loses a carrier (R251, R253). -/
def losePeer (s : State) (o : Op) (k status : Nat) : State :=
  match o.kind with
  | .gather g => gatherPeer s o g k status
  | _ => stopOp s o status
def losePeers (s : State) (k status : Nat) : State :=
  (s.ops.filter fun o => (opPeers s o).contains k).foldl (fun s o => match s.op o.id with
    | some o => losePeer s o k status
    | none => s) s

/-- The status of operations to a carrier that is DOWN or whose version was refused; none while there is no bar. -/
def peerBar (s : State) (k : Nat) : Option Nat :=
  let v := s.peer k
  if v.refused then some 0x22 else if v.down then some 0x30 else none
/-- An operation that names such a carrier ends. -/
def barredPeer (s : State) (o : Op) : Option (Nat × Nat) :=
  if o.phase = .ending then none else (opPeers s o).findSome? fun k => (peerBar s k).map fun st => (k, st)

/-- HELLO (R253): the streams open in the lower of the two highest versions, or not at all. ARG [0] marks the answer to a HELLO; any other opens the streams afresh (R249, log
entry 8). -/
def helloIn (s : State) (h : Hdr) (maxVer ncarr jobtag : Nat) : State :=
  receive s h pHello 64 fun s p =>
    let k := h.src.toNat
    let v := s.peer k
    if ncarr ≠ jobSize s p ∨ jobtag ≠ jobTag s p ∨ maxVer = 0 then
      let s := s.setPeer k { v with opened := false, refused := true }
      losePeers (evGP s 5 k 0x1D maxVer) k 0x22
    else if v.opened ∧ bitOf h.arg.toNat 0 then s
    else
      let s := if v.opened then reopen s k else s
      let s := s.setPeer k { v with opened := true, refused := false, down := false, ver := min maxVer 2 }
      let s := if bitOf h.arg.toNat 0 then s else sendHello s p k
      [0, 1, 2].foldl (fun s c => ((s.stream k c).unacked).foldl (fun s q => txPkt s p k q.typ c q.seq (outBytes q)) s) s

/-- A carrier is DOWN (R251): its packets are dropped, operations with traffic to it end. -/
def peerDown (s : State) (k : Nat) : State :=
  let s := s.setPeer k { s.peer k with down := true }
  let s := [0, 1, 2].foldl (fun s c => s.setStream k c { s.stream k c with unacked := [], stalled := [], resends := 0 }) { s with txq := s.txq.filter fun q => q.dst ≠ k }
  losePeers (evGP (peerCount s 7 1) 5 k 4 0) k 0x30

/-- A stream made no progress for REPLAY_US (R251, R252). -/
def replayDue (s : State) (k cls : Nat) : Bool :=
  let t := s.stream k cls
  t.unacked ≠ [] && !(s.peer k).down && !(s.peer k).refused && t.progress + replayNs s ≤ s.now
def replay (s : State) (k cls : Nat) : State :=
  let t := s.stream k cls
  if !t.txBusy ∧ retryMax s ≤ t.resends then peerDown s k
  else
    let s := s.setStream k cls { t with txBusy := false, resends := if t.txBusy then t.resends else t.resends + 1, progress := s.now }
    match t.unacked with
    | q :: _ => resend s k cls q.seq
    | [] => s

/-- RELINK of a carrier (R251): its streams are reopened with HELLO. -/
def relinkOne (s : State) (k : Nat) : State :=
  match (List.range 16).find? fun p => inJob s p k with
  | none => s
  | some p =>
    let s := reopen s k
    sendHello (s.setPeer k {}) p k
def downPeers (s : State) : List Nat := (s.peers.filter fun e => e.2.down).map fun e => e.1

/-- Fields of the ID of an exchange's packets (log entry 8). -/
def idIsChan (i : Nat) : Bool := bitOf i 16
def idCh (i : Nat) : Nat := bitsOf i 15 0
def idKey (i : Nat) : Nat := bitsOf i 31 17

/-- SHARDREQ (R214), or the request for an exchange's data (log entry 8). -/
def shardreqIn (s : State) (h : Hdr) (shard sequence : Nat) (rows : List Nat) : State :=
  sequenced s h pShardreq (8 + 4 * rows.length) fun s p =>
    let i := h.id.toNat
    let src := h.src.toNat
    if idIsChan i then sendAsked s p src (idCh i) (idKey i) else shardReq s p src (idCh i) shard sequence rows

/-- XNOTICE (R231). -/
def xnoticeIn (s : State) (h : Hdr) (index rawlen : Nat) (enc prot : Bool) : State :=
  sequenced s h pXnotice 64 fun s p =>
    let src := h.src.toNat
    let ch := idCh h.id.toNat
    let s := addRdv s (.xnotice p src ch index rawlen enc prot)
    match recvFor s p src ch (index % 32768) with
    | some (o, _) => s.todo (.tryOp o.id)
    | none => s

/-- CNOTICE (R221, R222). -/
def cnoticeIn (s : State) (h : Hdr) (step len : Nat) : State :=
  sequenced s h pCnotice 64 fun s p =>
    let i := h.id.toNat
    if idCh i < 0x8000 ∨ 0x8400 ≤ idCh i then s else contribNotice s p h.src.toNat (idCh i - 0x8000) (idKey i) step len false

/-- DATA (R214, R221, R232). The bytes of a contribution are charged to LAND at this end too (R221, log entry 151). -/
def dataIn (s : State) (h : Hdr) (bs : List Byte) : State :=
  sequenced s h pData bs.length fun s p =>
    let i := h.id.toNat
    let src := h.src.toNat
    let off := h.arg.toNat
    if !idIsChan i then gatherData s p src (idCh i) off bs
    else if 0x8000 ≤ idCh i then
      match contribFor s p src (idCh i - 0x8000) (idKey i) with
      | some (o, c) => if o.phase = .ending ∨ off ≠ c.buf.length then s else contribData (chargeIn s p 5 bs.length o.acct) o c off bs
      | none => s
    else
      match recvFor s p src (idCh i) (idKey i) with
      | some (o, v) => recvData s o v off bs
      | none => s

/-- RDONE (R232) and DECLINE (R225, R231). A DECLINE carries the status the sender's XCHG ends with in ARG [7:0]; one that Table 0.5 does not assign ends it with PERMISSION (R5, R6,
log entry 8). -/
def rdoneIn (s : State) (h : Hdr) : State :=
  sequenced s h pRdone 0 fun s p => sendOver s p h.src.toNat (idCh h.id.toNat) (idKey h.id.toNat) 0 1
def declineIn (s : State) (h : Hdr) : State :=
  sequenced s h pDecline 0 fun s p =>
    let st := h.arg.toNat % 256
    sendOver s p h.src.toNat (idCh h.id.toNat) (idKey h.id.toNat) (if assigned st then st else 0x20) 0

/-- Hawthorn packets: target node, slot, GEN and payload (Tables 9.2 and 9.4). -/
def hawIn (s : State) (h : Hdr) (typ : Nat) (f : State → Nat → Nat → Nat → State) : State :=
  sequenced s h typ 64 fun s _ => f s (bitsOf h.id.toNat 5 0) (bitsOf h.id.toNat 11 8) h.arg.toNat
def tupleOf (t : HawPay) : Tuple := { digest := t.digest.toNat, fmt := t.fmt.toNat, step := t.step.toNat, mincarr := t.carr.toNat, mixed := t.mixed }

end Sys2Proof.Machine
end

