-- ==== Sys2Proof/Machine/Slots.lean ====
section
/-!
DEFINITION. Which bursts can go in a core clock (R182, R196, R276, R279), their issue at a port or as peer packets, and the burst slot of a port group (R125 to R127).
-/

namespace Sys2Proof.Machine

/-- The carrier that an operation's data goes to, and the ID of its packets. -/
def dataTo (s : State) (o : Op) : Nat × Nat :=
  match o.kind with
  | .serve _ dst grp _ => (dst, grp)
  | .xsend x => (x.peer, idXchg x.chan x.n)
  | _ => (myCarrier s o.req.part, 0)

/-- Data to another carrier goes out in the order of its bytes (log entry 8), into a stream with room (R249). -/
def peerOk (s : State) (o : Op) (b : Burst) : Bool :=
  let k := (dataTo s o).1
  b.tier ≠ 5 || ((s.peer k).opened && streamRoom s k 2 && (s.stream k 2).stalled = [] && o.x.opens.all fun e => b.pos ≤ e.off || e.st = 2)

/-- A burst of the host group has its page's translation and a request slot of its port (R276, R279). -/
def hostOk (s : State) (o : Op) (b : Burst) (port : Nat) : Bool :=
  b.tier ≠ 3 || (translated s o.req.part b.off && hostSlotFree s port o.cls b.rb && !s.hostl.detached)

/-- The burst can go now: its port is LIVE and ready with a free tag, its channel has one, and nothing that the transfer waits for holds it back. -/
def burstReady (s : State) (ports : Nat) (o : Op) (b : Burst) : Bool :=
  match burstPort s b with
  | none => false
  | some n => bitOf ports n && !portFull s n b.wr && chanReady s o && paceOk s o b && peerOk s o b && hostOk s o b n && serveOk s o b && stagingOk o b

/-- The candidates of group g: the requests of the transfers, and the units of the recipes. -/
def candidates (s : State) (g ports : Nat) : List Cand :=
  s.ops.flatMap fun o =>
    let bursts := (nextBursts o).filter fun b => groupOf b.tier = g && burstReady s ports o b
    let bs := bursts.map fun b => ({ o := o, b := some b, credits := if o.x.free ∨ b.again then 0 else creditsOf b.len } : Cand)
    let us := match o.recipe? with
      | some r => match (if g = 0 ∧ r.temps = [] ∧ !r.reading then unitStep s r else none) with
        | some i => [({ o := o, b := none, unit := i, credits := 64 } : Cand)]
        | none => []
      | none => []
    bs ++ us

/-- A burst of data to another carrier goes out as one DATA packet of its stream (R248, R249), in the port request that the burst takes (R268). After the last bytes of an encoded
exchange an empty packet follows (log entry 8). -/
def sendData (s : State) (o : Op) (b : Burst) : State :=
  let p := o.req.part
  let (dst, id) := dataTo s o
  let shift := bitsOf (reg s (0xB9200 + 0x10 * p + 8)) 15 12
  let (s, n) := queuePkt s { typ := pData, dst := dst, jobtag := jobTag s p, id := id, arg := b.off, pay := [b.len] }
  let s := (s.gadd 0x168 (pktBytes b.len - b.len)).gadd 0x240 1
  let s := match n with
    | some n => if n % 2 ^ shift = 0 then trace s p 11 6 .none .none (dst + 2 * 65536) n pData else s
    | none => s
  match o.kind with
  | .xsend x => if (s.obj x.x).form = .enc ∧ b.off + b.len = (s.obj x.x).storlen then sendPkt s p dst pData id (b.off + b.len) [0] 0 else s
  | _ => s

/-- A paced burst begins: it uses its line's grant (R196). -/
def beginPaced (s : State) (o : Op) (b : Burst) : State := match paceLine s o with
  | some l => if b.begins o then s.setLine l { s.line l with begun := true } else s
  | none => s

/-- Issue a candidate. -/
def issueCand (s : State) (c : Cand) : State :=
  match c.b with
  | some b => match burstPort s b with
    | some n => issueBurst (beginPaced (if b.tier = 5 then sendData s c.o b else s) c.o b) c.o b n
    | none => s
  | none => match c.o.recipe? with
    | some r => drawUnit s c.o r c.unit
    | none => s

/-- Contexts blocked by R128 go on once one of their held operations issues. -/
def wakeHeld (s : State) (o : Op) : State :=
  match o.req.who with
  | .ctx c => if (s.ctx c).waitKind = 7 then s.todo (.retryCtx c) else s
  | _ => s

/-- Pages that bursts of the host group and descriptor reads wait for are asked for (R276). -/
def askPages (s : State) : State :=
  if s.hostl.detached then s
  else
    let s := s.ops.foldl (fun s o => (nextBursts o).foldl (fun s b =>
      if b.tier = 3 ∧ ¬ translated s o.req.part b.off then askPage s o.req.part b.off else s) s) s
    s.chans.foldl (fun s e => match e.2.next with
      | some a => if tqaTier a = 3 ∧ inWindow s e.2.part a 64 ∧ ¬ translated s e.2.part (tqaOff a) then askPage s e.2.part (tqaOff a) else s
      | none => s) s

/-- The movers issue in at most one slot of this many: the stricter of droop (R285), OVERCLK (R306) and the throttle level (Table 11.8). -/
def slotRate (s : State) : Nat := if s.droopOn ∨ s.fw.level = 2 then 4 else if s.fw.overclk ∨ s.fw.level = 1 then 2 else 1

/-- The burst slot of group g in one core clock (next_burst of R127); none goes during a hard stop (R307). -/
def burstSlot (s : State) (g ports : Nat) : State :=
  if s.fw.level = 3 then s
  else
    let s := giveChans (if g = 2 then askPages s else s)
    let s := (s.ops.filter fun o => o.x.redo ≠ []).foldl (fun s o => flushRedo s o.id) s
    let gr := s.group g
    let skip := min gr.idle (slotRate s - 1)
    if skip ≠ 0 then s.setGroup g { gr with idle := skip - 1 }
    else if gr.closed then s
    else match choose s g (candidates s g ports) with
    | none => s
    | some (c, how) =>
      if groupCeil s g < gr.used + c.credits then s.setGroup g { gr with closed := true }
      else
        let s := charge s g c how
        wakeHeld (issueCand (s.setGroup g { s.group g with idle := slotRate s - 1 }) c) c.o

end Sys2Proof.Machine
end

