-- ==== Sys2Proof/Machine/Channels.lean ====
section
/-!
DEFINITION. Host-mode channels, descriptors and chains (R186 to R191, R199 to R201), pacing lines (R196 to R198).
-/

namespace Sys2Proof.Machine

/-- The paced operations whose next burst waits for absolute line l, oldest first. -/
def pacedOn (s : State) (l : Nat) : List Op :=
  s.ops.filter fun o => paceLine s o = some l && o.phase = .running && o.x.opens = [] && noTags s o.id && (newBursts o).any (Burst.begins o)

/-- A banked grant goes to the oldest paced burst waiting on the line (R196). -/
def giveGrant (s : State) (l : Nat) : State :=
  let v := s.line l
  if v.banked ∧ v.granted.isNone then
    match pacedOn s l with
    | o :: _ => s.setLine l { v with banked := false, granted := some o.id, begun := false }
    | [] => s
  else s

/-- The burst that used a grant has completed, its last beat accepted at the destination: the line re-arms (R196). Where the level is still 1 then, the next request, counted in the
same clock, is the next PACING_REQUEST. -/
def lineDone (s : State) (o : Op) : State :=
  match paceLine s o with
  | none => s
  | some l =>
    let v := s.line l
    if v.granted = some o.id ∧ v.begun ∧ o.x.opens = [] ∧ noTags s o.id then s.setLine l { v with granted := none, begun := false, armed := true, level := false, since := s.now } else s

/-- The grant of an operation that ends before its burst has begun goes back to the bank; one whose burst began is used up, and the line re-arms (R196). -/
def dropGrant (s : State) (o : Nat) : State :=
  { s with lines := s.lines.map fun (e : Nat × Line) =>
      if e.2.granted = some o then (e.1, if e.2.begun then { e.2 with granted := none, begun := false, armed := true, level := false, since := s.now } else { e.2 with granted := none, banked := true }) else e }

/-- A deadline that waited for a line is known (R110, R196). -/
def fixDl (l now : Nat) (d : Dl) : Dl := match d with
  | .line k off => if k = l then .at (now + off) else d
  | _ => d
def Req.fix (l now : Nat) (r : Req) : Req := { r with dl := fixDl l now r.dl }
def Wait.fix (l now : Nat) (w : Wait) : Wait := { w with req := w.req.fix l now }

/-- The first counted request on a line gives every operation that observes it its T_ev (R110, R115, R196). -/
def observeLine (s : State) (l : Nat) : State :=
  let hit := s.ops.filter fun o => (o.req :: o.more).any fun r => match r.dl with
    | .line k _ => k = l
    | _ => false
  let s := { s with objs := s.objs.map fun (e : Nat × Obj) => (e.1, { e.2 with queue := e.2.queue.map (Wait.fix l s.now), defers := e.2.defers.map (Wait.fix l s.now), fixed := e.2.fixed.map fun f => (f.1, f.2.fix l s.now), sealReq := e.2.sealReq.map (Req.fix l s.now) }),
                    ctxs := s.ctxs.map fun (e : Nat × Ctx) => (e.1, { e.2 with waiting := e.2.waiting.map (Req.fix l s.now) }) }
  hit.foldl (fun s o =>
    let o := { o with req := o.req.fix l s.now, more := o.more.map (Req.fix l s.now), dl := fixDl l s.now o.dl }
    let o := match o.kind, o.due with
      | .move x _ f false, some d =>
        let ob := s.obj x
        { o with lstart := latestStart s ob.part ob.home ob.storlen (if ob.form = .enc ∧ f = .raw then ob.rawlen else 0) d }
      | _, _ => o
    (s.setOp o).todo (.tryOp o.id)) s

/-- PACING_REQUEST: a counted request (R196). -/
def pacingRequest (s : State) (l : Nat) : State :=
  let s := s.setLine l { s.line l with level := true, armed := false, banked := true, since := s.now }
  observeLine (giveGrant s l) l

/-- STUCK_US in ns; 0 is read as 1 (Table 7.6). -/
def stuckNs (s : State) : Nat := max 1 (bitsOf (reg s 0x9E800) 31 16) * 1000
def clusterTmo (s : State) : Nat := max 1 (bitsOf (reg s 0x9E800) 15 0) * 1000

/-- The line is masked (R198, R271): paced transfers on it end with PORT_FAULT. `arg` tells a held level from the pair check. -/
def maskLine (s : State) (l p arg : Nat) : State :=
  let s := raiseEv (s.setLine l { s.line l with stuck := true, level := false }) p 9 l [(0x1A, arg)]
  (s.ops.filter fun o => paceLine s o = some l).foldl (fun s o => s.todo (.tryOp o.id)) s

/-- The 64 bytes of a descriptor (Table 7.1). -/
def parseDesc (w : Nat) : Desc where
  op := bitsOf w 3 0
  chain := bitOf w 4
  recf := bitOf w 5
  order := bitOf w 6
  seminc := bitOf w 7
  cls := bitsOf w 11 8
  pace := bitOf w 12
  rpop := bitOf w 13
  rpush := bitOf w 14
  pline := bitsOf w 23 16
  cq := bitsOf w 43 32
  sem := bitsOf w 60 48
  src := bitsOf w 127 64
  dst := bitsOf w 191 128
  len := bitsOf w 239 192
  aux := bitsOf w 319 256
  next := bitsOf w 383 320
  rowbytes := bitsOf w 415 384
  rin := bitsOf w 425 416
  rout := bitsOf w 441 432
  cookie := bitsOf w 511 448
  rsvBad := bitsOf w 15 15 ≠ 0 || bitsOf w 31 24 ≠ 0 || bitsOf w 47 44 ≠ 0 || bitsOf w 63 61 ≠ 0 || bitsOf w 255 240 ≠ 0 || bitsOf w 431 426 ≠ 0 || bitsOf w 447 442 ≠ 0

/-- The partition of a host-mode channel. -/
def chanPart (s : State) (ch : Nat) : Nat := (s.chan ch).part

/-- Descriptors of a channel in progress, and records of it that hold the channel (R188, R194). -/
def descOps (s : State) (ch : Nat) : List (Op × Nat) :=
  s.ops.filterMap fun o => match o.kind with
    | .desc c _ pos _ => if c = ch then some (o, pos) else none
    | _ => none
def heldRecs (s : State) (ch : Nat) : List Pend := s.pend.filter fun r => !r.entered && !r.reserve && r.chan = some ch
def chanHeld (s : State) (ch : Nat) : Nat := (heldRecs s ch).length

/-- The lowest position of a chain that has not completed: a descriptor whose record the pending store could not take has not (R194). -/
def oldestPos (s : State) (ch : Nat) : Nat :=
  let v := s.chan ch
  ((descOps s ch).map (fun e => e.2) ++ v.ready.map (fun e => e.1) ++ (heldRecs s ch).map fun r => r.pos).foldl min v.pos

/-- A channel that runs chains: RUN, or DRAINING. -/
def chanRuns (v : Chan) : Bool := v.st = 1 || v.st = 4

/-- The record of a descriptor (Table 7.2), with what follows it (R74, R190, R201). -/
def descRecord (s : State) (ch op status count pos hdl cookie : Nat) (d : Desc) : State :=
  let p := chanPart s ch
  let q := if d.cq < cqCount s p then cqBase s p + d.cq else 4096
  let data := pack [(0, 8, 0xC2), (8, 8, status), (16, 4, op), (20, 1, b2n (0x10 ≤ status)), (24, 8, ch), (32, 48, count), (80, 16, if pos = 0xFFFF then pos else min pos 0xFFFE), (96, 32, hdl), (128, 64, s.now), (192, 64, cookie)]
  let s := if status = 0x10 then movAdd s p 6 1 else if status = 0x21 then dlAdd s p 3 else s
  let sem := if d.seminc ∧ d.sem < semCount s p then some (semBase s p + d.sem) else none
  let push := if d.rpush ∧ status < 0x10 ∧ d.rout < ringCount s p then some (ringBase s p + d.rout, hdl) else none
  let r : Pend := { q := q, data := data, csem := sem, push := push, who := .chan ch, part := p, chan := some ch, pos := pos }
  if d.recf ∨ 0x10 ≤ status then cqPost s r else scopeCheck (follow s { r with csem := none }) r.who

/-- A failure ends the chain: nothing more of it is fetched; the descriptors that have been fetched are in progress (R188) and run to their end (R189). -/
def endChain (s : State) (ch : Nat) : State := s.modChan ch fun v => { v with next := none }

/-- A descriptor completes (R189, R190). -/
def descDone (s : State) (ch : Nat) (d : Desc) (pos hdl status count : Nat) : State :=
  let s := if 0x10 ≤ status then endChain s ch else s
  (descRecord s ch (if d.op ≤ 4 then d.op else 4) status count pos hdl d.cookie d).todo (.chanCheck ch)

/-- With the host away, a running channel whose next descriptor to fetch is in T3 is HALTED (R206). -/
def haltAway (s : State) (ch : Nat) : State :=
  let v := s.chan ch
  if v.running ∧ (v.st = 1 ∨ v.st = 2) ∧ v.next.any (t3Away s) then s.setChan ch { v with st := 3 } else s

/-- A channel takes its next chain, becomes idle, or reaches the end of its disabling (R188, R203). -/
def chanCheck (s : State) (ch : Nat) : State :=
  let v := s.chan ch
  if v.hostq then
    let ended := v.running && v.next.isNone && v.ready = [] && descOps s ch = [] && chanHeld s ch = 0
    let v := if ended then { v with running := false, popped := none } else v
    let v :=
      if !v.running ∧ (v.st = 0 ∨ v.st = 1 ∨ v.st = 2 ∨ v.st = 4) then
        match v.chains with
        | h :: r => { v with running := true, head := h, next := some h, pos := 0, ready := [], chains := r, st := if v.st = 4 then 4 else 1 }
        | [] => { v with st := if v.st = 4 then 4 else 0 }
      else v
    let s := haltAway (s.setChan ch v) ch
    if (v.st = 4 ∨ v.st = 5) ∧ !v.running ∧ v.chains = [] ∧ !s.pend.any (fun r => r.chan = some ch) then
      (s.setChan ch { v with st := 6 }).todo (.partCheck v.part)
    else s
  else if v.st = 4 ∧ chanLoad s ch = 0 ∧ !s.pend.any (fun r => r.chan = some ch) then s.setChan ch { v with st := 6 }
  else s

/-- CHAN_DOORBELL (R188, R204). -/
def chanDoorbell (s : State) (ch head : Nat) : State :=
  let v := s.chan ch
  if !v.hostq ∨ ¬ (v.st = 0 ∨ v.st = 1 ∨ v.st = 2) ∨ 16 ≤ v.chains.length ∨ head % 64 ≠ 0 ∨ (s.part v.part).st ≠ 0 then
    s.setChan ch { v with dberr := true, dbdrop := satAdd 16 v.dbdrop 1 }
  else (s.setChan ch { v with chains := v.chains ++ [head] }).todo (.chanCheck ch)

/-- A descriptor's place in memory is one that R186 allows. -/
def descAddrOk (s : State) (p a : Nat) : Bool := a % 64 = 0 && (tqaTier a = 1 || tqaTier a = 3) && inWindow s p a 64

/-- The read of a descriptor, one credit of class MGMT (R188), is paid from the balance or goes as slack, and passes neither a closed group nor its ceiling (R127). None: not now. -/
def fetchPay (s : State) (p g : Nat) : Option Pay :=
  let gr := s.group g
  if gr.closed || groupCeil s g < gr.used + 1 then none
  else if 1 ≤ balance s p 11 then some .paid
  else if slackOn s p && gr.used + 1 + gr.resLeft ≤ groupCeil s g then some .slack
  else none

/-- The read of a descriptor in T3 has its page's translation and one of the slots held for such reads (R276, R279). -/
def fetchHost (s : State) (p a : Nat) : Bool :=
  tqaTier a ≠ 3 || !inWindow s p a 64 || (translated s p (tqaOff a) && (livePorts s 3).any fun n => hostSlotFree s n 11 true)

/-- A channel can read a descriptor now (R188). -/
def canFetch (s : State) (ch : Nat) : Bool :=
  let v := s.chan ch
  match v.next with
  | some a =>
    v.hostq && v.running && chanRuns v && v.pos < oldestPos s ch + 8 && !t3Away s a && (s.cluster (ch / 32)).st = 0 &&
      (classBarred s v.part 11 || ((fetchPay s v.part (groupOf (tqaTier a))).isSome && fetchHost s v.part a))
  | none => false

/-- The host-line cache holds a line in Shared state, 4,096 lines, most recent first (R275, Table 10.11). -/
def cacheLine (s : State) (l : Nat) : State := { s with hostl := { s.hostl with lines := (l :: s.hostl.lines.filter fun k => k ≠ l).take 4096 } }

/-- The read of a descriptor is charged and counted at its port (R188). -/
def chargeFetch (s : State) (ch a : Nat) : State :=
  let p := chanPart s ch
  let g := groupOf (tqaTier a)
  let pay := fetchPay s p g
  let s := if tqaTier a = 3 then cacheLine s (memKey s p a / 64) else s
  let s := match portFor s (tqaTier a) (tqaOff a) 0 ch with
    | some n => s.gadd (0x10 * n) 64
    | none => s
  let s := s.setGroup g { s.group g with used := (s.group g).used + 1, rrSlack := if pay = some .slack then p else (s.group g).rrSlack, rrPaid := if pay = some .paid then p else (s.group g).rrPaid }
  s.modPart p fun v => { v with bal := if pay = some .paid then tset v.bal 11 (tget v.bal 11 0 - 1) else v.bal, issuedNow := tset v.issuedNow 11 (tget v.issuedNow 11 0 + 1) }

/-- DESCRIPTOR_FETCH (R188, R189). A channel whose next descriptor turns out to be in T3 while the host is away is HALTED (R206). -/
def descFetch (s : State) (ch : Nat) (r : RdRes) : State :=
  let v := s.chan ch
  match v.next with
  | none => s
  | some a =>
    let bad := fun (s : State) (status : Nat) => (descRecord (endChain s ch) ch 4 status 0 v.pos 0 0 {}).todo (.chanCheck ch)
    if classBarred s v.part 11 then bad s 0x21
    else if !descAddrOk s v.part a then bad (if inWindow s v.part a 64 then s else deny s v.part 2 ch a) 0x20
    else
      let s := chargeFetch s ch a
      match r with
      | .checkFail => bad s 0x12
      | .portFault => bad s 0x30
      | .ok =>
        let d := { parseDesc (rdNumP s v.part a 64) with place := a }
        haltAway (s.setChan ch { v with ready := v.ready ++ [(v.pos, d)], pos := v.pos + 1, next := if d.chain then some d.next else none }) ch

/-- The ranges of a descriptor's transfer: source, destination, index (Table 7.1, R187, R199). -/
def srcRange (d : Desc) : Nat × Nat := (d.src, d.len)
def idxRows (d : Desc) : Nat := d.len / max 1 d.rowbytes

/-- Checks of a descriptor that do not need the popped object (R72, R187). -/
def descOk (s : State) (ch : Nat) (d : Desc) : Bool :=
  let p := chanPart s ch
  let al := fun (n : Nat) => d.len % n = 0 && d.dst % n = 0
  let srcOk := if d.rpop then bitsOf d.src 63 56 = 0 else inWindow s p d.src d.len
  !d.rsvBad && d.op ≤ 4 && d.cq < cqCount s p && (!d.seminc || (d.recf && d.sem < semCount s p)) && (!d.rpush || (d.rpop && d.rout < ringCount s p && 0 < ringDepth (s.ring (ringBase s p + d.rout)))) &&
    (!d.rpop || (d.rin < ringCount s p && 0 < ringDepth (s.ring (ringBase s p + d.rin)))) && (!d.pace || d.pline < plCount s p) && (d.cls = 7 || d.cls = 11) &&
    (if d.chain then descAddrOk s p d.next else d.next = 0) && (d.op = 3 || d.rowbytes = 0) && (d.op = 1 || d.op = 3 || d.aux = 0) &&
    match d.op with
    | 1 => 0 < d.len && al 8 && d.src = 0 && inWindow s p d.dst d.len
    | 3 => 0 < d.len && d.src % 64 = 0 && d.dst % 64 = 0 && d.rowbytes % 64 = 0 && 64 ≤ d.rowbytes && d.rowbytes ≤ 16777216 && d.len % d.rowbytes = 0 && d.aux % 64 = 0 &&
        inWindow s p d.aux (4 * idxRows d) && inWindow s p d.dst d.len && (if d.rpop then bitsOf d.src 63 56 = 0 else inWindow s p d.src 0)
    | 4 => d.src = 0 && d.dst = 0 && d.len = 0
    | _ => 0 < d.len && al 64 && d.src % 64 = 0 && srcOk && inWindow s p d.dst d.len &&
        (d.rpop || !(tqaTier d.src = tqaTier d.dst && meets (tqaOff d.src) d.len (tqaOff d.dst) d.len))

/-- The popped handle meets R200, and the source that it gives does not overlap the destination (R187). -/
def poppedOk (s : State) (p : Nat) (d : Desc) (h : Nat) : Bool :=
  let o := s.obj (hIdx h)
  handleOk s p h && o.st = .resident && o.form = .raw && o.home < 3 && tqaOff d.src + d.len ≤ o.rawlen &&
    !((d.op = 0 || d.op = 2) && o.home = tqaTier d.dst && meets (tqaOff o.homeaddr + d.src) d.len (tqaOff d.dst) d.len)

/-- The source TQA of a descriptor; under RPOP the object's home plus SRC. -/
def descSrc (s : State) (d : Desc) (h : Nat) : Nat := if d.rpop then (s.obj (hIdx h)).homeaddr + d.src else d.src

/-- Row v of an index stream lies wholly inside the source (R199); under RPOP the source is the popped object (log entry 30). -/
def igRowOk (s : State) (p : Nat) (d : Desc) (h v : Nat) : Bool :=
  v ≠ 0xFFFFFFFF &&
    if d.rpop then d.src + (v + 1) * d.rowbytes ≤ (s.obj (hIdx h)).rawlen
    else d.src % 2 ^ 56 + (v + 1) * d.rowbytes ≤ 2 ^ 56 && inWindow s p (d.src + v * d.rowbytes) d.rowbytes
def igRows (s : State) (p : Nat) (d : Desc) : List Nat := fp32s (idxRows d) (rdP s p d.aux (4 * idxRows d))

/-- Two ranges of n bytes cut where either crosses a 4 KiB boundary: the pieces of both, by turns (R183). `k` bounds their number. -/
def pairCuts : Nat → Seg → Seg → List Seg
  | 0, _, _ => []
  | k + 1, a, b =>
    if a.len = 0 then []
    else
      let n := min (min (to4k a.addr) (to4k b.addr)) a.len
      let on := fun (g : Seg) => { g with addr := g.addr + n, len := g.len - n, i0 := g.stripe n }
      { a with len := n } :: { b with len := n } :: pairCuts k (on a) (on b)

/-- The runs a descriptor reads and writes; bursts are striped with the channel number (R183). An index stream goes row by row behind the pages of its index (R199). -/
def descXfer (s : State) (ch : Nat) (d : Desc) (h : Nat) : Xfer :=
  let p := chanPart s ch
  let sg := fun (a n : Nat) => run (tqaTier a) (tqaOff a) n ch
  let src := sg (descSrc s d h) d.len
  let x : Xfer := match d.op with
    | 0 => mkXfer [src] [sg d.dst d.len]
    | 1 => mkXfer [] [sg d.dst d.len]
    | 2 => mkXfer (pairCuts (d.len / 2048 + 4) src (sg d.dst d.len)) []
    | 3 =>
      let rows := igRows s p d
      let aux := idxPages (tqaTier d.aux) (tqaOff d.aux) (4 * idxRows d) ch fun i => i * d.rowbytes
      ({ rd := rows.map fun v => if igRowOk s p d h v then sg (descSrc s d h + v * d.rowbytes) d.rowbytes else run 6 0 d.rowbytes 0
         wr := (List.range rows.length).map fun i => sg (d.dst + i * d.rowbytes) d.rowbytes, aux := aux } : Xfer)
    | _ => {}
  ({ x with byBurst := true } : Xfer).pass

/-- Addresses of a descriptor that Privet denies (R322). -/
def descDenied (s : State) (ch : Nat) (d : Desc) : List Nat :=
  let p := chanPart s ch
  let chk := fun (a n : Nat) => if inWindow s p a n then [] else [a]
  (if d.chain then chk d.next 64 else []) ++ match d.op with
    | 0 => (if d.rpop then [] else chk d.src d.len) ++ chk d.dst d.len
    | 1 => chk d.dst d.len
    | 2 => (if d.rpop then [] else chk d.src d.len) ++ chk d.dst d.len
    | 3 => (if d.rpop then [] else chk d.src 0) ++ chk d.aux (4 * idxRows d) ++ chk d.dst d.len
    | _ => []

/-- A descriptor touches T3. -/
def descT3 (x : Xfer) : Bool := (x.rd ++ x.wr ++ x.aux.map fun a => a.seg).any fun g => g.tier = 3

/-- The ready descriptor of a channel that can start with one of the given operation codes (R188). -/
def canStart (s : State) (ch : Nat) (codes : Nat → Bool) : Option (Nat × Desc) :=
  let v := s.chan ch
  match v.ready with
  | (pos, d) :: _ =>
    let n := (descOps s ch).length + chanHeld s ch
    if v.hostq && chanRuns v && codes d.op && n < 8 && (!d.order || n = 0) && (s.cluster (ch / 32)).st = 0 &&
        !(v.popped.isNone && d.rpop && (s.rings.any fun e => e.2.popq.contains (.chan ch))) then some (pos, d) else none
  | [] => none

/-- A descriptor starts, its object popped and held (R187, R188, R200). -/
def startDesc (s : State) (ch pos : Nat) (d : Desc) (h : Nat) : State :=
  let p := chanPart s ch
  let v := s.chan ch
  let take := fun (s : State) => s.modChan ch fun v => { v with ready := v.ready.tail, popped := none }
  if d.rpop ∧ !poppedOk s p d h then descDone (take s) ch d pos h 0x20 (if d.op = 2 ∨ d.op = 4 then 0 else d.len)
  else
    let x := descXfer s ch d h
    if descT3 x ∧ s.hostl.detached then s.setChan ch { v with st := if v.st = 4 then 4 else 3, popped := if d.rpop then some h else none }
    else if d.pace ∧ (s.line (plBase s p + d.pline)).stuck ∧ d.op ≠ 4 then descDone (take s) ch d pos h 0x30 d.len
    else if d.op ≠ 4 ∧ classBarred s p d.cls then descDone (take s) ch d pos h 0x21 d.len
    else
      let s := take s
      let s := if d.op = 3 then movAdd s p 3 ((igRows s p d).filter fun v => v ≠ 0xFFFFFFFF && !igRowOk s p d h v).length else s
      let s := if d.rpop then s.modObj (hIdx h) fun o => { o with holds := o.holds + 1 } else s
      if d.op = 4 ∧ !(d.rpush && 4096 ≤ pushesWaiting s) then
        let s := if d.rpop then (s.modObj (hIdx h) fun o => { o with holds := o.holds - 1 }).todo (.objLeft (hIdx h)) else s
        descDone s ch d pos h 0 0
      else
        let id := nextId s
        let s := accept s { id := 0, req := { part := p, who := .chan ch }, kind := .desc ch d pos h, cls := d.cls, chan := some ch, phase := .running, x := x } false
        let s := s.todo (.tryOp id)
        if d.pace then giveGrant s (plBase s p + d.pline) else s

/-- Start a channel's first ready descriptor: checked, then its handle popped (R72, R200). -/
def descStart (s : State) (ch pos : Nat) (d : Desc) : State :=
  let p := chanPart s ch
  let v := s.chan ch
  if !descOk s ch d then
    let s := (descDenied s ch d).foldl (fun s a => deny s p 2 ch a) s
    descDone (s.modChan ch fun v => { v with ready := v.ready.tail }) ch d pos 0 0x20 (if d.op = 2 ∨ d.op ≥ 4 then 0 else d.len)
  else if d.rpop then
    match v.popped with
    | some h => startDesc s ch pos d h
    | none =>
      match ringPop s (ringBase s p + d.rin) (.chan ch) with
      | (some h, s) => startDesc s ch pos d h
      | (none, s) => s.modChan ch fun v => { v with st := if v.st = 1 then 2 else v.st }
  else startDesc s ch pos d 0

/-- Bytes of a pattern laid over a range: byte i takes byte (i mod 8) (R187, R96). -/
def patBytes (pat n : Nat) : List Byte := (List.range n).map fun i => BitVec.ofNat 8 (pat / 2 ^ (8 * (i % 8)))

/-- The destination bytes of a descriptor that moves data, n of them from the start (R187, R199, R202). -/
def descBytes (s : State) (p : Nat) (d : Desc) (h n : Nat) : List Byte :=
  match d.op with
  | 0 => rdP s p (descSrc s d h) n
  | 1 => patBytes d.aux n
  | _ => ((igRows s p d).flatMap fun v => if igRowOk s p d h v then rdP s p (descSrc s d h + v * d.rowbytes) d.rowbytes else List.replicate d.rowbytes 0).take n

/-- Offset of the first difference of two lists of bytes. -/
def firstDiff : List Byte → List Byte → Nat → Option Nat
  | a :: r, b :: t, i => if a = b then firstDiff r t (i + 1) else some i
  | _, _, _ => none

/-- What a descriptor has written when it ends, COUNT, and the end (R190, R191, R202). `status` is 0 for a transfer that reached its end. -/
def descEnd (s : State) (o : Op) (ch : Nat) (d : Desc) (pos hdl status : Nat) : State :=
  let p := chanPart s ch
  let (s, status, count) :=
    if d.op = 2 then
      if status ≠ 0 then (s, status, d.len - min d.len (upToDone s o / 2))
      else match firstDiff (rdP s p (descSrc s d hdl) d.len) (rdP s p d.dst d.len) 0 with
        | some i => (s, 0x13, i)
        | none => (s, 0, d.len)
    else
      let n := if status = 0 then d.len else min d.len (upToDone s o)
      (s.storeP p d.dst (descBytes s p d hdl n), status, d.len - n)
  let s := dropGrant (s.delOp o.id) o.id
  let s := if d.rpop then (s.modObj (hIdx hdl) fun v => { v with holds := v.holds - 1 }).todo (.objLeft (hIdx hdl)) else s
  descDone s ch d pos hdl status count

/-- A descriptor is looked at: read back, ended early, or held while the store of waiting pushes is full (R201). One that ends early is read back over the ports that carried its
writes (R202). -/
def descTry (s : State) (o : Op) (ch : Nat) (d : Desc) (pos hdl : Nat) : State :=
  if o.phase = .ending then
    if quiet s o.id then
      if needsReadBack o.x ∧ !o.x.rbIssued ∧ o.x.wports ≠ [] ∧ (s.cluster (ch / 32)).st = 0 ∧ livePorts s (wrTier o.x) ≠ [] then sendReadBacks s o else descEnd s o ch d pos hdl o.endStatus
    else s
  else
    match paceLine s o with
    | some l => if (s.line l).stuck ∧ quiet s o.id ∧ (newBursts o).any (Burst.begins o) then stopOp s o 0x30 else issueReadBacks (giveGrant s l) o
    | none => issueReadBacks s o

/-- MOVE_DONE of a descriptor. -/
def descReady (s : State) (o : Op) (d : Desc) : Bool :=
  o.phase = .running && xferDone s o && !(d.rpush && 4096 ≤ pushesWaiting s)

end Sys2Proof.Machine
end

