-- ==== Sys2Proof/Decode.lean ====
section
/-!
DEFINITION. The words of a Kwemal instruction: the base word (Table 2.5) and the deadline word (Table 2.7), decoded and encoded; and decodeTableWord. No row of
spec/opcode_table.json gives bits.
-/

namespace Sys2Proof

/-- A base word (Table 2.5). `rsvA` is bit 11, `rsvB` bits [47:44]. -/
structure Base where
  opcode : Nat
  next : Nat
  rsvA : Nat
  fmt : Nat
  cmode : Nat
  cq : Nat
  csem : Nat
  areg : Nat
  breg : Nat
  dln : Nat
  rsvB : Nat
  opa : Nat
  opb : Nat
  aux : Nat
  deriving DecidableEq, Repr

/-- A deadline word (Table 2.7). `rsvA` is bits [7:2], `rsvB` bits [31:16], `rsvC` bits [127:80]. -/
structure DlWord where
  dkind : Nat
  rsvA : Nat
  pline : Nat
  rsvB : Nat
  offset : Nat
  rsvC : Nat
  deriving DecidableEq, Repr

/-- The base word that a 128-bit word holds. -/
def decodeBase (w : Nat) : Base where
  opcode := bitsOf w 7 0
  next := bitsOf w 10 8
  rsvA := bitsOf w 11 11
  fmt := bitsOf w 13 12
  cmode := bitsOf w 15 14
  cq := bitsOf w 27 16
  csem := bitsOf w 40 28
  areg := bitsOf w 41 41
  breg := bitsOf w 42 42
  dln := bitsOf w 43 43
  rsvB := bitsOf w 47 44
  opa := bitsOf w 79 48
  opb := bitsOf w 111 80
  aux := bitsOf w 127 112

/-- The 128-bit word of a base word. -/
def encodeBase (b : Base) : Nat :=
  b.opcode + b.next * 2 ^ 8 + b.rsvA * 2 ^ 11 + b.fmt * 2 ^ 12 + b.cmode * 2 ^ 14 + b.cq * 2 ^ 16 + b.csem * 2 ^ 28 + b.areg * 2 ^ 41 + b.breg * 2 ^ 42
    + b.dln * 2 ^ 43 + b.rsvB * 2 ^ 44 + b.opa * 2 ^ 48 + b.opb * 2 ^ 80 + b.aux * 2 ^ 112

/-- Every field of the base word fits its bits. -/
def Base.fits (b : Base) : Bool :=
  b.opcode < 2 ^ 8 && b.next < 2 ^ 3 && b.rsvA < 2 && b.fmt < 2 ^ 2 && b.cmode < 2 ^ 2 && b.cq < 2 ^ 12 && b.csem < 2 ^ 13 && b.areg < 2 && b.breg < 2
    && b.dln < 2 && b.rsvB < 2 ^ 4 && b.opa < 2 ^ 32 && b.opb < 2 ^ 32 && b.aux < 2 ^ 16

/-- The deadline word that a 128-bit word holds. -/
def decodeDl (w : Nat) : DlWord where
  dkind := bitsOf w 1 0
  rsvA := bitsOf w 7 2
  pline := bitsOf w 15 8
  rsvB := bitsOf w 31 16
  offset := bitsOf w 79 32
  rsvC := bitsOf w 127 80

/-- The 128-bit word of a deadline word. -/
def encodeDl (d : DlWord) : Nat :=
  d.dkind + d.rsvA * 2 ^ 2 + d.pline * 2 ^ 8 + d.rsvB * 2 ^ 16 + d.offset * 2 ^ 32 + d.rsvC * 2 ^ 80

/-- Every field of the deadline word fits its bits. -/
def DlWord.fits (d : DlWord) : Bool :=
  d.dkind < 2 ^ 2 && d.rsvA < 2 ^ 6 && d.pline < 2 ^ 8 && d.rsvB < 2 ^ 16 && d.offset < 2 ^ 48 && d.rsvC < 2 ^ 48

/-- No row of spec/opcode_table.json gives bits, so no word spells a command (log entry 10). -/
def decodeTableWord (_nbits _w : Nat) : Option Instr := none

end Sys2Proof
end

