-- ==== Sys2Proof/Machine/Issue.lean ====
section
/-!
DEFINITION. An instruction at a context's PC: its words (R55, R56), the encoding tables (Tables 3.4 to 3.10), the checks of R72, and what issuing and retiring do to the context
(R64, R73 to R76).
-/

namespace Sys2Proof.Machine

/-- The bits hi to lo, as a mask. -/
def bm (hi lo : Nat) : Nat := 2 ^ (hi + 1) - 2 ^ lo
/-- 32 bits of an operand. -/
def m32 : Nat := bm 31 0

/-- What an encoding table names of an instruction: where AREG, BREG and DLN may be 1, the bits of OPA, OPB and AUX, and those of each extension word (R71). -/
structure Shape where
  areg : Bool := false
  breg : Bool := false
  dln : Bool := false
  opa : Nat := 0
  opb : Nat := 0
  aux : Nat := 0
  ext : List Nat := []
  deriving DecidableEq, Repr

/-- An instruction whose operand A is a handle that a register may hold. -/
def handleShape : Shape := { areg := true, opa := m32 }

/-- Object instructions (Table 3.4). -/
def shapeObject (b : Base) : Option Shape :=
  if b.opcode = 0x00 then some {}
  else if b.opcode = 0x01 then some { opa := bm 14 0, aux := bm 8 0 + bm 15 12, ext := [bm 47 0] }
  else if b.opcode = 0x02 then some { handleShape with opb := bm 12 0, aux := bm 1 0 + bm 7 4, ext := [bm 15 0] }
  else if b.opcode = 0x03 then some { handleShape with aux := 1 }
  else if b.opcode = 0x04 ∨ b.opcode = 0x05 then some handleShape
  else none

/-- Residency and recompute instructions (Tables 3.5 and 3.7). -/
def shapeResidency (b : Base) : Option Shape :=
  if [0x10, 0x11, 0x12, 0x13, 0x17].contains b.opcode then some handleShape
  else if b.opcode = 0x14 ∨ b.opcode = 0x15 then some { handleShape with dln := true, aux := bm 2 0 }
  else if b.opcode = 0x16 then some { handleShape with aux := bm 2 0 }
  else if b.opcode = 0x20 then some { opa := bm 13 0, aux := 1, ext := if bitOf b.aux 0 then [] else [bm 95 0] }
  else if b.opcode = 0x21 then some { handleShape with dln := true, opb := bm 13 0, aux := bm 1 0 + bm 7 4 }
  else if b.opcode = 0x22 ∨ b.opcode = 0x23 then some { handleShape with aux := bm 7 0 }
  else none

/-- Words of INLINE data: bytes past COUNT in the last word are RSV (R97). -/
def inlineMasks (n : Nat) : List Nat := (List.range ((n + 15) / 16)).map fun i => bm (8 * min 16 (n - 16 * i) - 1) 0

/-- Stream instructions (Table 3.8). `dir` is DIR of XCHG, 2 where its word is not examined: the operand that the direction does not use is RSV (R93). -/
def shapeStream (b : Base) (dir : Nat) : Option Shape :=
  if b.opcode = 0x30 then some { dln := true, opa := m32, opb := m32, aux := bm 6 0, ext := bm 15 0 :: if bitOf b.aux 6 then [bm 95 0] else [] }
  else if b.opcode = 0x31 then some { opa := m32, opb := m32, aux := 1, ext := [bm 79 0] }
  else if b.opcode = 0x32 then some { dln := true, opa := m32, opb := m32, aux := bm 1 0, ext := [bm 31 0] }
  else if b.opcode = 0x33 then
    let topk := 2 ≤ bitsOf b.aux 1 0
    some { dln := true, opa := m32, opb := if topk then m32 else 0, aux := bm 1 0, ext := [if topk then bm 7 0 + bm 63 16 else bm 7 0] }
  else if b.opcode = 0x34 then
    some { dln := true, opa := if dir = 1 then 0 else m32, opb := if dir = 0 then 0 else m32, aux := bm 1 0, ext := [bm 17 0 + bm 47 32] }
  else if b.opcode = 0x35 then some { opa := m32, aux := bm 3 0 }
  else if b.opcode = 0x36 then some { handleShape with aux := 1, ext := [bm 63 0, bm 95 0] }
  else if b.opcode = 0x37 then some { handleShape with ext := [bm 95 0, bm 63 0] }
  else if b.opcode = 0x38 then some { handleShape with breg := true, opb := m32, ext := [bm 95 0] }
  else if b.opcode = 0x39 then some { areg := true, opa := bm 3 0, aux := bm 6 0, ext := inlineMasks (bitsOf b.aux 6 0) }
  else none

/-- Synchronisation instructions (Table 3.9): what one KIND names is RSV in the other. -/
def shapeSync (b : Base) : Option Shape :=
  let ring := bitOf b.aux 0
  if b.opcode = 0x40 then some { opa := if ring then bm 9 0 else bm 12 0, opb := if ring then 0 else bm 15 0, aux := if ring then 1 + bm 7 4 else 1 }
  else if b.opcode = 0x41 then some { breg := ring, opa := if ring then bm 9 0 else bm 12 0, opb := if ring then m32 else bm 15 0, aux := 1 }
  else if b.opcode = 0x42 then some {}
  else if b.opcode = 0x43 then some { opa := bm 7 0 }
  else if b.opcode = 0x44 then some { opa := bm 12 0, opb := bm 15 0, aux := 1 }
  else if b.opcode = 0x45 then some { areg := true, opa := m32, opb := m32, aux := bm 1 0 }
  else none

/-- Control instructions (Table 3.10). -/
def shapeControl (b : Base) : Option Shape :=
  if b.opcode = 0x50 then some {}
  else if b.opcode = 0x51 then some { areg := true, breg := true, opa := m32, opb := m32, aux := bm 3 0 }
  else if b.opcode = 0x52 then some { opa := m32, opb := bm 8 0, aux := bm 5 0 }
  else if b.opcode = 0x53 then some { areg := true, opa := m32, opb := bm 15 0, aux := bm 1 0, ext := if bitsOf b.aux 1 0 = 0 then [] else [bm 63 0] }
  else if b.opcode = 0x54 then some { areg := true, opa := m32, aux := bm 1 0 + bm 7 4 }
  else if b.opcode = 0x55 then some { areg := true, opa := m32, opb := m32, aux := 1 }
  else if b.opcode = 0x5F then some { aux := bm 15 0 }
  else none

/-- The encoding of an opcode; none for one that is unassigned, reserved or not in the format (Table 2.6, Table 2.9a). -/
def shapeOf (fmt : Nat) (b : Base) (dir : Nat) : Option Shape :=
  if fmt = 1 ∧ [0x33, 0x34, 0x35, 0x52].contains b.opcode then none
  else (((shapeObject b).or (shapeResidency b)).or (shapeStream b dir)).or ((shapeSync b).or (shapeControl b))

/-- NEXT's maximum in a format (Table 2.9a). -/
def nextMax (fmt : Nat) : Nat := if fmt = 1 then 3 else 6

/-- An instruction at a PC: its base word, the words after it without the deadline word, the deadline word. -/
structure Ins where
  c : Nat
  p : Nat
  pc : Nat
  b : Base
  ext : List Nat := []
  dl : Option DlWord := none
  len : Nat := 16
  deriving DecidableEq, Repr

/-- A cause of an exception with the offending word and bit (Tables 2.9 and 2.10). -/
structure Bad where
  cause : Nat
  word : Nat := 0
  bit : Nat := 0
  deriving DecidableEq, Repr

/-- The lowest bit set. -/
def lowBit (w : Nat) : Nat := ((List.range 128).find? fun i => w.testBit i).getD 0

/-- RSV bits of the base word under a shape, as a mask of the 128-bit word (R55, R60, R62, R71). -/
def rsvMask (fmt : Nat) (b : Base) (h : Option Shape) : Nat :=
  let cq := if fmt = 1 then 2 ^ 15 + bm 27 16 + bm 40 28 else (if b.cmode < 2 then bm 27 16 else 0) + if b.cmode < 3 then bm 40 28 else 0
  2 ^ 11 + bm 47 44 + cq + match h with
  | none => 0
  | some h =>
    let opa := if h.areg ∧ b.areg = 1 then bm 3 0 else h.opa
    let opb := if h.breg ∧ b.breg = 1 then bm 3 0 else h.opb
    (if h.areg then 0 else 2 ^ 41) + (if h.breg then 0 else 2 ^ 42) + (if h.dln then 0 else 2 ^ 43) + (m32 - opa) * 2 ^ 48 + (m32 - opb) * 2 ^ 80 + (bm 15 0 - h.aux) * 2 ^ 112

/-- Offending bits of the deadline word (R62, Table 2.7). -/
def dlRsv (w : Nat) : Nat :=
  let k := bitsOf w 1 0
  (w &&& (bm 7 2 + bm 31 16 + bm 127 80 + if k = 1 then 0 else bm 15 8)) ||| if 2 ≤ k then 2 else 0

/-- The plan that a context executes: its object, the bytes of a word of it, its IMAGE_LEN and FORMAT. -/
def planObj (s : State) (c : Nat) : Nat := hIdx (s.ctx c).plan.handle
def planWord (s : State) (c off : Nat) : Nat := let o := s.obj (planObj s c); rdNumP s o.part (o.homeaddr + off) 16

/-- A PC or a jump target that R65 allows. -/
def pcOk (v : Ctx) (t : Nat) : Bool := 0x40 ≤ t && t % 16 = 0 && t < v.plan.len

/-- The base word at a PC, and the words after it that lie inside the image. -/
def wordsAt (s : State) (c pc : Nat) : Nat × List Nat :=
  let w := planWord s c pc
  let n := min (decodeBase w).next (nextMax (s.ctx c).plan.format)
  (w, ((List.range n).filter fun i => pc + 16 * (i + 1) + 16 ≤ (s.ctx c).plan.len).map fun i => planWord s c (pc + 16 * (i + 1)))

/-- NEXT is what the encoding table requires (R71). -/
def nextFits (b : Base) (h : Shape) : Bool := b.opcode = 0x00 || b.next = h.ext.length + b.dln

/-- The shape of a base word with its extension words. -/
def shapeAt (fmt : Nat) (b : Base) (ext : List Nat) : Option Shape :=
  match shapeOf fmt b 2 with
  | some h => if b.opcode = 0x34 ∧ nextFits b h then shapeOf fmt b (bitsOf (ext.headD 0) 17 16) else some h
  | none => none

/-- The instruction at a PC of a context. -/
def insAt (s : State) (c pc : Nat) : Ins :=
  let (w, l) := wordsAt s c pc
  let b := decodeBase w
  let n := min b.next (nextMax (s.ctx c).plan.format)
  let dl := b.dln = 1 ∧ l.length = n ∧ 0 < n
  { c := c, p := ctxPart s c, pc := pc, b := b, ext := if dl then l.take (n - 1) else l, dl := if dl then some (decodeDl (l.getLastD 0)) else none, len := 16 * (1 + n) }

/-- Step 1 of R72: what is wrong with the base word, in ascending cause order (R65, R67). -/
def baseBad (s : State) (c pc : Nat) : List Bad :=
  let fmt := (s.ctx c).plan.format
  let (w, l) := wordsAt s c pc
  let b := decodeBase w
  let h := shapeAt fmt b l
  let r := w &&& rsvMask fmt b h
  (if h.isNone then [⟨1, 0, 0⟩] else []) ++ (if b.fmt ≠ fmt then [⟨2, 0, 0⟩] else []) ++ (if r ≠ 0 then [⟨3, 0, lowBit r⟩] else []) ++
    (if nextMax fmt < b.next ∨ (b.dln = 1 ∧ b.next = 0) then [⟨4, 0, 0⟩] else []) ++
    if l.length < min b.next (nextMax fmt) then [⟨5, 0, 0⟩] else []

/-- Step 3 of R72: RSV bits of the extension words. The lowest offending word is reported. -/
def extBad (s : State) (c pc : Nat) : List Bad :=
  let (w, l) := wordsAt s c pc
  let b := decodeBase w
  match shapeAt (s.ctx c).plan.format b l with
  | none => []
  | some h =>
    let bad := fun (i : Nat) (e : Nat) =>
      if b.dln = 1 ∧ i + 1 = l.length then dlRsv e
      else if b.opcode = 0x00 then e else e &&& (bm 127 0 - (h.ext[i]?).getD 0)
    match ((l.zip (List.range l.length)).map fun e => (e.2, bad e.2 e.1)).find? fun e => e.2 ≠ 0 with
    | some e => [⟨3, e.1 + 1, lowBit e.2⟩]
    | none => []

/-- Step 2 of R72. -/
def nextBad (s : State) (c pc : Nat) : Bool :=
  let (w, l) := wordsAt s c pc
  match shapeAt (s.ctx c).plan.format (decodeBase w) l with
  | none => false
  | some h => !nextFits (decodeBase w) h

/-- The status that goes with a cause (Table 2.9). -/
def causeStatus (k : Nat) : Nat := if k ≤ 4 then 0x22 else if k = 5 ∨ k = 8 then 0x20 else if k = 9 then 0x3F else 0x31

/-- Exceptions of an instruction (R65, R67). -/
def raiseBad (s : State) (c pc opcode : Nat) (l : List Bad) : State :=
  l.foldl (fun s b => raiseExc s c { cause := b.cause, status := causeStatus b.cause, pc := pc, opcode := opcode, word := b.word, detail := b.bit }) s

/-- An operand A or B that is an immediate or a register (R60). -/
def opA (s : State) (i : Ins) : Nat := if i.b.areg = 1 then (s.ctx i.c).gr (i.b.opa % 16) else i.b.opa
def opB (s : State) (i : Ins) : Nat := if i.b.breg = 1 then (s.ctx i.c).gr (i.b.opb % 16) else i.b.opb
/-- A handle in operand A or B: bits [31:0] of a register. -/
def hdlA (s : State) (i : Ins) : Nat := opA s i % 2 ^ 32
def hdlB (s : State) (i : Ins) : Nat := opB s i % 2 ^ 32
/-- Bits of an extension word. -/
def Ins.e (i : Ins) (k hi lo : Nat) : Nat := bitsOf ((i.ext[k]?).getD 0) hi lo
/-- Bits of AUX. -/
def Ins.aux (i : Ins) (hi lo : Nat) : Nat := bitsOf i.b.aux hi lo

/-- The handles that an instruction names. -/
def named (s : State) (i : Ins) : List Nat :=
  let op := i.b.opcode
  if [0x02, 0x03, 0x04, 0x05, 0x10, 0x11, 0x12, 0x13, 0x14, 0x15, 0x16, 0x17, 0x21, 0x22, 0x23, 0x35, 0x36, 0x37].contains op then [hdlA s i]
  else if op = 0x30 then [hdlA s i, hdlB s i] ++ if i.aux 6 6 = 1 then [i.e 1 31 0] else []
  else if op = 0x31 then [hdlA s i, hdlB s i, i.e 0 31 0, i.e 0 63 32]
  else if op = 0x32 ∨ op = 0x38 then [hdlA s i, hdlB s i]
  else if op = 0x33 then hdlA s i :: if i.aux 1 0 = 2 then [hdlB s i, i.e 0 63 32] else []
  else if op = 0x34 then (if i.e 0 17 16 = 1 then [] else [hdlA s i]) ++ if i.e 0 17 16 = 0 then [] else [hdlB s i]
  else if op = 0x41 then if i.aux 0 0 = 1 then [hdlB s i] else []
  else if op = 0x52 then if i.aux 5 5 = 1 then [] else [hdlA s i]
  else if op = 0x53 then if i.aux 1 0 = 1 then [hdlA s i] else []
  else []

/-- A handle operand passes R11, R45, R86 and R94. `snap`: the instruction is one a snapshot accepts. -/
def operandOk (s : State) (p h : Nat) (snap : Bool) : Bool :=
  let o := s.obj (hIdx h)
  handleOk s p h && !o.plan && !o.body && (snap || !o.snapshot)

/-- An instruction marked "A" (Tables 3.4 to 3.10): one operation more in flight. -/
def isAsync (s : State) (i : Ins) : Bool :=
  let op := i.b.opcode
  let held := s.ops.any fun o => o.req.who = .ctx i.c && match o.kind with
    | .fence _ _ | .heldSignal _ _ _ | .heldInline _ _ | .heldBar _ | .pushWait _ _ => true
    | _ => false
  [0x02, 0x03, 0x10, 0x11, 0x12, 0x13, 0x14, 0x15, 0x16, 0x17, 0x20, 0x21, 0x23, 0x42].contains op || (0x30 ≤ op && op ≤ 0x39) || (op = 0x53 && i.aux 1 0 ≠ 0) ||
    ((op = 0x41 || op = 0x43) && held)

/-- An instruction whose operation takes a channel (R185). -/
def takesChan (i : Ins) : Bool := (0x10 ≤ i.b.opcode && i.b.opcode ≤ 0x20 && i.b.opcode ≠ 0x13) || (0x30 ≤ i.b.opcode && i.b.opcode ≤ 0x38) || (i.b.opcode = 0x53 && i.aux 1 0 ≠ 0)

/-- The first thing an operation has to issue is a burst, a unit of its recipe, or the first burst of a move that waits for its start, and its class may not issue it (R128). -/
def isHeldBack (s : State) (o : Op) : Bool :=
  let barred := fun (g n : Nat) => !mayIssue s o.req.part o.cls g n o.due.isSome
  (nextBursts o).any (fun b => !b.again && barred (groupOf b.tier) (creditsOf b.len)) ||
    ((o.recipe?.bind (unitStep s)).isSome && barred 0 64) || (awaitsStart s o && barred (srcGroup s o) 64)
/-- Operations of a context that are held without a burst issued (R128). -/
def heldOps (s : State) (c : Nat) : Nat := (s.ops.filter fun o => o.req.who = .ctx c && !o.issuedAny && isHeldBack s o).length

/-- The instruction's request: where its record goes (R72 step 4, R73). -/
def Ins.req (i : Ins) (s : State) : Req :=
  let cqOk := i.b.cmode < 2 || i.b.cq < cqCount s i.p
  { id := s.nextOp, who := .ctx i.c, part := i.p, opcode := i.b.opcode, pc := i.pc, slot := (s.ctx i.c).aslot, cmode := i.b.cmode
    cq := if 2 ≤ i.b.cmode ∧ cqOk then cqBase s i.p + i.b.cq else defaultCq s i.c
    csem := if i.b.cmode = 3 ∧ i.b.csem < semCount s i.p then some (semBase s i.p + i.b.csem) else none }
/-- CQ and CSEM pass R58. -/
def Ins.cqOk (i : Ins) (s : State) : Bool := (i.b.cmode < 2 || i.b.cq < cqCount s i.p) && (i.b.cmode ≠ 3 || i.b.csem < semCount s i.p)

/-- The instruction retires. -/
def retire (s : State) (i : Ins) : State := retireBy s i.c i.len

/-- The instruction completes at issue with a result and retires. -/
def doneI (s : State) (i : Ins) (r : Req) (x : Res) : State := retire (complete s r x false) i
/-- It fails a check: nothing else changes (R72). -/
def failI (s : State) (i : Ins) (r : Req) (status : Nat) : State := doneI s i r { status := status }
/-- It names an address that Privet denies (R322). -/
def failAddr (s : State) (i : Ins) (r : Req) (a : Nat) : State := failI (deny s i.p 1 i.c a) i r 0x20

/-- The instruction's operation is accepted: in flight from now, the instruction retires (R74, R75). -/
def go (s : State) (i : Ins) (r : Req) : State := retire (s.modCtx i.c fun v => { v with live := v.live ++ [r.id] }) i

/-- Every object an instruction names is touched (R29). -/
def touchAll (s : State) (hs : List Nat) : State := hs.foldl (fun s h => touch s (hIdx h)) s

/-- Its class may move nothing: its operation completes at once with BUDGET_DEFERRED (R128). The objects it names are touched (R29); the record names the object its table fills
HANDLE with, which BOUNCE, FILL and CMP have none of (R73). -/
def deferI (s : State) (i : Ins) (r : Req) (h : Nat) (result : Nat := 0) (detail : Nat := 0) : State :=
  doneI (touchAll s ((named s i).filter fun h => hIdx h ≠ 0)) i r { status := 0x21, handle := if [0x36, 0x37, 0x38].contains i.b.opcode then 0 else h, result := result, detail := detail }

/-- The deadline of an instruction (R110); none where its pacing line fails R58. On a masked line it carries no deadline (R198). -/
def dlOf (s : State) (i : Ins) (base : Nat) : Option Dl :=
  match i.dl with
  | none => some .none
  | some d =>
    if d.dkind = 0 then some (.at (min (base + d.offset) (2 ^ 64 - 1)))
    else if d.pline < plCount s i.p then some (if (s.line (plBase s i.p + d.pline)).stuck then .none else .line (plBase s i.p + d.pline) d.offset) else none

/-- The partition may hold one more entry (R13). -/
def quotaOk (s : State) (p : Nat) : Bool := dirUsed s p < dirQuota s p

/-- The context waits for space or for an entry (R80, R12). -/
def waitSpace (s : State) (i : Ins) (r : Req) (on : Nat) : State := block s i.c 4 on r

/-- A wait for an entry of the free list (R12): the context stands in its queue, at the place it had. -/
def waitEntry (s : State) (i : Ins) (r : Req) : State := block (dirJoin s (.retryCtx i.c)) i.c 4 0 r

/-- A jump (R107). The block checks the target as R65 says. -/
def jumpTo (s : State) (i : Ins) (r : Req) (t : Nat) : State :=
  if pcOk (s.ctx i.c) t then (doneI s i r {}).modCtx i.c fun v => { v with pc := t, ladlePos := 0 }
  else raiseBad s i.c i.pc i.b.opcode [⟨5, 0, 0⟩]

/-- The body of an instruction: its own checks and its effect, from step 4 of R72 on. -/
abbrev Body := State → Ins → Req → State

/-- Step 4 and on for an instruction whose words are in order: a FETCH that the Ladle issued retires (R85); CQ and CSEM, the limits of R75 and R185, the budget hold of R128, a miss of the directory cache (R10), then the body. -/
def issueOperands (s : State) (i : Ins) (body : Body) : State :=
  let r := i.req s
  let v := s.ctx i.c
  if i.b.opcode = 0x14 ∧ v.ahead.any (fun a => a.slot = v.aslot && a.pc = i.pc) then
    retire ((s.cadd i.c 0 1).modCtx i.c fun v => { v with ahead := v.ahead.filter fun a => !(a.slot = v.aslot && a.pc = i.pc) }) i
  else if !i.cqOk s then failI (s.cadd i.c 0 1) i r 0x20
  else if (isAsync s i && 4096 ≤ (s.ctx i.c).live.length) || (takesChan i && (pickChan s).isNone) then leaveSeq (s.modCtx i.c fun v => { v with full := true }) i.c
  else if 64 ≤ heldOps s i.c then block s i.c 7 0 r
  else
    match (named s i).find? fun h => hIdx h ≠ 0 && !dirHeld s (hIdx h) with
    | some h => ((dirMiss s).cadd i.c 0xC8 1).modCtx i.c fun v => { v with miss := some (hIdx h) }
    | none =>
      let got := (s.ctx i.c).filled
      let s := ((named s i).filter fun h => hIdx h ≠ 0).foldl (fun s h => if got.contains (hIdx h) then dirTouch s (hIdx h) else dirHit s (hIdx h)) s
      body (({ s with nextOp := s.nextOp + 1 }.modCtx i.c fun v => { v with filled := [] }).cadd i.c 0 1) i r

/-- Issue the instruction at a context's PC (R72). -/
def issueAt (s : State) (c : Nat) (body : Body) : State :=
  let pc := (s.ctx c).pc
  let i := insAt s c pc
  match baseBad s c pc with
  | b :: l => raiseBad s c pc i.b.opcode (b :: l)
  | [] =>
    if nextBad s c pc then failI (s.cadd c 0 1) i (i.req s) 0x20
    else
      match extBad s c pc with
      | b :: l => raiseBad s c pc i.b.opcode (b :: l)
      | [] => issueOperands s i body

/-- A sequencer may run a context (R38). -/
def maySeq (s : State) (q c : Nat) : Bool := bitOf (regNow s (0x8C000 + 4 * ctxPart s c)) q && seqUsable s q && !underTest s 1 q

/-- The context is on a sequencer that may run it, at an instruction boundary: nothing holds its next instruction (R38, R64, R77, R307). One that a
directory miss held goes on where it began (R40). -/
def seated (s : State) (c : Nat) : Bool :=
  let v := s.ctx c
  v.st = .active && v.seq.any (fun q => maySeq s q c || v.filled ≠ []) && v.waitKind = 0 && v.miss.isNone && v.fails = [] && s.fw.level ≠ 3

/-- A line of the instruction cache: the plan object's handle and the number of the line (R46). -/
def icLine (s : State) (c k : Nat) : Nat × Nat := ((s.ctx c).plan.handle, k)
/-- The next line that the instruction at a context's PC has to read and the cache does not hold: the base word's, then its extension words', as far as the plan goes. -/
def icNeed (s : State) (c : Nat) : Option Nat :=
  let v := s.ctx c
  let held := fun (k : Nat) => s.icache.contains (icLine s c k)
  let last := (v.pc + 16 * (wordsAt s c v.pc).2.length) / 128
  if !held (v.pc / 128) then some (v.pc / 128) else if !held last then some last else none

/-- A context that is on a sequencer at an instruction boundary reaches the instruction at its PC: one whose opcode meets `mine` issues once the instruction cache holds its words
(R46); a PC outside the plan raises PC_RANGE (R65), with OPCODE 0 in its record, as no word was read (log entry 152). None where the event cannot arise. -/
def issueIf (s : State) (c : Nat) (mine : Nat → Bool) (body : Body) : Option State :=
  let v := s.ctx c
  if !seated s c then none
  else if !pcOk v v.pc then some (raiseBad s c v.pc 0 [⟨5, 0, 0⟩])
  else if (icNeed s c).isSome then none
  else if mine (decodeBase (planWord s c v.pc)).opcode then some (issueAt s c body)
  else none

/-- Opcodes of Table 2.6. -/
def isAssigned (op : Nat) : Bool :=
  [0x00, 0x01, 0x02, 0x03, 0x04, 0x05, 0x10, 0x11, 0x12, 0x13, 0x14, 0x15, 0x16, 0x17, 0x20, 0x21, 0x22, 0x23, 0x30, 0x31, 0x32, 0x33, 0x34, 0x35, 0x36, 0x37, 0x38, 0x39,
   0x40, 0x41, 0x42, 0x43, 0x44, 0x45, 0x50, 0x51, 0x52, 0x53, 0x54, 0x55, 0x5F].contains op

end Sys2Proof.Machine
end

