-- ==== Sys2Proof/Machine/Copies.lean ====
section
/-!
DEFINITION. Operations that copy, fill or compare bytes: FILL, CMP, BOUNCE, INLINE, REPORT (R95 to R97, R106, R278), the copy of a plan image (R44), of a recipe body (R86, R134)
and of a firmware image (R300).
-/

namespace Sys2Proof.Machine

/-- An operation of an instruction that runs at once. -/
def startOp (s : State) (r : Req) (k : OpKind) (cls : Nat) (x : Xfer) (chan : Bool) : State :=
  let id := nextId s
  (accept s { id := 0, req := r, kind := k, cls := cls, phase := .running, x := x } chan).todo (.tryOp id)

/-- FILL (R96). -/
def fillBegin (s : State) (r : Req) (x off len pat : Nat) : State := startOp (hold s x) r (.fill x off len pat) 11 (mkXfer [] [partSeg s x off len]) true
/-- The bytes of a FILL that are written: all of them, or the prefix that an ended one leaves (R202). -/
def fillEnd (s : State) (o : Op) (x off len pat status : Nat) : State :=
  let n := if status = 0 then len else min len (upToDone s o)
  endOp ((unhold (putObj s x off (patBytes pat n)) x).todo (.tap x)) o { status := status, result := len, quiet := status = 0x10 }

/-- The runs that a comparison reads (R96, R183): of two raw objects the range, piece by piece of each; the whole of one that must be decoded. -/
def cmpSeg (s : State) (x off len : Nat) : Seg := if (s.obj x).form = .raw then partSeg s x off len else homeSeg s x
def cmpRuns (s : State) (x y off len : Nat) : List Seg :=
  if (s.obj x).form = .raw ∧ (s.obj y).form = .raw then pairCuts (len / 2048 + 4) (partSeg s x off len) (partSeg s y off len) else [cmpSeg s x off len, cmpSeg s y off len]
def cmpBegin (s : State) (r : Req) (x y off len : Nat) : State := startOp (hold (hold s x) y) r (.cmp x y off len) 11 (mkXfer (cmpRuns s x y off len) []) true
def cmpEnd (s : State) (o : Op) (x y : Nat) (res : Res) : State := endOp (unhold (unhold s x) y) o { res with quiet := res.status = 0x10 }
def cmpDone (s : State) (o : Op) (x y off len : Nat) : State :=
  if o.x.srcBad then cmpEnd s o x y { status := 0x12 }
  else if o.x.bad ≠ 0 then cmpEnd s o x y { status := o.x.bad }
  else
    match rawBytes s x, rawBytes s y with
    | some a, some b =>
      let s := decodeFor (decodeFor s o.acct x) o.acct y
      match firstDiff ((a.drop off).take len) ((b.drop off).take len) 0 with
      | some i => cmpEnd s o x y { status := 0x13, result := off + i }
      | none => cmpEnd s o x y { result := len }
    | _, _ => cmpEnd (sieveCount (sieveCount s x) y) o x y { status := 0x12 }

/-- BOUNCE (R95): `host` is the host TQA. -/
def bounceBegin (s : State) (r : Req) (x off len host : Nat) (toHost : Bool) : State :=
  let a := partSeg s x off len
  let h := run 3 (tqaOff host) len x
  startOp (hold s x) r (.bounce x off len host toHost) 7 (if toHost then mkXfer [a] [h] else mkXfer [h] [a]) true
def bounceEnd (s : State) (o : Op) (x off len host : Nat) (toHost : Bool) (status : Nat) : State :=
  let n := if status = 0 then len else min len (upToDone s o)
  let s := if toHost then s.storeP o.req.part host (objBytes s x off n) else putObj s x off (rdP s o.req.part host n)
  let s := if toHost then s else s.todo (.tap x)
  endOp (unhold s x) o { status := status, result := n, quiet := status = 0x10 }

/-- The run an INLINE writes: by its own path, with the context's number as x (R278). -/
def inlineSeg (c a n : Nat) : Seg := { run (tqaTier a) (tqaOff a) n c with i0 := tqaOff a / 4096 }
def inlineBegin (s : State) (r : Req) (a : Nat) (bs : List Byte) : State :=
  startOp s r (.inline a bs) 11 (mkXfer [] [inlineSeg (partyNum r.who) a bs.length]) false
/-- Taps of objects whose home holds an address (R339). -/
def tapAt (s : State) (p a : Nat) : State :=
  s.taps.foldl (fun s e =>
    let x := hIdx e.2.hdl
    let o := s.obj x
    if e.2.armed ∧ o.part = p ∧ o.st = .resident ∧ tqaTier a = o.home ∧ o.homeaddr ≤ a ∧ a < o.homeaddr + o.storlen then s.todo (.tap x) else s) s
def inlineEnd (s : State) (o : Op) (a : Nat) (bs : List Byte) (status : Nat) : State :=
  let s := if status = 0 then tapAt (s.storeP o.req.part a bs) o.req.part a else s.storeP o.req.part a (bs.take (upToDone s o))
  endOp s o { status := status, result := a, quiet := status = 0x10 }

/-- REPORT of kinds 1 to 3 (R106). -/
def reportBegin (s : State) (r : Req) (a : Nat) (bs : List Byte) : State :=
  startOp s r (.report a bs) 11 { mkXfer [] [run (tqaTier a) (tqaOff a) bs.length ((pickChan s).getD 0)] with byBurst := true } true
def reportEnd (s : State) (o : Op) (a : Nat) (bs : List Byte) (status : Nat) : State :=
  let s := if status = 0 then s.storeP o.req.part a bs else s
  endOp s o { status := status, detail := o.req.detail, result := a, quiet := status = 0x10 }

/-- An entry for an object that LOAD or RCPDEF declares (R12, R13): none in the state while it waits for the free list. -/
inductive Entry
  | refused
  | waits (s : State)
  | got (s : State) (x : Nat)
  deriving DecidableEq, Repr

/-- A pinned class P object of n bytes placed in T1 for operation o (R44 step 4, R86): refused when the quota or the space is not there, waiting while an entry or an eviction is due. -/
def ownObject (s : State) (o : Op) (n ctx : Nat) (plan : Bool) : Entry :=
  let p := o.req.part
  let w := Work.tryOp o.id
  if !quotaOk s p then .refused
  else if !dirTurn s w then .waits (dirJoin s w)
  else
    match getSpace s p 1 n false .none o.acct w with
    | (some a, s) =>
      let x := (dirFree s).getD 0
      .got (stockpotMark (dirAlloc (dirLeave s w) x { st := .bound, clsP := true, part := p, ctx := ctx, lat := 1, pinned := true, rawlen := n, home := 1, homeaddr := tqa 1 a, resv := n, storlen := n, plan := plan, body := !plan })) x
    | (none, s) => if willFit s p 1 n false then .waits s else .refused

/-- IMAGE_LEN and the low half of DIGEST, as a LOAD's command record carries them once the header was read (Table 2.10). -/
def lenDigest (hdr : Nat) : Nat := bitsOf hdr 95 64 + bitsOf hdr 223 192 * 2 ^ 32

/-- The end of a LOAD that failed (R44, Table 2.13): its plan object is retired. An EPOCH that waits for it does not switch (R54). -/
def planFail (s : State) (o : Op) (c slot hdl status : Nat) : State :=
  let tag := ((s.ctx c).slotAt slot).tag
  let s := if hdl = 0 then dirLeave s (.tryOp o.id) else objFree s (hIdx hdl) none
  let s := if status = 0x21 then dlAdd s o.req.part 3 else s
  let s := s.delOp o.id |>.modCtx c fun v => { v.setSlot slot { v.slotAt slot with loading := none } with loaderr := true }
  let s := cmdRecord s c ⟨1, slot, tag⟩ status 0 (match o.kind with
    | .plan _ _ _ _ _ hdr => lenDigest hdr
    | _ => 0)
  wakeOf (if (s.ctx c).waitKind = 6 then (s.modCtx c fun v => { v with waitOn := 1 }).todo (.retryCtx c) else s) o

/-- A LOAD is looked at: its plan object is declared and placed, then the image is copied (R44 steps 4 and 5). -/
def planTry (s : State) (o : Op) (c slot hdl src len hdr : Nat) : State :=
  if o.phase = .ending then if quiet s o.id then planFail s o c slot hdl o.endStatus else s
  else if hdl ≠ 0 then issueReadBacks s o
  else if classBarred s o.req.part 11 then planFail s o c slot 0 0x21
  else
    match ownObject s o (up4k len) c true with
    | .refused => planFail s o c slot 0 0x20
    | .waits s => s.setOp { o with phase := .waitSpace }
    | .got s x =>
      let h := handleOf s x
      (s.setOp { o with kind := .plan c slot h src len hdr, phase := .running, x := mkXfer [run 3 (tqaOff src) len x] [run 1 (tqaOff (s.obj x).homeaddr) len x] }).todo (.tryOp o.id)

/-- PLAN_LOAD_DONE (R44 steps 5 and 6). -/
def planDone (s : State) (o : Op) (c slot hdl src len hdr : Nat) : State :=
  let p := o.req.part
  let x := hIdx hdl
  if o.x.srcBad then planFail s o c slot hdl 0x12
  else if o.x.bad ≠ 0 then planFail s o c slot hdl o.x.bad
  else
    let bs := rdP s p src len
    let s := s.storeP p (s.obj x).homeaddr bs
    let dig := bitsOf hdr 255 192
    if crc64 (bs.drop 64) ≠ dig then planFail s o c slot hdl 0x12
    else
      let old := (s.ctx c).slotAt slot
      let s := if old.valid then objFree s (hIdx old.handle) none else s
      let s := s.modObj x fun v => { v with st := .resident }
      let s := (s.delOp o.id).modCtx c fun v =>
        { v.setSlot slot { valid := true, handle := hdl, format := bitsOf hdr 39 32, digest := dig, len := len, entry := bitsOf hdr 127 96, features := bitsOf hdr 191 128, tag := old.tag } with
          st := if v.st = .empty then .loaded else v.st }
      let s := cmdRecord s c ⟨1, slot, old.tag⟩ 0 hdl (lenDigest hdr)
      wakeOf (if (s.ctx c).waitKind = 6 then s.todo (.retryCtx c) else s) o

/-- The copy of a plan image that loads a slot. -/
def planOp (s : State) (c slot : Nat) : Option Op :=
  s.ops.find? fun o => match o.kind with
    | .plan d i _ _ _ _ => d = c && i = slot
    | _ => false

/-- A LOAD is cancelled (R52, R53): it completes with ABORTED once nothing of it is outstanding. -/
def cancelLoad (s : State) (c slot : Nat) : State :=
  match planOp s c slot with
  | some o => match o.kind with
    | .plan _ _ h _ _ _ => if quiet s o.id then planFail s o c slot h 0x10 else s.setOp { o with phase := .ending, endStatus := 0x10 }
    | _ => s
  | none => s

/-- Allocated objects that name a recipe slot with RVALID (R86). -/
def slotRefs (s : State) (n : Nat) : Nat := (s.objs.filter fun e => e.2.st ≠ .free && e.2.rvalid && e.2.recipe = n).length

/-- Bytes of a recipe body: header, input entry i, step i (Tables 5.1 to 5.3). -/
def bodyHdr (w : List Byte) : Nat := leNat (w.take 64)
def bodyIn (w : List Byte) (i : Nat) : Nat := leNat ((w.drop (64 + 16 * i)).take 16)
def bodyStep (w : List Byte) (nin i : Nat) : Nat := leNat ((w.drop (64 + 16 * nin + 32 * i)).take 32)

/-- A step entry (Table 5.3). -/
def parseStep (w : Nat) : RStep where
  kernel := bitsOf w 31 0
  cl := bitsOf w 34 32
  dep := bitOf w 35
  rngpoint := bitOf w 36
  sel := bitsOf w 63 48
  outunits := bitsOf w 95 64
  args := bitsOf w 255 128

/-- A recipe slot from a body (Tables 5.1 to 5.3). -/
def parseBody (w : List Byte) (hdl : Nat) : RSlot :=
  let h := bodyHdr w
  let nin := bitsOf h 47 40
  { valid := true, digest := bitOf h 72, clmask := bitsOf h 71 64, body := hdl, exec := bitsOf h 287 256, outlen := bitsOf h 175 128, scrlen := bitsOf h 239 192
    inputs := (List.range nin).map fun i => bitsOf (bodyIn w i) 31 0, steps := (List.range (bitsOf h 63 48)).map fun i => parseStep (bodyStep w nin i) }

/-- A selector that a body may hold (R134 check 6). -/
def selOk (nin scr v : Nat) : Bool := v ≤ nin || v = 9 || (v = 10 && scr ≠ 0)

/-- An input that R136 allows. -/
def inputOk (s : State) (p h : Nat) : Bool :=
  let o := s.obj (hIdx h)
  operandOk s p h false && (o.clsP || !latHas o 4)

/-- The body check of R134: the status of the first check that fails, 0 when none does. -/
def bodyCheck (s : State) (p : Nat) (w : List Byte) : Nat :=
  let h := bodyHdr w
  let nin := bitsOf h 47 40
  let nst := bitsOf h 63 48
  let b := parseBody w 0
  let rsv := bitsOf h 79 73 = 0 && bitsOf h 127 80 = 0 && bitsOf h 191 176 = 0 && bitsOf h 255 240 = 0 && bitsOf h 319 288 = 0 && bitsOf h 511 384 = 0
  let inRange := 1 ≤ nin && nin ≤ 8 && 1 ≤ nst && nst ≤ 2042 && w.length = 64 + 16 * nin + 32 * nst
  let stRsv := fun (v : Nat) => bitsOf v 47 37 = 0 && bitsOf v 127 96 = 0
  let rsvIn := (List.range nin).all fun i => bitsOf (bodyIn w i) 127 32 = 0
  let rsvSt := (List.range nst).all fun i => stRsv (bodyStep w nin i)
  if bitsOf h 31 0 ≠ 0x50435052 ∨ bitsOf h 39 32 ≠ 1 then 0x22
  else if !rsv || (inRange && !(rsvIn && rsvSt)) then 0x20
  else if !inRange then 0x20
  else if !(4096 ≤ b.outlen && b.outlen ≤ 2 ^ 40 && b.outlen % 4096 = 0 && b.scrlen % 4096 = 0 && b.scrlen ≤ 2 ^ 36) then 0x20
  else if b.clmask ≠ ((b.steps.map fun t => 2 ^ t.cl).foldl (· ||| ·) 0) then 0x20
  else if !b.steps.all (fun t => (List.range 4).all fun k => selOk nin b.scrlen (bitsOf t.sel (4 * k + 3) (4 * k))) then 0x20
  else if (b.steps.map fun t => t.outunits).foldl (· + ·) 0 ≠ b.outlen / 4096 then 0x20
  else if !(List.range 8).all (fun c => (b.steps.filter fun t => t.cl = c && t.rngpoint).length ≤ 1) then 0x20
  else if !b.inputs.all (inputOk s p) then 0x20
  else if crc64 (w.drop 64) ≠ bitsOf h 383 320 then 0x12
  else 0

/-- The end of an RCPDEF (R86): a body object that is not kept is retired. -/
def rcpdefEnd (s : State) (o : Op) (slot hdl len status : Nat) : State :=
  let s := if status = 0 then s else if hdl = 0 then dirLeave s (.tryOp o.id) else objFree s (hIdx hdl) none
  endOp s o { status := status, handle := if status = 0 then hdl else 0, detail := slotRel s o.req.part slot, result := len, quiet := status = 0x10 }

def rcpdefBegin (s : State) (r : Req) (slot src len : Nat) : State :=
  let id := nextId s
  (accept s { id := 0, req := r, kind := .rcpdef slot 0 src len, cls := 11 } true).todo (.tryOp id)

/-- An RCPDEF is looked at: its body object is declared and placed, then the body is copied. -/
def rcpdefTry (s : State) (o : Op) (slot hdl src len : Nat) : State :=
  if o.phase = .ending then if quiet s o.id then rcpdefEnd s o slot hdl len o.endStatus else s
  else if hdl ≠ 0 then issueReadBacks s o
  else
    match ownObject s o (up4k len) (partyNum o.req.who) false with
    | .refused => rcpdefEnd s o slot 0 len 0x20
    | .waits s => s.setOp { o with phase := .waitSpace }
    | .got s x =>
      (s.setOp { o with kind := .rcpdef slot (handleOf s x) src len, phase := .running, x := mkXfer [run 1 (tqaOff src) len x] [run 1 (tqaOff (s.obj x).homeaddr) len x] }).todo (.tryOp o.id)

/-- MOVE_DONE of the copy of a recipe body: it is checked, then the slot is valid (R86). -/
def rcpdefDone (s : State) (o : Op) (slot hdl src len : Nat) : State :=
  if o.x.srcBad then rcpdefEnd s o slot hdl len 0x12
  else if o.x.bad ≠ 0 then rcpdefEnd s o slot hdl len o.x.bad
  else
    let p := o.req.part
    let x := hIdx hdl
    let bs := rdP s p src len
    let s := (s.storeP p (s.obj x).homeaddr bs).modObj x fun v => { v with st := .resident }
    let st := bodyCheck s p bs
    if st ≠ 0 then rcpdefEnd s o slot hdl len st
    else if slotRefs s slot ≠ 0 then rcpdefEnd s o slot hdl len 0x20
    else
      let old := s.slot slot
      let s := if old.valid then objFree s (hIdx old.body) none else s
      rcpdefEnd (s.setSlot slot (parseBody bs hdl)) o slot hdl len 0

/-- RCPDEF with INVAL 1 (R86). -/
def rcpInval (s : State) (r : Req) (slot : Nat) : State :=
  let old := s.slot slot
  let s := if old.valid then objFree s (hIdx old.body) none else s
  complete (s.setSlot slot {}) r { detail := slotRel s r.part slot } true

/-- The separate read of an object for its digest (R140) ends. A read that fails leaves the object without a digest; an entry freed in the meantime takes none. -/
def digestDone (s : State) (o : Op) (h : Nat) (v : Option Nat) : State :=
  let x := hIdx h
  let s := s.delOp o.id
  if (s.obj x).st = .free ∨ handleOf s x ≠ h then s
  else
    let s := setDigest s x (if o.x.srcBad ∨ o.x.bad ≠ 0 then none else v)
    let s := decodeNow s o.acct x
    if (s.obj x).st = .bound ∧ (s.obj x).sealAsked then dropSealed s x else s

/-- The 64 KiB copy of a mover cluster's slice within TREGION, checked by CMP, charged to class TEST of TPART; left out where TREGION is 0 or fails R322 (R323, log entry 34), or the
class may move nothing. -/
def testBegin (s : State) (k : Nat) : State :=
  let a := reg s 0xF0748
  let p := bitsOf (reg s 0xF0740) 7 4
  if a = 0 then s
  else if tqaTier a ≠ 1 ∨ a % 4096 ≠ 0 ∨ !inWindow s p a 131072 then deny s p 7 0 a
  else if classBarred s p 10 then s
  else accept s { id := 0, req := { part := p }, kind := .test k false, cls := 10, phase := .running, x := mkXfer [run 1 (tqaOff a) 65536 0] [run 1 (tqaOff a + 65536) 65536 0] } false
/-- The copy is looked at: once it is complete, source and copy are read and compared. -/
def testTry (s : State) (o : Op) (k : Nat) (cmp : Bool) : State :=
  let a := tqa 1 ((o.x.rd.head?.map fun g => g.addr).getD 0)
  if cmp ∨ !xferDone s o then issueReadBacks s o
  else
    let s := { s with mem := cpBytes s.mem (memKey s o.req.part a) (memKey s o.req.part (a + 65536)) 65536 }
    s.setOp { o with kind := .test k true, x := mkXfer (pairCuts 36 (run 1 (tqaOff a) 65536 0) (run 1 (tqaOff a + 65536) 65536 0)) [] }
/-- The copy of a cluster's slice. -/
def testOp (s : State) (k : Nat) : Option Op :=
  s.ops.find? fun o => match o.kind with
    | .test j _ => j = k
    | _ => false
/-- The copy has passed its check, was left out, or could not be carried through, which slices do not judge: port faults are found by the timeouts of R264 (R323). -/
def testPassed (s : State) (k : Nat) : Bool := match testOp s k with
  | some o => o.phase = .ending || (o.kind = .test k true && xferDone s o)
  | none => true
/-- A slice that ends or is abandoned ends its copy. -/
def testDrop (s : State) (k : Nat) : State := match testOp s k with
  | some o => s.delOp o.id
  | none => s

/-- An operation whose transfer runs at once is looked at: read back, or ended early by `fin` with its status. -/
def plainTry (s : State) (o : Op) (fin : Nat → State) : State :=
  if o.phase = .ending then if quiet s o.id then fin o.endStatus else s
  else if o.x.srcBad ∨ o.x.bad ≠ 0 then stopOp s o (if o.x.srcBad then 0x12 else o.x.bad)
  else issueReadBacks s o

/-- MOVE_DONE of such an operation: `fin` ends it with the worst status met. -/
def plainStatus (o : Op) : Nat := if o.x.srcBad then 0x12 else o.x.bad

end Sys2Proof.Machine
end

