-- ==== Sys2Proof/Machine/Watch.lean ====
section
/-!
DEFINITION. Watch taps (R338 to R342): arming, what makes a sample due, a sample and its statistics.
-/

namespace Sys2Proof.Machine

/-- Armed taps of a partition, its allowance (R338), and the lowest free tap. -/
def armedTaps (s : State) (p : Nat) : Nat := (s.taps.filter fun e => e.2.armed && e.2.part = p).length
def watchAllow (s : State) (p : Nat) : Nat := bitsOf (reg s (0xB9600 + 4 * p)) 9 0
def freeTap (s : State) (p : Nat) : Option Nat :=
  if armedTaps s p < watchAllow s p then (List.range 512).find? fun t => !(s.tapOf t).armed else none

/-- A sample that is skipped (R339). -/
def skipTap (s : State) (t : Nat) : State := s.setTap t { s.tapOf t with skipped := satAdd 32 (s.tapOf t).skipped 1 }

/-- The sample of a tap that is in progress. -/
def sampleOp (s : State) (t : Nat) : Option Op :=
  s.ops.find? fun o => match o.kind with
    | .watch k _ => k = t
    | _ => false

/-- A sample that is due is looked at (R339): its read starts where the object is RESIDENT, it waits for DONE while the object is IN_TRANSIT or REGEN, and it is skipped where the
object cannot be read, where its class may move nothing (R128), and where the data would have to be decoded and no decode lane is usable (R166). -/
def watchGo (s : State) (t : Nat) : State :=
  let v := s.tapOf t
  let x := hIdx v.hdl
  let o := s.obj x
  if !v.armed ∨ v.due = 0 ∨ (sampleOp s t).isSome ∨ o.st = .inTransit ∨ o.st = .regen then s
  else
    let s := s.setTap t { v with due := 0 }
    if o.st ≠ .resident ∨ classBarred s o.part 9 ∨ (o.home = 3 ∧ s.hostl.detached) ∨ (o.form = .enc ∧ !decUsable s) then skipTap s t
    else accept s { id := 0, req := { part := o.part, handle := v.hdl }, kind := .watch t v.hdl, cls := 9, phase := .running, x := mkXfer [homeSeg s x] [] } false

/-- The sample in progress ends without a result, and one that a trigger asked for meanwhile follows (R339). -/
def watchSkip (s : State) (o : Op) (t : Nat) : State := watchGo (skipTap (s.delOp o.id) t) t

/-- Arm a tap on a handle (R105, R339, R341): a sample is due, the history is empty. -/
def armTap (s : State) (t p h stat : Nat) (dig : Bool) : State := watchGo (s.setTap t { armed := true, hdl := h, stat := stat, digest := dig, part := p, due := 1 }) t
/-- DISARM: a sample in progress ends without a result (R342). -/
def disarmTap (s : State) (t : Nat) : State :=
  let s := s.setTap t { s.tapOf t with armed := false, due := 0 }
  match sampleOp s t with
  | some o => s.delOp o.id
  | none => s

/-- A trigger of a tap (R339): one that comes while a sample is due or in progress merges with it, so at most one further sample follows. -/
def trigger (s : State) (t : Nat) : State := watchGo (s.setTap t { s.tapOf t with due := 1 }) t
/-- A trigger on an object's taps, and on every tap of a partition. -/
def triggerObj (s : State) (x : Nat) : State := (tapsOf s (handleOf s x)).foldl trigger s
def triggerPart (s : State) (p : Nat) : State := (s.taps.filter fun e => e.2.armed && e.2.part = p).foldl (fun s e => trigger s e.1) s
/-- Samples of an object's taps that waited for its DONE. -/
def watchObj (s : State) (x : Nat) : State := (tapsOf s (handleOf s x)).foldl watchGo s

/-- The format in which a statistic reads its elements (Table 13.5). -/
def statFmt (stat : Nat) : Nat := stat - 1

/-- What a summary holds (R340). -/
structure Summary where
  count : Nat := 0
  nonfin : Nat := 0
  min : Nat := 0
  max : Nat := 0
  sum : Nat := 0
  mean : Nat := 0
  deriving DecidableEq, Repr

/-- Elements of raw bytes as FP32 words (Table 13.5, R174). -/
def statWords (stat : Nat) (bs : List Byte) (seed : Nat) : List Nat :=
  let c := statFmt stat
  let n := elemBits c / 8
  (List.range (bs.length / n)).map fun i =>
    let w := leNat ((bs.drop (n * i)).take n)
    match fmtOf c with
    | some f => toFp32 (f.read w) (seed + i)
    | none => w

/-- The statistics of R340 over elements in raw order. -/
def summarize (l : List Nat) (seed : Nat) : Summary :=
  let fin := l.filter fFin
  let bad := l.length - fin.length
  let sum := fin.foldl (fun a w => fAdd a w seed) 0
  let pick := fun (lt : Nat → Nat → Bool) => match fin with
    | [] => (Config.emptyStat seed).toNat
    | w :: r => r.foldl (fun a b => if lt b a then b else a) w
  { count := l.length, nonfin := bad, min := pick fLt, max := pick fun a b => fLt b a, sum := sum,
    mean := if fin = [] then 0 else toFp32 (divNum (ofFp32 sum) (.fin false fin.length 0) seed) seed }

/-- The mean breaks away from the history (R341). -/
def isSpike (factor : Nat) (hist : List Nat) (mean seed : Nat) : Bool :=
  if fAbs factor = 0 ∨ hist.length < 4 then false
  else
    let sum := hist.foldl (fun a w => fAdd a (fAbs w) seed) 0
    let ref := toFp32 (divNum (ofFp32 sum) (.fin false hist.length 0) seed) seed
    !fFin mean || fLt (fMul factor ref seed) (fAbs mean)

/-- WATCH_SAMPLE: the read of a tap's sample is complete (R339 to R341). A read that failed, or an object that is gone or lost by now, skips it. -/
def sampleTap (s : State) (o : Op) (t : Nat) : State :=
  let v := s.tapOf t
  let x := hIdx v.hdl
  let ob := s.obj x
  let gone := ob.st ≠ .resident ∧ ob.st ≠ .inTransit
  match (if o.x.srcBad ∨ o.x.bad ≠ 0 ∨ gone then none else rawBytes s x) with
  | none => watchSkip (if o.x.srcBad ∨ o.x.bad ≠ 0 ∨ gone then s else sieveCount s x) o t
  | some bs =>
    let s := decodeNow (s.delOp o.id) none x
    let q := if v.stat = 0 then {} else summarize (statWords v.stat bs s.free) s.free
    let factor := bitsOf (reg s (0xB9680 + 8 * v.part)) 31 0
    let spike := v.stat ≠ 0 && isSpike factor v.hist q.mean s.free
    let hist := if v.stat ≠ 0 ∧ fFin q.mean then (v.hist ++ [q.mean]).drop (v.hist.length + 1 - 16) else v.hist
    let v := { v with samples := satAdd 32 v.samples 1, hist := hist, time := s.now, crc := if v.digest then crc64 bs else v.crc }
    let v := if v.stat = 0 then v else { v with count := q.count, nonfin := q.nonfin, min := q.min, max := q.max, sum := q.sum, mean := q.mean }
    let s := (s.ticks (1 + q.count)).setTap t v
    watchGo (raiseEv s v.part 3 t ((if q.nonfin ≠ 0 then [(0x13, v.hdl)] else []) ++ if spike then [(0x14, v.hdl)] else [])) t

end Sys2Proof.Machine
end

