-- ==== Sys2Proof/Machine/Kobject.lean ====
section
/-!
DEFINITION. What the object, residency and recompute instructions do from step 4 of R72 on (R78 to R88).
-/

namespace Sys2Proof.Machine

/-- NOP (R81). -/
def bodyNop : Body := fun s i r => doneI s i r {}

/-- RAWLEN of DECL (R25). -/
def rawlenOk (n : Nat) : Bool := 4096 ≤ n && n ≤ 2 ^ 40 && n % 4096 = 0

/-- The checks of DECL (R18, R19, R25, R58, R78). -/
def declOk (s : State) (i : Ins) : Bool :=
  let lat := i.aux 4 0
  let p := i.aux 5 5 = 1
  let rv := bitOf i.b.opa 14
  lat ≠ 0 && (!p || lat = 1) && rawlenOk (i.e 0 47 0) && (!rv || bitsOf i.b.opa 13 0 < rcpCount s i.p) && !(rv && p) && !(i.aux 8 8 = 1 && !p) &&
    !(i.aux 6 6 = 1 && !(s.part i.p).keyValid) && !(i.aux 7 7 = 1 && (p || rv || (lat ≠ 1 && lat ≠ 16)))

/-- The entry that DECL makes. -/
def declObj (s : State) (i : Ins) : Obj :=
  let rv := bitOf i.b.opa 14
  { st := .declared, clsP := i.aux 5 5 = 1, part := i.p, ctx := i.c, lat := i.aux 4 0, prot := i.aux 6 6 = 1, transient := i.aux 7 7 = 1, privileged := i.aux 8 8 = 1,
    rawlen := i.e 0 47 0, rvalid := rv, recipe := if rv then rcpBase s i.p + bitsOf i.b.opa 13 0 else 0 }

/-- DECL (R78). Its wait for an entry keeps the place it has (R12); an instruction that waits is checked again when it is carried out. -/
def bodyDecl : Body := fun s i r =>
  let w := Work.retryCtx i.c
  if !declOk s i || !quotaOk s i.p then failI (dirLeave s w) i r 0x20
  else if !dirTurn s w then waitEntry s i r
  else
    let x := (dirFree s).getD 0
    let s := dirAlloc (dirLeave s w) x (declObj s i)
    let h := handleOf s x
    doneI (setG s i.c (i.aux 15 12) h) i r { handle := h, result := i.e 0 47 0 }

/-- The tier of BIND and of a recipe's output (R80, R88). -/
def bindTierOk (o : Obj) (t : Nat) : Bool := if o.clsP then t < 3 else t < 2

/-- BIND (R80). -/
def bodyBind : Body := fun s i r =>
  let h := hdlA s i
  let x := hIdx h
  let o := s.obj x
  let t := i.aux 1 0
  let n := semBase s i.p + i.b.opb
  if !operandOk s i.p h false || semCount s i.p ≤ i.b.opb || i.e 0 15 0 = 0 || !bindTierOk o t || o.st ≠ .declared || o.holds ≠ 0 then failI (storeLeave s i.c) i r 0x20
  else if storeWaits s i.c then block (storeJoin s i.c) i.c 1 n r
  else
    match getSpace s i.p t o.rawlen false .none (some i.c) (.retryCtx i.c) with
    | (none, s) => waitSpace (storeLeave s i.c) i r h
    | (some a, s) =>
      let s := (bindAt (storeLeave s i.c) x t a o.rawlen).modObj x fun v => { v with sealAt := some (n, i.e 0 15 0), sealReq := some { r with handle := h } }
      joinSem (go (setG (touch s x) i.c (i.aux 7 4) (tqa t a)) i r) n (.sealing x (i.e 0 15 0))

/-- RETIRE (R81). -/
def bodyRetire : Body := fun s i r =>
  let h := hdlA s i
  if !operandOk s i.p h true then failI s i r 0x20 else retireEv (go s i r) (hIdx h) (i.aux 0 0 = 1) { r with handle := h }

/-- PIN and UNPIN (R81). -/
def pinBody (on : Bool) : Body := fun s i r =>
  let h := hdlA s i
  if !operandOk s i.p h false then failI s i r 0x20 else doneI (touch (s.modObj (hIdx h) fun o => { o with pinned := on }) (hIdx h)) i r {}

/-- The disposition that an opcode names (Table 1.7). -/
def dispOf (opcode : Nat) : Nat := if opcode = 0x10 then 1 else if opcode = 0x11 then 2 else if opcode = 0x12 then 3 else if opcode = 0x13 then 4 else 5

/-- The checks of a disposition instruction (R20, R82). -/
def dispOk (s : State) (x d : Nat) : Bool :=
  let o := s.obj x
  !o.clsP && latHas o d && (d ≠ 2 || !o.prot) && (d ≠ 4 || (slotFor s x && (o.st ≠ .resident || o.rngcap))) && !(o.pinned && (d = 2 || d = 3 || d = 4))

/-- KEEP, SQZ, SPILL, DROP and STOCK (R82). -/
def bodyDisp : Body := fun s i r =>
  let h := hdlA s i
  let x := hIdx h
  let o := s.obj x
  let d := dispOf i.b.opcode
  let r := { r with handle := h }
  if !operandOk s i.p h false || !dispOk s x d then failI s i r 0x20
  else
    let s := touch (go s i r) x
    if (o.st = .declared ∨ o.st = .bound) ∧ o.holds = 0 then (endFixed s x 0x10 false).modObj x fun v => { v with fixed := some (d, r) }
    else if o.st = .declared ∨ o.st = .bound then deferOn s x ⟨r, .evict (dispTarget o i.b.opcode)⟩
    else dispEv s x r

/-- TIER of FETCH and PROMOTE against the home that R83 names. -/
def tierBad (o : Obj) (t : Nat) : Bool :=
  match o.st with
  | .declared => false
  | .bound => false
  | .dropped => t ≠ 1
  | .regen => 1 < t
  | _ => o.home < t

/-- The checks of FETCH and PROMOTE (R15, R83). -/
def fetchOk (s : State) (i : Ins) (h : Nat) : Bool :=
  let o := s.obj (hIdx h)
  let t := i.aux 1 0
  operandOk s i.p h false && (if o.clsP then t ≠ 3 else t ≠ 2) && !(i.aux 2 2 = 1 && t ≠ 1) && !(i.b.opcode = 0x14 && 2 ≤ t) && !tierBad o t

/-- FETCH and PROMOTE (R83). -/
def bodyFetch : Body := fun s i r =>
  let h := hdlA s i
  match dlOf s i (s.ctx i.c).dlbase with
  | none => failI s i r 0x20
  | some d => if !fetchOk s i h then failI s i r 0x20 else promoteEv (touch (go s i r) (hIdx h)) (hIdx h) (i.aux 1 0) (i.aux 2 2 = 1) { r with dl := d, handle := h }

/-- A tier that DEMOTE with AUTO 0 may name (R15, R84). A TRANSIENT object is no exception (log entry 154). -/
def demoteTier (o : Obj) (t : Nat) : Option Tgt :=
  if t = 0 ∨ (if o.clsP then t = 3 else t = 2 ∨ (t = 3 ∧ !latHas o 3)) then none else some (.tier t (if t = 3 then if o.prot then .prot else .enc else .raw))

/-- Where a DEMOTE takes an object (R84, Table 1.6); none where it may not. A POISONED object is judged by its HOME. One on its way is judged with AUTO 1 when the request is applied
(R24); one without a home has none that TIER could be held against (log entry 50). -/
def demoteTo (s : State) (x t : Nat) (auto : Bool) : Option Tgt :=
  let o := s.obj x
  let placed := o.st = .resident ∨ o.st = .poisoned
  if o.pinned ∨ o.st = .bound ∨ (auto ∧ t ≠ 0) then none
  else if auto then if placed then demotion s x else some .drop
  else if (placed ∨ o.st = .inTransit ∨ o.st = .parked) ∧ t ≤ o.home then none
  else demoteTier o t

/-- DEMOTE (R84). -/
def bodyDemote : Body := fun s i r =>
  let h := hdlA s i
  let auto := i.aux 2 2 = 1
  if !operandOk s i.p h false then failI s i r 0x20
  else
    let s := if auto ∧ (s.obj (hIdx h)).st = .resident then demoteCount s (hIdx h) else s
    match demoteTo s (hIdx h) (i.aux 1 0) auto with
    | none => failI s i r 0x20
    | some t => evictEv (go s i r) (hIdx h) t { r with handle := h, auto := auto }

/-- RCPDEF (R86). -/
def bodyRcpdef : Body := fun s i r =>
  let n := rcpBase s i.p + i.b.opa
  let a := i.e 0 63 0
  let len := i.e 0 95 64
  if rcpCount s i.p ≤ i.b.opa ∨ slotRefs s n ≠ 0 then failI s i r 0x20
  else if i.aux 0 0 = 1 then rcpInval (go s i r) r n
  else if !inWindow s i.p a len then failAddr s i r a
  else if !(len % 16 = 0 && 64 ≤ len && len ≤ 65536 && tqaTier a = 1) then failI s i r 0x20
  else if !quotaOk s i.p then failI s i r 0x20
  else if classBarred s i.p 11 then deferI s i r 0 len i.b.opa
  else rcpdefBegin (go s i r) r n a len

/-- RCPRUN into a DECLARED object (R88): its recipe waits for dispatch. -/
def runInto (s : State) (i : Ins) (r : Req) (x h t a n : Nat) : State :=
  let len := (s.obj x).rawlen
  let cost := recipeCost (s.modObj x fun o => { o with recipe := n }) x r.due
  let s := (bindAt s x t a len).modObj x fun v => { v with sealReq := some { r with handle := h, detail := slotRel s i.p n } }
  let s := go (setG (touch s x) i.c (i.aux 7 4) (tqa t a)) i r
  let id := nextId s
  let rc : Recipe := { slot := n, obj := x, declared := true, outAddr := tqa t a, cost := cost, t0 := s.now }
  (accept s { id := 0, req := { part := i.p, dl := r.dl }, kind := .recipe rc, cls := 2, acct := some i.c } false).todo (.tryOp id)

/-- RCPRUN (R88). -/
def bodyRcprun : Body := fun s i r =>
  let h := hdlA s i
  let x := hIdx h
  let o := s.obj x
  let t := i.aux 1 0
  match dlOf s i (s.ctx i.c).dlbase with
  | none => failI s i r 0x20
  | some d =>
    let r := { r with dl := d, handle := h }
    if !operandOk s i.p h false then failI s i r 0x20
    else if o.st = .dropped then
      if i.b.opb ≠ 0 ∨ i.aux 7 4 ≠ 0 ∨ t ≠ 1 ∨ !slotFor s x then failI s i r 0x20 else promoteEv (touch (go s i r) x) x 1 false r
    else
      let n := rcpBase s i.p + i.b.opb
      if o.st ≠ .declared ∨ o.clsP ∨ o.holds ≠ 0 ∨ 2 ≤ t ∨ rcpCount s i.p ≤ i.b.opb ∨ !(s.slot n).valid ∨ (s.slot n).outlen ≠ o.rawlen then failI s i r 0x20
      else if !maskUp s (s.slot n).clmask then failI s i r 0x31
      else if classBarred s i.p 2 then deferI s i r h
      else
        match getSpace s i.p t o.rawlen false .none (some i.c) (.retryCtx i.c) with
        | (none, s) => waitSpace s i r h
        | (some a, s) => runInto s i r x h t a n

/-- RNGCAP (R87). -/
def bodyRngcap : Body := fun s i r =>
  let h := hdlA s i
  let x := hIdx h
  let o := s.obj x
  if !operandOk s i.p h false || o.clsP || !(o.st = .declared || o.st = .bound) || i.aux 7 0 = 0 then failI s i r 0x20
  else if !maskUp s (i.aux 7 0) then failI s i r 0x31
  else doneI ((touch s x).modObj x fun v => { v with clmask := i.aux 7 0 }) i r {}

/-- RNGSET (R87). -/
def bodyRngset : Body := fun s i r =>
  let h := hdlA s i
  let x := hIdx h
  let o := s.obj x
  let m := i.aux 7 0
  let cap := (s.slot o.recipe).capmask
  if !operandOk s i.p h false || !o.rngcap || m = 0 || m ||| cap ≠ cap then failI s i r 0x20
  else if !maskUp s m then failI s i r 0x31
  else
    let s := touch (go s i r) x
    let id := nextId s
    (accept s { id := 0, req := { r with handle := h }, kind := .rngset x m 0 0, cls := 2, phase := .running } false).todo (.tryOp id)

end Sys2Proof.Machine
end

