-- ==== Sys2Proof/Machine/Kstream.lean ====
section
/-!
DEFINITION. What the stream instructions do from step 4 of R72 on (R89 to R97).
-/

namespace Sys2Proof.Machine

/-- A RESIDENT object of a class that an instruction may name. -/
def residentP (s : State) (p h : Nat) : Bool := operandOk s p h false && (s.obj (hIdx h)).clsP && (s.obj (hIdx h)).st = .resident
/-- A DECLARED object that no operation is making already. -/
def declaredOk (s : State) (p h : Nat) : Bool := operandOk s p h false && (s.obj (hIdx h)).st = .declared && (s.obj (hIdx h)).holds = 0
/-- A RESIDENT index object, held raw, with n entries (R199). -/
def indexOk (s : State) (p h n : Nat) : Bool := operandOk s p h false && (s.obj (hIdx h)).st = .resident && (s.obj (hIdx h)).form = .raw && 4 * n ≤ (s.obj (hIdx h)).rawlen

/-- The row operands of an indexed GATHER: index handle, ROWS, ROWBYTES. -/
def gatherIdx (i : Ins) : Option (Nat × Nat × Nat) := if i.aux 6 6 = 1 then some (i.e 1 31 0, i.e 1 63 32, i.e 1 95 64) else none

/-- The operands of GATHER (R77, R89, R199, R210, R213). -/
def gatherOk (s : State) (i : Ins) : Bool :=
  let g := i.e 0 15 0
  let t := s.tgrp g
  let fmt := i.aux 5 2
  let n := match gatherIdx i with
    | some (_, rows, rb) => rows * (rb / 4)
    | none => t.shards * t.elems
  residentP s i.p (hdlA s i) && declaredOk s i.p (hdlB s i) && (s.obj (hIdx (hdlB s i))).clsP && i.aux 1 0 < 2 && 1 ≤ fmt && fmt ≤ 8 && grpFor s i.p 0 g && (gatherOn s g).isNone &&
    (s.obj (hIdx (hdlA s i))).rawlen = t.shardLen && (!isMx fmt || t.elems % 32 = 0) && (s.obj (hIdx (hdlB s i))).rawlen = fmtLen fmt n &&
    match gatherIdx i with
    | some (h, rows, rb) => indexOk s i.p h rows && 64 ≤ rb && rb ≤ 16777216 && rb % 64 = 0 && (!isMx fmt || rb % 128 = 0)
    | none => true

/-- GATHER (R89): the working copy is allocated as BIND does. -/
def bodyGather : Body := fun s i r =>
  match dlOf s i (s.ctx i.c).dlbase with
  | none => failI s i r 0x20
  | some d =>
    if !gatherOk s i then failI s i r 0x20
    else if classBarred s i.p 3 then deferI s i r (hdlB s i)
    else
      let m := hIdx (hdlA s i)
      let w := hIdx (hdlB s i)
      let t := i.aux 1 0
      match getSpace s i.p t (s.obj w).rawlen false .none (some i.c) (.retryCtx i.c) with
      | (none, s) => waitSpace s i r (hdlB s i)
      | (some a, s) =>
        let (idx, rows) := match gatherIdx i with
          | some (h, n, rb) => (some (hIdx h, rb), fp32s n (objBytes s (hIdx h) 0 (4 * n)))
          | none => (none, [])
        gatherBegin (touchAll (go s i r) (named s i)) { r with dl := d } m w t a (i.aux 5 2) (i.e 0 15 0) idx rows

/-- A moment format that Table 8.6 allows. -/
def momentFmt (f : Nat) : Bool := f = 4 || f = 5 || f = 8

/-- The operands of SWEEP (R90, R216, R220). -/
def sweepOk (s : State) (i : Ins) : Bool :=
  let hs := named s i
  let o := s.obj (hIdx (hdlA s i))
  let n := o.rawlen / 4
  let len := fun (h : Nat) => (s.obj (hIdx h)).rawlen
  let opt := optWords s i.p (s.part i.p).budActive
  let h := i.e 0 79 64
  hs.all (residentP s i.p) && len (i.e 0 63 32) = gradLen n &&
    if o.privileged then hsetFor s i.p h && hsetFor s i.p (h + 1) && len (hdlB s i) = up4k n && len (i.e 0 31 0) = up4k n
    else h = 0 && momentFmt (m1fmt opt) && momentFmt (m2fmt opt) && len (hdlB s i) = momentLen n && len (i.e 0 31 0) = momentLen n

/-- SWEEP (R90). -/
def bodySweep : Body := fun s i r =>
  if !sweepOk s i then failI s i r 0x20
  else if classBarred s i.p 4 then deferI s i r (hdlA s i)
  else sweepBegin (touchAll (go s i r) (named s i)) r (hIdx (hdlA s i)) (hIdx (hdlB s i)) (hIdx (i.e 0 31 0)) (hIdx (i.e 0 63 32)) (i.e 0 79 64) (i.aux 0 0 = 1)

/-- The operands of LAND (R91, R210, R216). -/
def landOk (s : State) (i : Ins) : Bool :=
  let a := s.obj (hIdx (hdlA s i))
  let g := i.e 0 31 16
  (i.aux 0 0 = 1) == (i.b.dln = 1) && (named s i).all (residentP s i.p) && a.home < 2 && (s.obj (hIdx (hdlB s i))).rawlen = gradLen (a.rawlen / 4) && grpFor s i.p 1 g && (landOn s g).isNone

/-- LAND (R91). -/
def bodyLand : Body := fun s i r =>
  match dlOf s i (s.ctx i.c).dlbase with
  | none => failI s i r 0x20
  | some d =>
    if !landOk s i then failI s i r 0x20
    else if classBarred s i.p 5 then deferI s i r (hdlB s i)
    else landBegin (touchAll (go s i r) (named s i)) { r with dl := d } (hIdx (hdlA s i)) (hIdx (hdlB s i)) (i.e 0 31 16) (i.e 0 15 0) (i.aux 0 0 = 1) (i.aux 1 1)

/-- The operands of TSTREAM (R92, R227, R230). -/
def teachOk (s : State) (i : Ins) : Bool :=
  let m := i.aux 1 0
  let k := i.e 0 31 16
  let ix := s.obj (hIdx (hdlB s i))
  let out := i.e 0 63 32
  let o := s.obj (hIdx out)
  m ≠ 3 && residentP s i.p (hdlA s i) && (s.obj (hIdx (hdlA s i))).home < 3 && i.e 0 7 0 ≠ 0 &&
    (m ≠ 2 || (indexOk s i.p (hdlB s i) 0 && k ≠ 0 && declaredOk s i.p out && !o.clsP && o.transient && ix.rawlen / 4 * topkBytes k ≤ o.rawlen))
/-- Clusters of CLMASK that can take the stream (R92). -/
def teachUp (s : State) (i : Ins) : Bool := maskUp s (i.e 0 7 0) && (i.aux 1 0 = 2 || (clustersOf (i.e 0 7 0)).all fun c => satsOf s c ≠ [])

/-- TSTREAM (R92). -/
def bodyTstream : Body := fun s i r =>
  match dlOf s i (s.ctx i.c).dlbase with
  | none => failI s i r 0x20
  | some d =>
    if !teachOk s i then failI s i r 0x20
    else if !teachUp s i then failI s i r 0x31
    else if classBarred s i.p 3 then deferI s i r (if i.aux 1 0 = 2 then i.e 0 63 32 else hdlA s i) 0 (if i.aux 1 0 = 2 then i.e 0 31 16 else 0)
    else teachBegin (touchAll (go s i r) (named s i)) { r with dl := d } (hIdx (hdlA s i)) (i.aux 1 0) (i.e 0 7 0) (i.e 0 31 16) (hIdx (i.e 0 63 32)) (hIdx (hdlB s i))

/-- The operands of XCHG (R93, R221). -/
def xchgOk (s : State) (i : Ins) : Bool :=
  let dir := i.e 0 17 16
  let ch := i.e 0 47 32
  let x := s.obj (hIdx (hdlA s i))
  let y := s.obj (hIdx (hdlB s i))
  dir ≠ 3 && ch < 0x8400 && inJob s i.p (i.e 0 15 0) && (ch < 0x8000 || dir = 0) &&
    (dir = 1 || (operandOk s i.p (hdlA s i) false && x.st = .resident && x.clsP = decide (0x8000 ≤ ch))) &&
    (dir = 0 || (declaredOk s i.p (hdlB s i) && !y.clsP && i.aux 1 0 < 2))

/-- XCHG (R93). -/
def bodyXchg : Body := fun s i r =>
  match dlOf s i (s.ctx i.c).dlbase with
  | none => failI s i r 0x20
  | some d =>
    if !xchgOk s i then failI s i r 0x20
    else if classBarred s i.p 6 then deferI s i r (if i.e 0 17 16 = 0 then hdlA s i else hdlB s i)
    else
      let x := hIdx (hdlA s i)
      let y := hIdx (hdlB s i)
      let s := touchAll (go s i r) (named s i)
      let r := { r with dl := d }
      if i.e 0 17 16 = 0 then sendBegin s r x (i.e 0 15 0) (i.e 0 47 32) none
      else if i.e 0 17 16 = 1 then recvBegin s r y (i.e 0 15 0) (i.e 0 47 32) (i.aux 1 0) none
      else bothBegin s r x y (i.e 0 15 0) (i.e 0 47 32) (i.aux 1 0)

/-- SNAP (R94, R233, R319). -/
def bodySnap : Body := fun s i r =>
  let h := hdlA s i
  let o := s.obj (hIdx h)
  if !residentP s i.p h || !quotaOk s i.p then failI s i r 0x20
  else if s.hostl.detached then failI s i r 0x32
  else if o.prot ∧ aesUsable s = [] then failI s i r 0x31
  else if o.prot ∧ (s.part i.p).nonce = 2 ^ 64 - 1 then failI s i r 0x20
  else if classBarred s i.p 8 then failI s i r 0x21
  else
    match place s i.p 3 (formSize o (if o.prot then .prot else .raw)) false with
    | none => waitSpace s i r h
    | some a => snapBegin (touch (go s i r) (hIdx h)) { r with gdst := i.aux 3 0 } (hIdx h) a

/-- A range of an object that BOUNCE (units of 64) or FILL (of 8) names (R95, R96). -/
def rangeOk (o : Obj) (unit off len : Nat) : Bool := off % unit = 0 && len % unit = 0 && 0 < len && off + len ≤ o.rawlen
/-- The object can be written in place: RESIDENT and raw, or BOUND. -/
def writable (o : Obj) : Bool := (o.st = .resident && o.form = .raw) || o.st = .bound

/-- BOUNCE (R95). -/
def bodyBounce : Body := fun s i r =>
  let h := hdlA s i
  let o := s.obj (hIdx h)
  let toHost := i.aux 0 0 = 1
  let host := i.e 0 63 0
  let off := i.e 1 47 0
  let len := i.e 1 95 48
  if !inWindow s i.p host len then failAddr s i r host
  else if !operandOk s i.p h false || tqaTier host ≠ 3 || !rangeOk o 64 off len || o.prot || 3 ≤ o.home || !writable o || (toHost && o.st ≠ .resident) then failI s i r 0x20
  else if s.hostl.detached then failI s i r 0x32
  else if classBarred s i.p 7 then deferI s i r h
  else bounceBegin (touch (go s i r) (hIdx h)) { r with handle := h } (hIdx h) off len host toHost

/-- FILL (R96). -/
def bodyFill : Body := fun s i r =>
  let h := hdlA s i
  let o := s.obj (hIdx h)
  if !operandOk s i.p h false || !rangeOk o 8 (i.e 0 47 0) (i.e 0 95 48) || !writable o then failI s i r 0x20
  else if o.home = 3 ∧ s.hostl.detached then failI s i r 0x32
  else if classBarred s i.p 11 then deferI s i r h (i.e 0 95 48)
  else fillBegin (touch (go s i r) (hIdx h)) { r with handle := h } (hIdx h) (i.e 0 47 0) (i.e 0 95 48) (i.e 1 63 0)

/-- CMP (R96). Encoded data needs a decode lane (R166). -/
def bodyCmp : Body := fun s i r =>
  let h := hdlA s i
  let k := hdlB s i
  let ok := fun (h : Nat) => operandOk s i.p h false && (s.obj (hIdx h)).st = .resident && rangeOk (s.obj (hIdx h)) 8 (i.e 0 47 0) (i.e 0 95 48)
  if !ok h || !ok k then failI s i r 0x20
  else if ((s.obj (hIdx h)).home = 3 ∨ (s.obj (hIdx k)).home = 3) ∧ s.hostl.detached then failI s i r 0x32
  else if ((s.obj (hIdx h)).form = .enc ∨ (s.obj (hIdx k)).form = .enc) ∧ !decUsable s then failI s i r 0x31
  else if classBarred s i.p 11 then deferI s i r h
  else cmpBegin (touchAll (go s i r) (named s i)) { r with handle := h } (hIdx h) (hIdx k) (i.e 0 47 0) (i.e 0 95 48)

/-- A FENCE of the context is not complete, or what it held back has not all taken effect (R99). -/
def isHeld (s : State) (c : Nat) : Bool :=
  s.ops.any fun o => o.req.who = .ctx c && match o.kind with
    | .fence _ _ | .heldSignal _ _ _ | .heldInline _ _ | .heldBar _ => true
    | _ => false
/-- An instruction that FENCE holds back (R99). -/
def holdOp (s : State) (r : Req) (k : OpKind) : State := accept s { id := 0, req := r, kind := k } false

/-- INLINE (R97). -/
def bodyInline : Body := fun s i r =>
  let a := (s.ctx i.c).gr (i.b.opa % 16)
  let n := i.aux 6 0
  if i.b.areg ≠ 1 || n = 0 || 16 * nextMax (s.ctx i.c).plan.format < n || 4096 < a % 4096 + n then failI s i r 0x20
  else if !inWindow s i.p a n then failAddr s i r a
  else if t3Away s a then failI s i r 0x32
  else if classBarred s i.p 11 then deferI s i r 0 a
  else
    let bs := (i.ext.flatMap (leBytes 16)).take n
    let s' := go s i r
    if isHeld s i.c then holdOp s' r (.heldInline a bs) else inlineBegin s' r a bs

end Sys2Proof.Machine
end

