-- ==== Sys2Proof/Machine/Ksync.lean ====
section
/-!
DEFINITION. What the synchronisation and control instructions do from step 4 of R72 on (R98 to R109).
-/

namespace Sys2Proof.Machine

/-- A ring of the partition that is configured (R58, R240). -/
def ringOkFor (s : State) (p n : Nat) : Bool := n < ringCount s p && 0 < ringDepth (s.ring (ringBase s p + n))

/-- WAIT on a semaphore (R98, R237, R238). -/
def waitSem (s : State) (i : Ins) (r : Req) : State :=
  let n := semBase s i.p + i.b.opa
  let m := s.sem n
  let amt := i.b.opb
  if semCount s i.p ≤ i.b.opa then failI s i r 0x20
  else if amt = 0 ∨ (m.q = [] ∧ amt ≤ m.val) then doneI (s.setSem n { m with val := m.val - amt }) i r { result := m.val - amt }
  else if storeWaits s i.c then traceBegin (block (storeJoin s i.c) i.c 1 n r) i.c
  else joinSem (traceBegin (block s i.c 1 n r) i.c) n (.ctx i.c amt)

/-- WAIT on a ring (R98, R241). -/
def waitRing (s : State) (i : Ins) (r : Req) : State :=
  let n := ringBase s i.p + i.b.opa
  if !ringOkFor s i.p i.b.opa then failI s i r 0x20
  else
    match ringPop s n (.ctx i.c) with
    | (some h, s) => doneI (setG s i.c (i.aux 7 4) h) i r { handle := h, result := ringCount' (s.ring n) }
    | (none, s) => traceBegin (block s i.c 5 n { r with gdst := i.aux 7 4 }) i.c

/-- WAIT (R98). -/
def bodyWait : Body := fun s i r => if i.aux 0 0 = 1 then waitRing s i r else waitSem s i r

/-- SIGNAL takes effect (R98): on a semaphore, or on a ring with room; a full ring blocks the context. -/
def signalNow (s : State) (i : Ins) (r : Req) (ring : Bool) (n amt : Nat) : State :=
  if ring then
    match ringPush s n amt (.ctx i.c) none with
    | (s, true) => doneI s i r { result := ringCount' (s.ring n) }
    | (s, false) => traceBegin (block s i.c 5 n r) i.c
  else
    let v := min ((s.sem n).val + amt) 0xFFFF
    doneI (semAddTo s n amt (.ctx i.c)) i r { result := v }

/-- SIGNAL (R98, R99). -/
def bodySignal : Body := fun s i r =>
  let ring := i.aux 0 0 = 1
  let h := hdlB s i
  let bad := if ring then !ringOkFor s i.p i.b.opa || !operandOk s i.p h false else semCount s i.p ≤ i.b.opa
  if bad then failI s i r 0x20
  else
    let n := (if ring then ringBase s i.p else semBase s i.p) + i.b.opa
    let amt := if ring then h else i.b.opb
    let s := if ring then touch s (hIdx h) else s
    if isHeld s i.c then holdOp (go s i r) r (.heldSignal ring n amt) else signalNow s i r ring n amt

/-- FENCE (R99): it waits for what the context has in flight. -/
def bodyFence : Body := fun s i r =>
  let n := (s.ctx i.c).live.length
  (holdOp (go s i r) r (.fence r.id n)).todo (.fences i.c)

/-- BAR (R100, R246): a latched outcome ends it at once; an arrival that stands is not made again. -/
def bodyBar : Body := fun s i r =>
  match barFor s i.p (i.b.opa % 256) with
  | none => failI s i r 0x20
  | some g =>
    if !barChild s g i.c then failI s i r 0x20
    else
      match (s.bar g).latched.find? fun l => l.1 = i.c with
      | some (_, st, res) => doneI (s.setBar g { s.bar g with latched := (s.bar g).latched.filter fun l => l.1 ≠ i.c }) i r { status := st, result := res }
      | none =>
        let w := block s i.c 2 g r
        if ((s.node (barLeaf s g)).arrived.any fun e => e.1 = i.c) || (s.ops.any fun o => o.req.who = .ctx i.c && o.kind = .heldBar g) then w
        else if isHeld s i.c then (holdOp w r (.heldBar g)).modCtx i.c fun v => { v with live := v.live ++ [r.id] }
        else arriveCtx w g i.c

/-- MARKDEP is a NOP for the sequencer (R101). -/
def bodyMarkdep : Body := fun s i r => if semCount s i.p ≤ i.b.opa then failI s i r 0x20 else doneI s i r {}

/-- DEADLINE (R102). -/
def bodyDeadline : Body := fun s i r =>
  let m := i.aux 1 0
  let off := i.b.opa + i.b.opb * 2 ^ 32
  let set := fun (v : Nat) => doneI (s.modCtx i.c fun k => { k with dlbase := v }) i r { result := v }
  if m = 3 ∨ (m = 1 ∧ (i.b.areg ≠ 1 ∨ i.b.opb ≠ 0)) ∨ (m ≠ 1 ∧ i.b.areg = 1) then failI s i r 0x20
  else if m = 0 then set (satAdd 64 s.now off)
  else if m = 1 then set ((s.ctx i.c).gr (i.b.opa % 16))
  else set (satAdd 64 (s.ctx i.c).dlbase off)

/-- TRANSIENT objects of a context are retired at its EPOCH (R79). -/
def retireTransient (s : State) (c p : Nat) : State :=
  (s.objs.filterMap fun e => if e.2.transient && e.2.ctx = c && e.2.part = p && e.2.st ≠ .free then some e.1 else none).foldl (fun s x => retireEv s x false { part := p }) s

/-- STEP goes on, and the partition's first EPOCH to reach a step clears the flag of two steps on (R54, R219). -/
def epochStep (s : State) (c p : Nat) : State :=
  let n := ((s.ctx c).step + 1) % 2 ^ 64
  let s := s.modCtx c fun v => { v with step := n }
  if (s.part p).nfEpoch < n then s.modPart p fun v => { v with nfEpoch := n, nf := if bitOf v.nf ((n + 2) % 4) then v.nf - 2 ^ ((n + 2) % 4) else v.nf } else s

/-- EPOCH retires, with a switch of plans where the inactive slot is valid and no load that it waited for has failed (R54, R103, R130, R339). FETCHes that the Ladle issued ahead in
the plan left behind are no longer waited for (R113). -/
def epochGo (s : State) (i : Ins) (r : Req) (loaded : Bool) : State :=
  let v := s.ctx i.c
  let other := v.slotAt (1 - v.aslot)
  let goes := other.valid && loaded
  let fmt := if goes then other.format else v.plan.format
  let s := triggerPart (s.modPart i.p fun q => { q with budEpoch := q.budEpoch || q.budDirty }) i.p
  let s := doneI s i r { flags := if goes then 4 else 0, detail := fmt, result := v.step }
  if goes then s.modCtx i.c fun v => { v with aslot := 1 - v.aslot, pc := other.entry, loops := [], ladlePos := 0, ladleStop := 0, ahead := [] } else s

/-- EPOCH (R54, R79, R103). -/
def bodyEpoch : Body := fun s i r =>
  let s := retireTransient (epochStep s i.c i.p) i.c i.p
  let v := s.ctx i.c
  if (v.slotAt (1 - v.aslot)).loading.isSome then block s i.c 6 0 r else epochGo s i r true

/-- BUDGET (R104, R124, R130). A register's whole value is clipped to the ceiling (log entry 155). -/
def bodyBudget : Body := fun s i r =>
  let k := i.aux 3 0
  if 12 ≤ k then failI s i r 0x20
  else
    let b := 1 - (s.part i.p).budActive
    let ceil := reg s (0x92000 + 0x100 * i.p + 8 * k)
    let w := min (opA s i) (bitsOf ceil 31 0) + min (opB s i) (bitsOf ceil 63 32) * 2 ^ 32
    doneI ((setReg s (0x90000 + 0x200 * i.p + 0x100 * b + 8 * k) w).modPart i.p fun v => { v with budDirty := true }) i r { result := w }

/-- WATCH (R105, R338). -/
def bodyWatch : Body := fun s i r =>
  let stat := i.aux 3 0
  let t := i.b.opb
  if i.aux 5 5 = 1 then
    if !(s.tapOf t).armed ∨ (s.tapOf t).part ≠ i.p ∨ i.b.opa ≠ 0 ∨ stat ≠ 0 then failI s i r 0x20
    else doneI (disarmTap s t) i r { result := t }
  else
    let h := hdlA s i
    match freeTap s i.p with
    | none => failI s i r 0x20
    | some n =>
      if !operandOk s i.p h false || (s.obj (hIdx h)).st ≠ .resident || t ≠ 0 || 4 < stat || (stat = 0 && i.aux 4 4 = 0) then failI s i r 0x20
      else doneI (armTap s n i.p h stat (i.aux 4 4 = 1)) i r { result := n }

/-- A context's counter block (Table 13.1). -/
def cntBlock (s : State) (c : Nat) : List Byte := (List.range 32).flatMap fun i => leBytes 8 (if i < 28 then tget (tget s.cnts c []) (8 * i) 0 else 0)
/-- PRG_POOL_USED of a partition. -/
def poolBlock (s : State) (p : Nat) : List Byte := (List.range 4).flatMap fun t => leBytes 8 (used s p t)

/-- REPORT (R106). -/
def bodyReport : Body := fun s i r =>
  let k := i.aux 1 0
  let h := hdlA s i
  if k = 0 then doneI s i r { detail := i.b.opb, result := opA s i }
  else
    let a := i.e 0 63 0
    let bs := if k = 1 then leBytes 64 (entryWord s (hIdx h)) else if k = 2 then cntBlock s i.c else poolBlock s i.p
    if !inWindow s i.p a bs.length then failAddr s i r a
    else if (k = 1 && !operandOk s i.p h true) || a % 64 ≠ 0 || !(tqaTier a = 1 || tqaTier a = 3) then failI s i r 0x20
    else if t3Away s a then failI s i r 0x32
    else if classBarred s i.p 11 then deferI s i r 0 a i.b.opb
    else reportBegin (go s i r) { r with detail := i.b.opb } a bs

/-- The condition of JUMP (R107). -/
def jumpTaken (s : State) (i : Ins) : Bool :=
  let g := (s.ctx i.c).gr (i.aux 7 4) % 2 ^ 32
  match i.aux 1 0 with
  | 0 => true
  | 1 => g = 0
  | 2 => g ≠ 0
  | _ => bitOf (s.part i.p).nf ((s.ctx i.c).step % 4)

/-- JUMP (R107). -/
def bodyJump : Body := fun s i r => if jumpTaken s i then jumpTo s i r (opA s i % 2 ^ 32) else doneI s i r {}

/-- LOOP with END 1 (R108). -/
def loopEnd (s : State) (i : Ins) (r : Req) : State :=
  match (s.ctx i.c).loops with
  | [] => failI s i r 0x20
  | (n, body) :: l =>
    if i.b.opa ≠ 0 ∨ i.b.opb ≠ 0 ∨ i.b.areg = 1 then failI s i r 0x20
    else if n = 1 then (doneI s i r {}).modCtx i.c fun v => { v with loops := l }
    else (doneI s i r {}).modCtx i.c fun v => { v with loops := (n - 1, body) :: l, pc := body, ladlePos := 0 }

/-- LOOP (R108). One at depth 4 raises LOOP_DEPTH (R65). -/
def bodyLoop : Body := fun s i r =>
  if i.aux 0 0 = 1 then loopEnd s i r
  else if 4 ≤ (s.ctx i.c).loops.length then (raiseBad s i.c i.pc i.b.opcode [⟨8, 0, 0⟩]).modCtx i.c fun v => { v with pc := i.pc + i.len }
  else
    let n := opA s i % 2 ^ 32
    if n = 0 then jumpTo s i r i.b.opb else (doneI s i r {}).modCtx i.c fun v => { v with loops := (n, i.pc + i.len) :: v.loops }

/-- HALT (R109). -/
def bodyHalt : Body := fun s i r => enterStopping (doneI s i r { result := i.b.aux }) i.c .halted false

/-- The body of an opcode, for an instruction that is taken up again after a wait. -/
def bodyOf (op : Nat) : Body :=
  if op = 0x01 then bodyDecl
  else if op = 0x02 then bodyBind
  else if op = 0x21 then bodyRcprun
  else if op = 0x30 then bodyGather
  else if op = 0x35 then bodySnap
  else if op = 0x40 then bodyWait
  else bodyNop

end Sys2Proof.Machine
end

