-- ==== Sys2Proof/Machine/Abort.lean ====
section
/-!
DEFINITION. Ending work: ABORT and DRAIN of contexts, channels and partitions (R111, R202 to R204, Table 7.5).
-/

namespace Sys2Proof.Machine

/-- A request of a scope. -/
def Req.of (r : Req) (who : Party) : Bool := r.who = who

/-- A push that waits in the sync unit for an operation leaves its ring. -/
def dropPush (s : State) (o : Nat) : State :=
  { s with rings := s.rings.map fun (e : Nat × Ring) => (e.1, { e.2 with pushq := e.2.pushq.filter fun w => w.op ≠ some o }) }

/-- Cancel an operation all of whose requests belong to the scope that is aborted (Table 7.5). -/
def cancelOp (s : State) (o : Op) : State :=
  match o.kind with
  | .move x _ _ _ =>
    if o.phase = .queued ∨ o.phase = .waitSpace then dropOp s x o 0x10 true else if o.phase = .ending then s else stopMove s o x askedAbort
  | .recipe r => failRecipe s o r 0x10 true
  | .rngset _ _ snt _ => if snt = 0 then complete (s.delOp o.id) o.req { status := 0x10, quiet := true } true else s
  | .heldSignal _ _ _ => complete (s.delOp o.id) o.req { status := 0x10, quiet := true } true
  | .heldInline _ _ => complete (s.delOp o.id) o.req { status := 0x10, quiet := true } true
  | .heldBar _ => complete (s.delOp o.id) o.req { status := 0x10, quiet := true } true
  | .fence _ _ => complete (s.delOp o.id) o.req { status := 0x10, quiet := true } true
  | .pushWait _ _ => complete (dropPush (s.delOp o.id) o.id) o.req { status := 0x10, quiet := true } true
  | .xboth _ _ _ _ => s
  | .onObj x => dropOp s x o 0x10 true
  | .plan _ _ _ _ _ _ => s
  | .digest _ _ => s
  | .fwCopy _ _ => s
  | _ => stopOp s o 0x10

/-- End a scope's part in an operation: its requests complete with ABORTED, and the operation is cancelled where none is left (R111). -/
def abortOp (s : State) (who : Party) (o : Op) : State :=
  let all := o.req :: o.more
  if !all.any (fun r => r.of who) then s
  else
    match all.filter fun r => !r.of who with
    | [] => cancelOp s o
    | r :: rest =>
      let x := hIdx o.req.handle
      (all.filter fun r => r.of who).foldl (fun s r => finishOn s x r 0x10 true) (s.setOp { o with req := { r with chan := o.req.chan }, more := rest })

/-- Requests of a scope that wait on an object end (Table 1.5, Table 7.5): queued and deferred ones, and a disposition fixed under R82. -/
def abortWaits (s : State) (who : Party) (x : Nat) : State :=
  let o := s.obj x
  let mine := (o.queue ++ o.defers).filter fun w => w.req.of who
  let s := s.modObj x fun o => { o with queue := o.queue.filter fun w => !w.req.of who, defers := o.defers.filter fun w => !w.req.of who }
  let s := mine.foldl (fun s w => finishOn s x w.req 0x10 true) s
  match o.fixed with
  | some (_, r) => if r.of who then endFixed s x 0x10 true else s
  | none => s

/-- The move or recipe that a BIND or RCPRUN of the scope waits for ends. A BIND whose seal is still pending stays (R203). -/
def abortSeal (s : State) (who : Party) (x : Nat) : State :=
  match (s.obj x).sealReq with
  | some r =>
    if !r.of who then s
    else s.ops.foldl (fun s o => match o.kind with
      | .move y _ _ _ => if y = x ∧ o.req.who = .none ∧ o.wake.isNone then cancelOp s o else s
      | .recipe k => if k.declared ∧ k.obj = x then failRecipe s o k 0x10 true else s
      | _ => s) s
  | none => s

/-- ABORT of a context's work (R203). -/
def abortCtx (s : State) (c : Nat) : State :=
  let who := Party.ctx c
  let xs := s.objs.map fun e => e.1
  let s := xs.foldl (fun s x => abortSeal s who x) s
  let s := (s.ops.map fun o => o.id).foldl (fun s i => match s.op i with
    | some o => abortOp s who o
    | none => s) s
  (xs.foldl (fun s x => abortWaits s who x) s).todo (.ctxCheck c)

/-- Descriptors that have not started end (Table 7.5). -/
def abortReady (s : State) (ch : Nat) : State :=
  let v := s.chan ch
  let s := s.modChan ch fun v => { v with ready := [], next := none, popped := none }
  (v.ready.zip (List.range v.ready.length)).foldl (fun s e =>
    let d := e.1.2
    descRecord s ch (if d.op ≤ 4 then d.op else 4) 0x10 (if d.op = 4 then 0 else d.len) e.1.1 (if e.2 = 0 then v.popped.getD 0 else 0) d.cookie { d with rpush := false }) s

/-- The record of a chain that was not fetched (Table 7.5). -/
def chainRecord (s : State) (ch head : Nat) : State := descRecord s ch 4 0x10 0 0xFFFF 0 head {}

/-- ABORT of a host-mode channel's work: its chains, its descriptors, its place in a ring, its pushes that wait. -/
def abortChan (s : State) (ch : Nat) : State :=
  let v := s.chan ch
  let s := { s with rings := s.rings.map fun (e : Nat × Ring) => (e.1, { e.2 with popq := e.2.popq.filter fun w => w ≠ .chan ch, pushq := e.2.pushq.filter fun w => w.who ≠ .chan ch }) }
  let unread := v.running && v.next.isSome && v.ready = [] && descOps s ch = [] && chanHeld s ch = 0
  let s := abortReady s ch
  let s := if unread then chainRecord s ch v.head else s
  let s := v.chains.foldl (fun s h => chainRecord s ch h) (s.modChan ch fun v => { v with chains := [] })
  ((descOps s ch).foldl (fun s e => stopOp s e.1 0x10) s).todo (.chanCheck ch)

/-- PRG_CHAN_CTL DISABLE (R203, R204, R207). -/
def chanDisable (s : State) (ch : Nat) (abort : Bool) : State :=
  let v := s.chan ch
  if v.st = 6 then s
  else if v.st = 7 then if v.running ∨ descOps s ch ≠ [] ∨ 0 < chanLoad s ch then s else s.setChan ch { v with st := 6 }
  else if abort ∧ v.hostq then if v.st = 5 then s else abortChan (s.setChan ch { v with st := 5 }) ch
  else if v.st = 5 then s else (s.setChan ch { v with st := 4 }).todo (.chanCheck ch)

/-- Contexts and host-mode channels of a partition. -/
def partCtxs (s : State) (p : Nat) : List Nat := (List.range 256).filter fun c => ctxPart s c = p
def partChans (s : State) (p : Nat) : List Nat := (s.chans.filter fun e => e.2.hostq && e.2.part = p).map fun e => e.1

/-- D of a DKIND 1 operation stays undefined where its context is stopped or reset before the line counts a request (R110). -/
def Req.unline (mine : Req → Bool) (r : Req) : Req := match r.dl with
  | .line _ _ => if mine r then { r with dl := .never } else r
  | _ => r
def Wait.unline (mine : Req → Bool) (w : Wait) : Wait := { w with req := w.req.unline mine }
def unlineCtx (s : State) (c : Nat) : State :=
  let mine := fun (r : Req) => decide (r.who = .ctx c)
  { s with ops := s.ops.map fun o =>
             let own := fun (r : Req) => mine r || (r.who = .none && o.acct = some c)
             { o with req := o.req.unline own, more := o.more.map (Req.unline own), dl := (o.req.unline own).dl }
           objs := s.objs.map fun (e : Nat × Obj) => (e.1, { e.2 with queue := e.2.queue.map (Wait.unline mine), defers := e.2.defers.map (Wait.unline mine), fixed := e.2.fixed.map fun f => (f.1, f.2.unline mine), sealReq := e.2.sealReq.map (Req.unline mine) }) }

/-- A context is stopped in a mode, or goes from DRAIN to ABORT (Table 2.4, R204). -/
def stopCtx (s : State) (c : Nat) (abort : Bool) : State :=
  let v := s.ctx c
  if v.st = .active then
    let s := enterStopping (unlineCtx s c) c .stopped abort
    if abort then abortCtx s c else s
  else if v.st = .stopping ∧ abort ∧ !v.aborting then abortCtx (s.modCtx c fun v => { v with aborting := true }) c
  else s

/-- Everything of a partition that disabling waits for has ended. -/
def partQuiet (s : State) (p : Nat) : Bool :=
  (partCtxs s p).all (fun c => (s.ctx c).st ≠ .active && (s.ctx c).st ≠ .stopping) && (partChans s p).all fun ch => (s.chan ch).st = 6

/-- PRG_PART_CTL DISABLE (R204): state 1 draining, 2 aborting, 3 DISABLED. -/
def partDisable (s : State) (p : Nat) (abort : Bool) : State :=
  let v := s.part p
  if v.st = 3 ∨ v.st = 2 ∨ (v.st = 1 ∧ !abort) then s
  else
    let s := s.setPart p { v with st := if abort then 2 else 1 }
    let s := (partCtxs s p).foldl (fun s c => stopCtx s c abort) s
    ((partChans s p).foldl (fun s ch => chanDisable s ch abort) s).todo (.partCheck p)

end Sys2Proof.Machine
end

