-- ==== Sys2Proof/Machine/ContextCmds.lean ====
section
/-!
DEFINITION. Doorbell commands (R44, R47 to R53, Table 2.4), the choice of a context by a sequencer (R39), the Ladle (R85, R113), the watchdog (R66).
-/

namespace Sys2Proof.Machine

/-- A LOAD that failed before its copy began (R44). -/
def loadFails (s : State) (c : Nat) (k : Cmd) (status extra : Nat) : State := cmdRecord (s.modCtx c fun v => { v with loaderr := true }) c k status 0 extra

/-- What is wrong with an image's header (R44 steps 2 and 3, Table 2.2); 0 when it is in order. -/
def headerBad (s : State) (p src hdr : Nat) : Nat :=
  let len := bitsOf hdr 95 64
  let entry := bitsOf hdr 127 96
  let fmt := bitsOf hdr 39 32
  let feat := bitsOf hdr 191 128
  if bitsOf hdr 31 0 ≠ 0x4C4D574B ∨ bitsOf hdr 63 48 ≠ 0 ∨ bitsOf hdr 511 256 ≠ 0 ∨ (fmt ≠ 1 ∧ fmt ≠ 2) ∨ feat ||| (s.part p).agreed ≠ (s.part p).agreed then 0x22
  else if len % 16 ≠ 0 ∨ (if fmt = 1 then 2 ^ 24 else 2 ^ 28) < len ∨ entry % 16 ≠ 0 ∨ entry < 0x40 ∨ len ≤ entry ∨ !inWindow s p src len then 0x20
  else 0

/-- A slot may not be loaded now (R52, Table 2.4). -/
def loadRej (v : Ctx) (i : Nat) : Bool := (v.slotAt i).loading.isSome || (i = v.aslot && (v.st = .active || v.st = .stopping || v.st = .faulted))

/-- LOAD (R44, R311, R326). -/
def cmdLoad (s : State) (c : Nat) (k : Cmd) : State :=
  let v := s.ctx c
  let p := ctxPart s c
  let src := reg s (0x88008 + 0x40 * c + 8 * k.slot)
  if s.bist.fatal then loadFails s c k 0x31 0
  else if s.lc.held ∨ loadRej v k.slot then loadFails s c k 0x20 0
  else if s.hostl.detached then loadFails s c k 0x32 0
  else if tqaTier src ≠ 3 ∨ tqaRsv src ≠ 0 then loadFails s c k 0x20 0
  else
    let hdr := rdNumP s p src 64
    let bad := headerBad s p src hdr
    if bad ≠ 0 then loadFails (if bad = 0x20 ∧ !inWindow s p src (bitsOf hdr 95 64) then deny s p 1 c src else s) c k bad (lenDigest hdr)
    else
      let id := nextId s
      let s := accept s { id := 0, req := { part := p }, kind := .plan c k.slot 0 src (bitsOf hdr 95 64) hdr, cls := 11 } true
      (s.modCtx c fun v => v.setSlot k.slot { v.slotAt k.slot with loading := some id, tag := k.tag }).todo (.tryOp id)

/-- UNLOAD (R52, Table 2.4 note (b)). -/
def cmdUnload (s : State) (c : Nat) (k : Cmd) : State :=
  let v := s.ctx c
  if (v.slotAt k.slot).loading.isSome then cmdRecord (cancelLoad s c k.slot) c k 0 0 0
  else if (v.st = .active ∨ v.st = .stopping) ∧ k.slot = v.aslot then cmdRecord s c k 0x20 0 0
  else
    let had := (v.slotAt k.slot).valid
    let s := dropPlan s c k.slot
    let s := s.modCtx c fun v =>
      let lost := had && k.slot = v.aslot && (v.st = .stopped || v.st = .halted || v.st = .faulted)
      let v := if lost then { v with st := .loaded, saved := false } else v
      if v.st = .loaded ∧ !v.slot0.valid ∧ !v.slot1.valid then { v with st := .empty } else v
    cmdRecord s c k 0 0 0

/-- A lifecycle state in which contexts may START (Table 12.4). -/
def mayStart (s : State) : Bool := !s.lc.held && (s.lc.inForce = 0 || s.lc.inForce = 2 || s.lc.inForce = 3)

/-- START (R48, R204, R311, R326). -/
def cmdStart (s : State) (c : Nat) (k : Cmd) : State :=
  let v := s.ctx c
  let p := v.slotAt k.slot
  if s.bist.fatal then cmdRecord s c k 0x31 0 0
  else if !mayStart s ∨ !(v.st = .loaded ∨ v.st = .stopped ∨ v.st = .halted ∨ v.st = .faulted) ∨ !p.valid ∨ p.loading.isSome ∨ (s.part (ctxPart s c)).st ≠ 0 then cmdRecord s c k 0x20 0 0
  else
    let s := s.modCtx c fun v => { v with st := .active, aslot := k.slot, pc := p.entry, loops := [], lastexc := 0, excSince := false, instret := 0, left := (0, 0, 0), aborting := false, saved := false, ladlePos := 0, ladleStop := 0, ahead := [] }
    cmdRecord s c k 0 0 0

/-- RESUME (R48, Table 2.4). -/
def cmdResume (s : State) (c : Nat) (k : Cmd) : State :=
  let v := s.ctx c
  if v.st = .active then cmdRecord s c k 0 0 0
  else if (v.st = .stopped ∨ v.st = .faulted) ∧ v.saved then
    cmdRecord (s.modCtx c fun v => { v with st := .active, excSince := false, left := (0, 0, 0), aborting := false }) c k 0 0 0
  else cmdRecord s c k 0x20 0 0

/-- RESET (R53, Table 2.4 note (a)). One that comes while an earlier RESET of the context is still ending its work completes with ABORTED (log entry 156). -/
def cmdReset (s : State) (c : Nat) (k : Cmd) : State :=
  let v := s.ctx c
  let s := v.cmds.foldl (fun s q => cmdRecord s c q 0x10 0 0) (s.modCtx c fun v => { v with cmds := [] })
  let s := cancelLoad (cancelLoad s c 0) c 1
  if v.resetting.isSome then cmdRecord s c k 0x10 0 0
  else if v.st = .active then abortCtx ((enterStopping (unlineCtx s c) c .empty true).modCtx c fun v => { v with resetting := some k }) c
  else if v.st = .stopping then
    let s := s.modCtx c fun v => { v with resetting := some k, aborting := true }
    if v.aborting then s.todo (.ctxCheck c) else abortCtx s c
  else finishReset s c k

/-- Apply a doorbell command (Table 2.4). -/
def applyCmd (s : State) (c : Nat) (k : Cmd) : State :=
  match k.cmd with
  | 1 => cmdLoad s c k
  | 2 => cmdStart s c k
  | 3 => cmdRecord (stopCtx s c false) c k 0 0 0
  | 4 => cmdRecord (stopCtx s c true) c k 0 0 0
  | 5 => cmdResume s c k
  | 6 => cmdReset s c k
  | _ => cmdUnload s c k

/-- The context is on a sequencer in the middle of an instruction (R50, R77). -/
def midInstr (s : State) (c : Nat) : Bool := let v := s.ctx c; v.seq.isSome && (v.miss.isSome || v.filled ≠ [])

/-- Queued commands are applied one by one, in the order in which they were written: what a RESET ends is still queued behind it. `n` bounds their number. -/
def applyCmds : Nat → State → Nat → State
  | 0, s, _ => s
  | n + 1, s, c =>
    match (s.ctx c).cmds with
    | [] => s
    | k :: l => if midInstr s c then s else applyCmds n (applyCmd (s.modCtx c fun v => { v with cmds := l }) c k) c
/-- The commands that waited for an instruction boundary; a pending exception is raised first (R64, R67). -/
def drainCmds (s : State) (c : Nat) : State := if midInstr s c ∨ (s.ctx c).cmds = [] then s else applyCmds 4 (raiseFails s c) c

/-- A doorbell write (R50): four commands may wait; one that finds the context at an instruction boundary, with none waiting, is applied at once. -/
def doorbell (s : State) (c : Nat) (k : Cmd) : State :=
  if 4 ≤ (s.ctx c).cmds.length then s.modCtx c fun v => { v with dberr := true, dbdrop := satAdd 16 v.dbdrop 1 }
  else if midInstr s c ∨ (s.ctx c).cmds ≠ [] then drainCmds (s.modCtx c fun v => { v with cmds := v.cmds ++ [k] }) c
  else applyCmd (raiseFails s c) c k

/-- A context is runnable (R38). -/
def runnable (s : State) (c : Nat) : Bool := let v := s.ctx c; v.st = .active && v.waitKind = 0 && v.miss.isNone && !v.full

/-- The candidates of a sequencer (R38). -/
def seqCands (s : State) (q : Nat) : List Nat := (s.ctxs.map fun e => e.1).filter fun c => runnable s c && (s.ctx c).seq.isNone && maySeq s q c

/-- Highest priority, then the longest time since the last run, then the lowest number. -/
def ctxBefore (s : State) (a b : Nat) : Bool :=
  ctxPrio s b < ctxPrio s a || (ctxPrio s a = ctxPrio s b && ((s.ctx a).lastRun < (s.ctx b).lastRun || ((s.ctx a).lastRun = (s.ctx b).lastRun && a < b)))

/-- The context on a sequencer may go on running there (R38). -/
def mayStay (s : State) (q c : Nat) : Bool := runnable s c && maySeq s q c
/-- pick(q) of R39: the context that takes the sequencer; none where it keeps what it has. -/
def pick (s : State) (q : Nat) : Option Nat :=
  let cand := seqCands s q
  let best := cand.foldl (fun (b : Option Nat) c => match b with
    | none => some c
    | some d => if ctxBefore s c d then some c else some d) none
  match (s.seq q).ctx, best with
  | some c, some d =>
    if mayStay s q c then
      if (s.ctx c).issued < 64 then if ctxPrio s c < ctxPrio s d then some d else none
      else if ctxPrio s c ≤ ctxPrio s d then some d else none
    else some d
  | none, b => b
  | some _, none => none

/-- A context goes onto a sequencer (R39, R40, R113). -/
def enterSeq (s : State) (q c : Nat) : State :=
  let s := match (s.seq q).ctx with
    | some d => leaveSeq s d
    | none => s
  ((s.setSeq q { ctx := some c }).modCtx c fun v => { v with seq := some q, issued := 0, ladlePos := 0 }).cadd c 0xC0 1

/-- The walk of the Ladle (R85, R101, R113): position, bytes walked, shadow DLBASE and loops, handles named (`all`: by a register), and the FETCH it found. -/
structure Walk where
  pos : Nat
  dl : Nat
  loops : List (Nat × Nat)
  seen : List Nat := []
  all : Bool := false
  stop : Bool := false
  found : Option Ins := none
  deriving DecidableEq, Repr

/-- The FETCH at the walk's position may be issued ahead (R72, R75, R85, R128, R185); the one at PC is the sequencer's own. -/
def ladleOk (s : State) (w : Walk) (i : Ins) : Bool :=
  let h := hdlA s i
  i.b.opcode = 0x14 && i.b.areg = 0 && i.pc ≠ (s.ctx i.c).pc && !w.all && !w.seen.contains h && !(s.ctx i.c).ahead.any (fun a => a.slot = (s.ctx i.c).aslot && a.pc = i.pc) && i.cqOk s && (dlOf s i w.dl).isSome &&
    fetchOk s i h && (s.ctx i.c).live.length < 4096 && (pickChan s).isSome && heldOps s i.c < 64

/-- An instruction with CMODE 0 that fails a check on its operands as they stand would raise an exception (R64): the walk stops there (R113). -/
def walkFails (s : State) (i : Ins) (loops : List (Nat × Nat)) : Bool :=
  let sem := semCount s i.p ≤ i.b.opa
  let badH := i.b.areg = 0 && (named s i).any fun h => !operandOk s i.p h (i.b.opcode = 0x03)
  i.b.cmode = 0 && match i.b.opcode with
    | 0x00 | 0x42 | 0x50 | 0x54 | 0x5F => false
    | 0x01 => !declOk s i
    | 0x14 | 0x15 => (dlOf s i 0).isNone || (i.b.areg = 0 && !fetchOk s i (hdlA s i))
    | 0x40 | 0x41 => badH || if i.aux 0 0 = 1 then !ringOkFor s i.p i.b.opa else sem
    | 0x43 => (barFor s i.p (i.b.opa % 256)).isNone
    | 0x45 => let m := i.aux 1 0; m = 3 || (m ≠ 1 && i.b.areg = 1) || (m = 1 && (i.b.areg ≠ 1 || i.b.opb ≠ 0))
    | 0x51 => 12 ≤ i.aux 3 0
    | 0x55 => i.aux 0 0 = 1 && (loops = [] || i.b.opa ≠ 0 || i.b.opb ≠ 0 || i.b.areg = 1)
    | _ => badH

/-- One instruction of the walk. -/
def walkStep (s : State) (c : Nat) (w : Walk) : Walk :=
  let v := s.ctx c
  let i := insAt s c w.pos
  let next := { w with pos := w.pos + i.len }
  let jump := fun (w : Walk) (t : Nat) => if pcOk v t then { w with pos := t } else { w with stop := true }
  if w.stop ∨ w.found.isSome then w
  else if !pcOk v w.pos || baseBad s c w.pos ≠ [] then { w with stop := true }
  else if nextBad s c w.pos then if i.b.cmode = 0 then { w with stop := true } else next
  else if extBad s c w.pos ≠ [] || walkFails s i w.loops then { w with stop := true }
  else if ladleOk s w i then { w with found := some i }
  else
    match i.b.opcode with
    | 0x44 => if semCount s i.p ≤ i.b.opa ∨ i.aux 0 0 = 0 ∨ (s.sem (semBase s i.p + i.b.opa)).val < i.b.opb then { w with stop := true } else next
    | 0x54 => if i.b.areg = 1 ∨ i.aux 1 0 ≠ 0 then { w with stop := true } else jump w i.b.opa
    | 0x55 =>
      if i.b.areg = 1 then { w with stop := true }
      else if i.aux 0 0 = 1 then
        match w.loops with
        | [] => next
        | (n, body) :: l => if n = 1 then { next with loops := l } else { w with loops := (n - 1, body) :: l, pos := body }
      else if 4 ≤ w.loops.length then { w with stop := true }
      else if i.b.opa = 0 then jump w i.b.opb
      else { next with loops := (i.b.opa, w.pos + i.len) :: w.loops }
    | 0x45 => if i.aux 1 0 < 2 then { w with stop := true } else if i.aux 1 0 = 2 then { next with dl := satAdd 64 w.dl (i.b.opa + i.b.opb * 2 ^ 32) } else next
    | 0x50 => { w with stop := true }
    | 0x5F => { w with stop := true }
    | _ => { next with seen := w.seen ++ named s i, all := w.all || ((i.b.areg = 1 || i.b.breg = 1) && named s i ≠ []) }

/-- The walk over at most n instructions, within `left` bytes of plan. -/
def ladleWalk (s : State) (c : Nat) : Nat → Nat → Walk → Walk
  | 0, _, w => w
  | n + 1, left, w =>
    if w.stop ∨ w.found.isSome then w
    else
      let len := (insAt s c w.pos).len
      if left < len then w else ladleWalk s c n (left - len) (walkStep s c w)

/-- LOOKAHEAD of a partition (Table 4.8). -/
def lookahead (s : State) (p : Nat) : Nat := bitsOf (regNow s (0x94080 + 8 * p)) 20 4

/-- The Ladle of a context walks from PC; the FETCH it finds is issued (R85, R113, R114). -/
def ladleRun (s : State) (c : Nat) : State :=
  let v := s.ctx c
  let n := lookahead s (ctxPart s c)
  let w := ladleWalk s c n (16 * n) { pos := v.pc, dl := v.dlbase, loops := v.loops }
  let s := s.modCtx c fun v => { v with ladlePos := w.pos, ladleStop := if w.stop then w.pos else 0, shadowDl := w.dl, shadowLoops := w.loops }
  match w.found with
  | none => s
  | some i =>
    let h := hdlA s i
    let x := hIdx h
    match dlOf s i w.dl with
    | none => s
    | some d =>
      let r := { i.req s with ladle := true, dl := d, handle := h }
      let s := if dirHeld s x then dirHit s x else dirTouch ((dirMiss s).cadd c 0xC8 1) x
      let s := (State.cadd { s with nextOp := s.nextOp + 1 } c 0xB8 1).modCtx c fun v => { v with live := v.live ++ [r.id], ahead := v.ahead ++ [⟨v.aslot, i.pc, r.id⟩] }
      promoteEv (touch s x) x (i.aux 1 0) (i.aux 2 2 = 1) r

/-- A watchdog fires (R66, R254): the WATCHDOG exception, and a wait-for graph is due. -/
def watchdogFires (s : State) (c : Nat) : State :=
  let v := s.ctx c
  let p := ctxPart s c
  let q : Part := { s.part p with wfgCtx := c, wfgWait := (v.waitKind, v.waitOn, (s.now - v.wstart - v.wfrozen) / 1000000) }
  let s := s.setPart p (if q.wfgBusy ∨ q.wfgPending.isSome then { q with wfgSkip := satAdd 16 q.wfgSkip 1, wfgRebuild := true } else { q with wfgPending := some c })
  raiseExc s c { cause := 9, status := 0x3F, pc := v.pc, opcode := (v.waiting.map fun r => r.opcode).getD 0, handle := if v.waitKind = 4 then v.waitOn else 0 }

end Sys2Proof.Machine
end

