-- ==== Sys2Proof/Machine/PartReset.lean ====
section
/-!
DEFINITION. The end of a partition's disabling (R204) and the partition reset (R288).
-/

namespace Sys2Proof.Machine

/-- A context of a partition that is reset (R53): its loads are cancelled, its commands end, its plans are retired, its image and counters are zeroed. No command asked for it, so no
command record reports it. -/
def resetCtx (s : State) (c : Nat) : State :=
  let s := (s.ctx c).cmds.foldl (fun s q => cmdRecord s c q 0x10 0 0) (s.modCtx c fun v => { v with cmds := [] })
  let s := dropPlan (dropPlan s c 0) c 1
  let s := clearLatch (clearCtx s c) c
  { s with cnts := tdel s.cnts c }

/-- Zeros over a run of the Stockpot. -/
def wipeT0 (s : State) (off n : Nat) : State := { s with mem := wrZero s.mem off n }

/-- Lines of the directory cache are dropped: those whose entry, and its 64 bytes in the directory region, meet a test. -/
def dropLines (s : State) (f : Nat → Nat → Bool) : State :=
  { s with dir := { s.dir with sets := s.dir.sets.map fun (e : Nat × List (Nat × Nat × Nat)) => (e.1, e.2.filter fun l => !f l.2.1 l.2.2) } }

/-- The Stockpot extents that an object holds, and its line of the directory cache, are wiped (R288 step 3). -/
def wipeObj (s : State) (x : Nat) : State :=
  let o := s.obj x
  let s := if isLocked s x then s else dropLines s fun y _ => y = x
  let s := if o.home = 0 ∧ 0 < o.resv then wipeT0 s (tqaOff o.homeaddr) o.resv else s
  if o.dest = 0 ∧ 0 < o.dresv then wipeT0 s (tqaOff o.destaddr) o.dresv else s

/-- Objects of a partition. -/
def partObjs (s : State) (p : Nat) : List Nat := s.objs.filterMap fun e => if e.2.st ≠ .free && e.2.part = p then some e.1 else none

/-- Every object of the partition is wiped and on its way to FREE (R288 steps 2 and 3). -/
def retireAll (s : State) (p : Nat) : State :=
  (partObjs s p).foldl (fun s x =>
    let s := wipeObj s x
    if (s.obj x).defers.any (fun w => w.ev = .retire) || (s.obj x).st = .free || (s.obj x).successor then s else retireEv s x true { part := p }) s

/-- Nothing of the partition is left but its settings. -/
def partGone (s : State) (p : Nat) : Bool :=
  partObjs s p = [] && !(s.ops.any fun o => o.req.part = p) && !(s.runs.any fun r => r.part = some p) && !(s.pend.any fun r => r.part = p && !r.entered)

/-- Step 4 of R288, as the chapters state it: semaphores (R236), rings (R240), recipe slots (R133), share totals (R178), counters and flags of the tables whose rows say so. -/
def clearPart (s : State) (p : Nat) : State :=
  let sems := (List.range (semCount s p)).foldl (fun (t : Tbl Sem) i => tdel t (semBase s p + i)) s.sems
  let rings := s.rings.map fun (e : Nat × Ring) => if ringOwner s e.1 = some p then (e.1, { cfg := e.2.cfg }) else e
  let slots := (List.range (rcpCount s p)).foldl (fun (t : Tbl RSlot) i => tdel t (rcpBase s p + i)) s.slots
  let lines := s.lines.map fun (e : Nat × Line) => if plOwner s e.1 = some p then (e.1, { e.2 with overrun := 0 }) else e
  let chans := s.chans.map fun (e : Nat × Chan) => if e.2.hostq ∧ e.2.part = p then (e.1, { e.2 with dbdrop := 0 }) else e
  let shareTot := s.shareTot.filter fun e => e.1 / 64 ≠ p
  let s := { s with sems := sems, rings := rings, slots := slots, lines := lines, chans := chans, shareTot := shareTot }
  s.modPart p fun v => { v with nf := 0, nfCount := 0, nfEpoch := 0, deny := 0, shareFull := 0, mov := [], traceRing := { v.traceRing with drop := 0 } }

/-- A partition's lines of the instruction, host-line and translation caches, its history sets' contents and its requests in the rendezvous store are wiped (Table 12.3). A line of
the instruction cache whose object is FREE can be read no more. -/
def wipeCaches (s : State) (p : Nat) : State :=
  let lo := memKey s p (tqa 3 (winBase s p 3))
  { s with
    icache := s.icache.filter fun l => (s.obj (hIdx l.1)).st ≠ .free && (s.obj (hIdx l.1)).part ≠ p,
    hsets := s.hsets.map fun (e : Nat × HSet) => if bitsOf e.2.cfg 7 4 = p then (e.1, { cfg := e.2.cfg % 65536 }) else e,
    rdv := s.rdv.filter fun r => r.part ≠ p,
    hostl := { s.hostl with
      lines := s.hostl.lines.filter fun l => !(lo ≤ l * 64 && l * 64 < lo + winSize s p 3),
      ats := { s.hostl.ats with cache := s.hostl.ats.cache.filter fun e => e.1 ≠ p } } }

/-- The windows of the partition in the Stockpot are wiped, the lines of the directory cache that still hold an entry of it are dropped, its lines of the other caches and the cores'
data pages for it are wiped (R288 step 3, Table 12.3). -/
def wipePart (s : State) (p : Nat) : State :=
  let s := wipeCaches (wipeT0 { s with fw := { s.fw with pages := tdel s.fw.pages p } } (winBase s p 0) (winSize s p 0)) p
  dropLines s fun x w => (s.obj x).st = .free && bitsOf w 19 16 = p

/-- Loads of the partition's contexts are cancelled. -/
def cancelLoads (s : State) (p : Nat) : State := (partCtxs s p).foldl (fun s c => cancelLoad (cancelLoad s c 0) c 1) s
def loadsGone (s : State) (p : Nat) : Bool := (partCtxs s p).all fun c => (planOp s c 0).isNone && (planOp s c 1).isNone

/-- Contributions that no LAND of the partition waits for (R225) end with it. -/
def dropLate (s : State) (p : Nat) : State :=
  s.ops.foldl (fun s o => match o.kind with
    | .contrib c => if c.land = 0 ∧ o.req.part = p then stopOp s o 0x10 else s
    | _ => s) s

/-- PARTITION_RESET (R288): the partition is disabled in ABORT mode, and its bit of PRG_RESET_STATUS is set. -/
def partReset (s : State) (p : Nat) : State :=
  let s := s.modPart p fun v => { v with resetting := true }
  (dropLate (cancelLoads (partDisable s p true) p) p).todo (.partCheck p)

/-- A partition that is being disabled or reset is looked at: DISABLED once everything has ended (R204); then the rest of the reset (R288). -/
def partCheck (s : State) (p : Nat) : State :=
  let s := if ((s.part p).st = 1 ∨ (s.part p).st = 2) ∧ partQuiet s p then s.modPart p fun v => { v with st := 3 } else s
  let v := s.part p
  if !v.resetting || v.st ≠ 3 || !loadsGone s p then s
  else
    let s := if (partCtxs s p).all (fun c => (s.ctx c).st = .empty) then s else (partCtxs s p).foldl resetCtx s
    let s := retireAll s p
    if partGone s p then (clearPart (wipePart s p) p).modPart p fun v => { v with resetting := false } else s

end Sys2Proof.Machine
end

