-- ==== Sys2Proof/Machine/Engine.lean ====
section
/-!
DEFINITION. The follow-up actions of a step: every operation, object, context, channel and partition that a change concerns is looked at again until nothing is left to do.
-/

namespace Sys2Proof.Machine

/-- A request that an operation owes can go nowhere any more: no port of a tier's group is left (R264), or the operation ends while the host is away or its carrier is gone. -/
def burstGone (s : State) (o : Op) (b : Burst) : Bool :=
  match b.tier with
  | 1 => groupLost s 1
  | 2 => groupLost s 2
  | 3 => o.phase = .ending && s.hostl.detached
  | _ => o.phase = .ending && (groupLost s 5 || (peerBar s (dataTo s o).1).isSome)
/-- Such requests are given up: the transfer has failed from the lowest of their places on. -/
def giveUp (s : State) (o : Op) : Op :=
  let gone := (dueBursts o).filter (burstGone s o)
  if gone = [] then o
  else
    let low := (gone.filter fun b => !b.rb && !b.ax).map fun b => b.pos
    let x := o.x
    { o with x := { x with redo := x.redo.filter fun b => !gone.contains b, opens := x.opens.filter fun e => !(e.st = 1 && gone.any fun b => b.pos = e.off && b.wr),
                           lost := true, fault := low.foldl (fun m k => some (min (m.getD k) k)) x.fault } }
/-- An operation can issue nothing more because no port of a kind it needs is left (R264). The host's ports are another matter: without them the host is detached (R282). -/
def portLost (s : State) (o : Op) : Bool :=
  o.phase = .running && noTags s o.id && (o.x.lost || (newBursts o).any fun b => (b.tier = 1 || b.tier = 2) && groupLost s b.tier)

/-- An operation ends because its data cannot move. -/
def faultOp (s : State) (o : Op) (status : Nat) : State :=
  match o.kind with
  | .move x _ _ _ => stopMove s o x status
  | .recipe r => failRecipe s o r status false
  | .digest h v => digestDone s { o with x := { o.x with bad := status } } h v
  | .watch t _ => watchSkip s o t
  | .fwCopy _ _ => s.setOp { o with phase := .ending, endStatus := status }
  | _ => stopOp s o status

/-- A move is looked at: aborted, started, or taken on to its read-backs (R115, R190, R202). -/
def moveTry (s : State) (o : Op) (x t : Nat) (f : Form) (ev : Bool) : State :=
  match o.phase with
  | .ending => if quiet s o.id then abortedMove s o x else s
  | .parked => s
  | .running => issueReadBacks s o
  | _ => if awaitsStart s o then startCheck s o x t f else tryMove s o x t f ev

/-- A ring push that waits in the sync unit is over once its ring has taken it (R241). -/
def pushTry (s : State) (o : Op) (n : Nat) : State :=
  if (s.ring n).pushq.any fun w => w.op = some o.id then s
  else complete (s.delOp o.id) o.req { result := ringCount' (s.ring n) } true

/-- An operation of the kinds whose failures end them at once. -/
def stopsOnFailure (k : OpKind) : Bool :=
  match k with
  | .move _ _ _ _ => false
  | .recipe _ => false
  | .digest _ _ => false
  | .fwCopy _ _ => false
  | .cmp _ _ _ _ => false
  | .plan _ _ _ _ _ _ => false
  | .rcpdef _ _ _ _ => false
  | .watch _ _ => false
  | _ => true

/-- What an operation does next, by its kind. -/
def kindTry (s : State) (o : Op) : State :=
  match o.kind with
  | .move x t f ev => moveTry s o x t f ev
  | .onObj x => tryRegen s o x
  | .fill x off len pat => plainTry s o (fillEnd s o x off len pat)
  | .cmp x y _ _ => if o.phase = .ending then if quiet s o.id then cmpEnd s o x y { status := o.endStatus } else s else s
  | .bounce x off len host up => plainTry s o (bounceEnd s o x off len host up)
  | .inline a bs => plainTry s o (inlineEnd s o a bs)
  | .report a bs => plainTry s o (reportEnd s o a bs)
  | .plan c slot h src len hdr => (planTry s o c slot h src len hdr).todo (.partCheck (ctxPart s c))
  | .rcpdef slot h src len => rcpdefTry s o slot h src len
  | .rngset x m snt acked => rngsetTry s o x m snt acked
  | .heldSignal _ _ _ => s
  | .heldInline _ _ => s
  | .heldBar _ => s
  | .fence _ _ => s
  | .pushWait n _ => pushTry s o n
  | .recipe r => recipeCheck s o r
  | .gather g => gatherTry s o g
  | .serve par _ _ _ => if o.phase = .ending then if quiet s o.id then serveEnd s o par else s else s
  | .sweep g => sweepTry s o g
  | .land l => landTry s o l
  | .contrib c => contribTry s o c
  | .tstream t => teachTry s o t
  | .xsend v => sendTry s o v
  | .xrecv v => recvTry s o v
  | .xboth _ _ ra rb => bothTry s o ra rb
  | .snap x y read img => snapTry s o x y read img
  | .digest _ _ => s
  | .desc ch d pos h => descTry s o ch d pos h
  | .fwCopy _ _ => issueReadBacks s o
  | .watch _ _ => s
  | .test k cmp => testTry s o k cmp

/-- An operation is looked at: what it owes to ports that are gone first, then the loss of a carrier or of its ports, then a failure met, then its kind. -/
def tryOp (s : State) (i : Nat) : State :=
  match s.op i with
  | none => s
  | some o =>
    let o := giveUp s o
    let s := s.setOp o
    match barredPeer s o with
    | some (k, st) => (losePeer s o k st).todo (.tryOp i)
    | none =>
      if portLost s o then faultOp s o 0x30
      else if o.phase = .running ∧ plainStatus o ≠ 0 ∧ stopsOnFailure o.kind then stopOp s o (plainStatus o)
      else kindTry s o

/-- An instruction that waited is carried out again (R12, R80): what holds it back still leaves its wait as it was, with its place in the queues. -/
def againCtx (s : State) (c : Nat) (r : Req) : State :=
  let v := s.ctx c
  let i := insAt s c v.pc
  let t := bodyOf r.opcode (s.modCtx c fun v => { v with waitKind := 0, waitOn := 0, wstart := 0, waiting := none }) i r
  if (t.ctx c).waitKind ≠ 0 then t.modCtx c fun u => { u with wstart := v.wstart, wfrozen := v.wfrozen }
  else (storeLeave (dirLeave t (.retryCtx c)) c).cadd c (if v.waitKind = 1 then 0xA0 else 0xB0) (s.now - v.wstart)

/-- A waiting context is looked at: EPOCH's load has ended (R54, R103), an operation held by R128 has issued, an entry of the waiter store or of the free list, or space, may be there. -/
def retryCtx (s : State) (c : Nat) : State :=
  let v := s.ctx c
  match v.waiting with
  | none => s
  | some r =>
    if v.st ≠ .active then s
    else
      match v.waitKind with
      | 6 => if (v.slotAt (1 - v.aslot)).loading.isSome then s else (epochGo (unwait s c) (insAt s c v.pc) r (v.waitOn = 0)).todo (.ctxCheck c)
      | 7 => unwait s c
      | 4 => (againCtx s c r).todo (.ctxCheck c)
      | 1 =>
        if !storeTurn s c then s
        else if r.opcode = 0x40 then joinSem (storeLeave s c) v.waitOn (.ctx c (insAt s c v.pc).b.opb)
        else (againCtx s c r).todo (.ctxCheck c)
      | _ => s

/-- A SIGNAL that FENCE held takes effect (R98, R99). -/
def heldSignalGoes (s : State) (o : Op) (ring : Bool) (n amt : Nat) : State :=
  if ring then
    match ringPush s n amt o.req.who (some o.id) with
    | (s, true) => complete (s.delOp o.id) o.req { result := ringCount' (s.ring n) } true
    | (s, false) => s.setOp { o with kind := .pushWait n amt }
  else
    let v := min ((s.sem n).val + amt) 0xFFFF
    complete (semAddTo (s.delOp o.id) n amt o.req.who) o.req { result := v } true

/-- Fences of a context and what they hold back, in order (R99). -/
def fenceOps (s : State) (c : Nat) : List Op :=
  s.ops.filter fun o => o.req.who = .ctx c && match o.kind with
    | .fence _ _ | .heldSignal _ _ _ | .heldInline _ _ | .heldBar _ => true
    | _ => false

/-- A FENCE is complete once every operation that was in flight before it has its record; what it held back then takes effect in order (R99). `n` bounds the operations passed. -/
def fences : Nat → State → Nat → State
  | 0, s, _ => s
  | n + 1, s, c =>
    match fenceOps s c with
    | [] => s
    | o :: _ =>
      match o.kind with
      | .fence upto waited =>
        if (s.ctx c).live.any (· < upto) then s else fences n (complete (s.delOp o.id) o.req { result := waited } true) c
      | .heldSignal ring k amt => fences n (heldSignalGoes s o ring k amt) c
      | .heldInline a bs =>
        fences n ((s.setOp { o with kind := .inline a bs, phase := .running, x := mkXfer [] [inlineSeg c a bs.length] }).todo (.tryOp o.id)) c
      | .heldBar g =>
        let s := (s.delOp o.id).modCtx c fun v => { v with live := v.live.erase o.req.id }
        fences n (arriveCtx s g c) c
      | _ => s

/-- One follow-up action. -/
def runWork (s : State) (w : Work) : State :=
  match w with
  | .semAdd n amt who => semAddTo s n amt who
  | .push ring hdl who => (ringPush s ring hdl who (some 0)).1
  | .sealing x => sealObj s x
  | .objLeft x => watchObj (objLeft s x) x
  | .tryOp o => tryOp s o
  | .retryCtx c => retryCtx s c
  | .ctxCheck c => drainCmds (ctxCheck s c) c
  | .chanCheck ch => chanCheck s ch
  | .partCheck p => partCheck s p
  | .fences c => fences 8192 s c
  | .refs _ => s
  | .tap x => triggerObj s x

/-- Follow-up actions, first in first out. `n` bounds their number. -/
def runAll : Nat → State → State
  | 0, s => s
  | n + 1, s =>
    match s.work with
    | [] => s
    | w :: l => runAll n (runWork { s with work := l } w)

/-- The bound on the follow-up actions of one step. -/
def workBound : Nat := 1000000

/-- Partitions whose reset is under way are looked at once the step's other work is done (R288). -/
def resettingParts (s : State) : List Nat := (List.range 16).filter fun p => (s.part p).resetting

/-- The follow-up actions that a step sets off. -/
def runWorks (s : State) : State :=
  let s := runAll workBound s
  if resettingParts s = [] then s else runAll workBound ((resettingParts s).foldl (fun s p => s.todo (.partCheck p)) s)

/-- Everything that a step sets off; the records of its events and their vectors come last (R335, R337). -/
def settle (s : State) : State := flushEvs (runWorks s)

/-- What a command answers. -/
abbrev Out := Host.Outcome State Fault Refusal

/-- The outcome of an event: its effect with all that it sets off. Where the state does not let the event arise (a cell "—" of a table of the spec, a timer that has not run out, an
operation that is not at its completion point), there is no such event, and nothing changes (log entry 37). -/
def happens (can : Bool) (s t : State) : Out := .next (if can then settle t else s)

/-- The outcome of an event whose effect, where it can arise at all, is given. -/
def arises (s : State) (t : Option State) : Out := .next (match t with
  | some t => settle t
  | none => s)

/-- A write to a register of the block: before READY it is ignored (R289). -/
def written (s t : State) : Out := .next (if s.ready then settle t else s)

/-- A hard stop freezes the timers that measure the block's own traffic (R307). -/
def frozen (s : State) : Bool := s.fw.level = 3

end Sys2Proof.Machine
end

