-- ==== Sys2Proof/Machine/Ports.lean ====
section
/-!
DEFINITION. The ports (R257 to R272): responses, target requests, timeouts, retirement and port resets, satellite links.
-/

namespace Sys2Proof.Machine

def portTmo (s : State) : Nat := max 1 (bitsOf (reg s 0xB8000) 15 0) * 1000
def hostTmo (s : State) : Nat := max 1 (bitsOf (reg s 0xB8000) 31 16) * 1000
def droopHoldNs (s : State) : Nat := max 1 (bitsOf (reg s 0xB8000) 47 32) * 1000

/-- The port's inputs are ignored: it is ABSENT or its reset is under way (R261, R265). -/
def deaf (s : State) (n : Nat) : Bool := let v := s.port n; v.st = 3 || v.req || v.ack

def protoCount (s : State) (n : Nat) : State := s.modPort n fun v => { v with proto := satAdd 8 v.proto 1 }
def errCount (s : State) (n : Nat) : State := s.modPort n fun v => { v with err := satAdd 16 v.err 1 }

/-- The operation of a tag learns what its response says (R262): data lost at the source, or a fault, from its place on. A read-back that fails its check leaves the source intact
(note (e) of Table 1.5). A packet that a peer port loses is recovered by replay (R268). -/
def markBad (s : State) (t : Tag) (eff : Nat) (poisoned : Bool) : State :=
  match s.op t.op with
  | some o =>
    if t.port = 22 ∨ t.pos = none ∨ (eff = 0 ∧ !poisoned) then s
    else
      let x := if t.rb ∨ t.ax then o.x else { o.x with fault := some (min (o.x.fault.getD (t.pos.getD 0)) (t.pos.getD 0)) }
      let x := if eff = 2 ∨ t.wr then { x with bad := 0x30 } else if t.rb then { x with bad := 0x12 } else { x with srcBad := true }
      s.setOp { o with x := x }
  | none => s

/-- The last beat of a tag's response has arrived: the tag is free, the transfer goes on; frames that are complete leave the decode lanes (R116); a packet that waited for a tag of PP
goes out (R261). -/
def tagEnds (s : State) (t : Tag) : State :=
  let s := { s with tags := s.tags.erase t }
  let s := if t.port = 22 then drainTx s.txq s else s
  if t.orphan then s
  else
    match s.op t.op with
    | some o =>
      let q := { o with x := (o.x.answered t).pass }
      let s := { s with decNow := s.decNow + (decDone s q - decDone s o) }
      let s := match q.chan with
        | some ch => s.setCluster (ch / 32) { s.cluster (ch / 32) with since := s.now }
        | none => s
      (lineDone (s.setOp q) q).todo (.tryOp q.id)
    | none => s

/-- A response beat of a split-protocol port (R260, R262). -/
def portResp (s : State) (n tag : Nat) (wr : Bool) (st : Nat) (poison last : Bool) : State :=
  if deaf s n then s
  else
    let eff := if st = 3 then 1 else st
    let poisoned := poison && (s.port n).rev = 1 && !wr
    let s := if st = 3 then protoCount s n else s
    match s.tags.find? fun t => t.port = n && t.tag = tag && t.wr = wr with
    | none => protoCount (if st ≠ 0 then errCount s n else s) n
    | some t =>
      let s := if st ≠ 0 ∧ !t.err then errCount s n else s
      if t.orphan then if last then tagEnds s t else s
      else
        let s := markBad s t eff poisoned
        if last then tagEnds s t
        else { s with tags := s.tags.map fun u => if u = t then { t with err := t.err || st ≠ 0 } else u }

/-- A response to a request slot of a host port (R274, R277, R282). -/
def hostResp (s : State) (hp slot : Nat) (poison : Bool) : State :=
  let n := 20 + hp
  if deaf s n then s
  else
    let s := { s with hostl := { s.hostl with lastRsp := s.now } }
    match s.tags.find? fun t => t.port = n && t.tag = slot with
    | none => protoCount s n
    | some t => tagEnds (if t.orphan then s else markBad s t 0 (poison && !t.wr)) t

/-- Every 4 KiB page of a T0 range is allocated to an object that is BOUND or RESIDENT in T0 (R267). -/
def t0Allocated (s : State) (a n : Nat) : Bool :=
  a + n ≤ Config.t0Size && 0 < n && (List.range ((a + n - 1) / 4096 - a / 4096 + 1)).all fun i =>
    let g := (a / 4096 + i) * 4096
    s.objs.any fun e => let o := e.2
      (o.st = .bound || o.st = .resident) && o.home = 0 && tqaOff o.homeaddr ≤ g && g + 4096 ≤ tqaOff o.homeaddr + o.resv

/-- The answer on a port's target channels; one that is not OK is counted (R267). -/
def tAnswer (s : State) (n : Nat) (r : TRsp) : State :=
  let s := { s with trsp := tset s.trsp n r }
  if r.status = 2 then errCount s n else s

/-- A target write has its last beat (R263, R267, R268). -/
def targetWrite (s : State) (n src tag a len : Nat) (bs : List Byte) (poisoned : Bool) : State :=
  if n = 22 then tAnswer s n ⟨src, tag, true, 0, []⟩
  else if !t0Allocated s a len then tAnswer s n ⟨src, tag, true, 2, []⟩
  else if poisoned then tAnswer s n ⟨src, tag, true, 1, []⟩
  else tAnswer (s.store (tqa 0 a) (bs.take len)) n ⟨src, tag, true, 0, []⟩

/-- A target request, with as many beats of its write data as have come (R263, R266, R267). -/
def targetReq (s : State) (n src tag : Nat) (wr : Bool) (a len : Nat) (bs : List Byte) (poison last : Bool) : State :=
  let n32 := 32 * (len + 1)
  if s.srcRst.contains (n, src) ∨ deaf s n then s
  else if !wr then
    if n = 22 ∨ !t0Allocated s a n32 then tAnswer s n ⟨src, tag, false, 2, []⟩ else tAnswer s n ⟨src, tag, false, 0, rdBytes s.mem (tqa 0 a) n32⟩
  else
    let mine := fun (p : Partial) => p.port = n && p.src = src && p.tag = tag
    let old := (s.partials.find? mine).getD { port := n, src := src, tag := tag, addr := a, wr := true }
    let new : Partial := { old with bytes := old.bytes ++ bs, poison := old.poison || (poison && (s.port n).rev = 1) }
    let s := { s with partials := s.partials.filter fun p => !mine p }
    if last then targetWrite s n src tag new.addr n32 new.bytes new.poison else { s with partials := s.partials ++ [new] }

/-- A source on the target side is reset (R266). -/
def sourceReset (s : State) (n src : Nat) : State :=
  { s with partials := s.partials.filter fun p => !(p.port = n && p.src = src), srcRst := (n, src) :: s.srcRst.filter fun e => e ≠ (n, src),
           trsp := s.trsp.filter fun e => !(e.1 = n && e.2.src = src) }
def sourceResetEnd (s : State) (n src : Nat) : State := { s with srcRst := s.srcRst.filter fun e => e ≠ (n, src) }

/-- Tags on a port that serve an operation. -/
def openTags (s : State) (n : Nat) : List Tag := s.tags.filter fun t => t.port = n && !t.orphan

/-- The tier that a port's bursts serve. -/
def portTier (n : Nat) : Nat := if n < 16 then 1 else if n < 20 then 2 else if n < 22 then 3 else 5

/-- A burst whose port is gone is owed again, through another port of the kind (R264): as the same stripe of its object, where R34 and R258 choose by it. The old tag stays until the
port's reset ends. A packet is sent again by replay (R268). -/
def reissue (s : State) (t : Tag) : State :=
  let s := { s with tags := s.tags.map fun u => if u = t then { t with orphan := true } else u }
  match s.op t.op, t.pos with
  | some o, some k =>
    if t.port = 22 then (s.setOp { o with x := (o.x.answered t).pass }).todo (.tryOp o.id)
    else
      let b : Burst := { op := o.id, wr := t.wr, tier := t.tier, off := t.addr, idx := t.idx, len := t.bytes, x := t.x, pos := k, rb := t.rb, via := t.port, ax := t.ax, again := true }
      (flushRedo (s.setOp { o with x := { o.x with redo := o.x.redo ++ [b] } }) o.id).todo (.tryOp o.id)
  | _, _ => s

/-- Peer traffic stops: every carrier that the peer unit has to do with is DOWN (Table 10.4, log entry 157): those with streams, and those that operations name. -/
def allPeersDown (s : State) : State :=
  let known := s.peers.map (fun e => e.1) ++ s.streams.map (fun e => e.1 / 4) ++ s.ops.flatMap (opPeers s)
  (known.dedup.filter fun k => !(s.peer k).down).foldl peerDown s

/-- A move whose source or destination is in T3. -/
def touchesT3 (s : State) (o : Op) : Bool :=
  (o.x.rd ++ o.x.wr).any (fun g => g.tier = 3) || match o.kind with
    | .move x t _ _ => (s.obj x).home = 3 || t = 3
    | _ => false

/-- A move under way parks (Table 1.5, R23). -/
def parkMove (s : State) (o : Op) : State :=
  match o.kind with
  | .move x _ _ _ => (s.setOp { o with phase := .parked }).modObj x fun v => { v with st := .parked }
  | _ => s.setOp { o with phase := .parked }

/-- A transfer goes on from its saved position (R205, R206, R283): the lowest burst that has failed or has no confirmed completion. What was issued from there on is issued again;
answers to it still to come are for nobody. -/
def rewind (s : State) (o : Op) : State :=
  let x := o.x
  let back := fun (n k : Nat) => if n = 0 then 0 else k
  let aux := x.aux.map fun a => if a.st = 1 then { a with st := 0 } else a
  let x : Xfer :=
    if x.copy then
      let k := upToDone s o
      { x with rdOff := k, rdBack := back x.slen k, wrOff := back x.dlen k, wrBack := back x.dlen k, rdIdx := ((x.opens.find? fun e => e.off = k).map fun e => e.idx).getD x.rdIdx }
    else
      let r := upTo s o false
      let w := upTo s o true
      { x with rdOff := r, rdBack := r, wrOff := w, wrBack := w }
  let s := { s with tags := s.tags.map fun (t : Tag) => if t.op = o.id then { t with pos := none } else t }
  s.setOp { o with x := ({ x with opens := [], redo := [], aux := aux, fault := none, rbIssued := false } : Xfer).pass }

/-- A parked operation goes on (RESUME of Table 1.5, R205, R206). -/
def unpark (s : State) (o : Op) : State :=
  let s := rewind s { o with phase := .running, parkedPage := none }
  let s : State := match o.kind with
    | .move x _ _ _ => s.modObj x fun v => if v.st = .parked then { v with st := .inTransit } else v
    | _ => s
  s.todo (.tryOp o.id)

/-- The channel has a descriptor in progress that lies in T3 or touches it, or the next descriptor to fetch is there (R206). -/
def chanT3 (s : State) (ch : Nat) : Bool :=
  let v := s.chan ch
  let there := fun (d : Desc) => tqaTier d.place = 3
  (descOps s ch).any (fun e => touchesT3 s e.1 || match e.1.kind with
    | .desc _ d _ _ => there d
    | _ => false) || v.ready.any (fun e => there e.2 || descT3 (descXfer s ch e.2 0)) || match v.next with
    | some a => tqaTier a = 3
    | none => false

/-- The block detaches from the host (R206, R282, R283). Cause codes are those of Table 10.17. The reads of watch samples in T3 fail (R339). -/
def detach (s : State) (cause : Nat) : State :=
  if s.hostl.detached then s
  else
    let h := s.hostl
    let s := { s with hostl := { h with detached := true, detachCause := cause, detaches := satAdd 16 h.detaches 1, lostAt := s.now, ats := { h.ats with cache := [], asked := [], pri := [], inval := [] } } }
    let s := evGP s 0 0 2 cause
    let s := s.ops.foldl (fun s o => if o.phase = .running ∧ touchesT3 s o then match o.kind with
      | .watch t _ => watchSkip s o t
      | _ => parkMove s { o with parkedPage := none } else s) s
    s.chans.foldl (fun s e => if e.2.hostq ∧ (e.2.st = 1 ∨ e.2.st = 2) ∧ chanT3 s e.1 then s.setChan e.1 { e.2 with st := 3 } else s) s

/-- The port is retired, or on its way there. -/
def portOut (s : State) (n : Nat) : Bool := let v := s.port n; v.st = 2 || v.st = 3 || (v.st = 1 && !v.toLive)

/-- A port leaves service (Table 10.4): its bursts go elsewhere, the host or the peers are gone, or its compute cluster is. -/
def portGone (s : State) (n : Nat) : State :=
  if 23 ≤ n then copLost s (n - 23)
  else
    let s := (openTags s n).foldl reissue s
    if n = 22 then allPeersDown s
    else if (n = 20 ∨ n = 21) ∧ portOut s 20 ∧ portOut s 21 then detach s 2
    else if n = 20 + s.hostl.ioPort then detach s 0
    else s

/-- Operations that may be waiting for a port are looked at again. -/
def retryOps (s : State) : State := s.ops.foldl (fun s o => s.todo (.tryOp o.id)) s

/-- A port is retired (R264) for a cause of Table 10.18; its reset starts. One that is being reset comes out of the reset RETIRED. -/
def retirePort (s : State) (n cause : Nat) : State :=
  let v := s.port n
  if v.st = 3 ∨ v.st = 2 ∨ (v.st = 1 ∧ !v.toLive) then s
  else
    let live := v.st = 0
    let v := { v with st := 1, toLive := false, cause := cause }
    let s := s.setPort n (if live then { v with req := true, since := some s.now } else v)
    retryOps (portGone (evGP s 4 n 3 cause) n)

/-- PRG_PORT_CTL RESET on a live port (R265): bursts in flight are issued again as under R264. -/
def resetPort (s : State) (n : Nat) : State :=
  if (s.port n).st ≠ 0 then s
  else
    let s := s.modPort n fun v => { v with st := 1, toLive := true, req := true, since := some s.now }
    retryOps (if 23 ≤ n then copLost s (n - 23) else (openTags s n).foldl reissue s)

/-- PRG_PORT_CTL RESTORE on a RETIRED port (R265). -/
def restorePort (s : State) (n : Nat) : State :=
  let v := s.port n
  if v.st = 2 ∨ (v.st = 1 ∧ !v.toLive) then s.setPort n (if v.st = 2 then { v with st := 1, toLive := true, req := true, since := some s.now } else { v with toLive := true }) else s

/-- The carrier drives x_rst_ack (R265). When it falls the port's tags are gone, what they kept in quarantine is released, partial target
writes are dropped, and the port is LIVE or RETIRED. -/
def resetAck (s : State) (n : Nat) (rise : Bool) : State :=
  if rise then s.modPort n fun v => { v with ack := true, req := false, since := none }
  else
    let s := s.modPort n fun v => { v with ack := false, st := if v.toLive then 0 else 2, cause := if v.toLive then 0 else v.cause }
    let s := { s with tags := s.tags.filter (fun t => t.port ≠ n), partials := s.partials.filter fun q => q.port ≠ n }
    let s := if n = 22 then drainTx s.txq s else s
    retryOps (stockpotMark (if 23 ≤ n then copFreed s (n - 23) else s))

/-- The reset handshake is overdue (R265): it is counted once, the port stays RESETTING. -/
def resetLate (s : State) (n : Nat) : State := s.modPort n fun v => { v with rsttmo := satAdd 8 v.rsttmo 1, since := none }
def resetDue (s : State) (n : Nat) : Bool :=
  let v := s.port n
  v.req && !v.ack && match v.since with
    | some t => t + portTmo s ≤ s.now
    | none => false

/-- A request or a tag of a port is overdue (R264). Command ports have no limit on their tags but STEP_TMO_MS. -/
def portOverdue (s : State) (n : Nat) (response : Bool) : Bool :=
  isLive s n && !frozen s && (!response || (n < 23 && s.tags.any fun t => t.port = n && t.time + portTmo s ≤ s.now))
def portTimeout (s : State) (n : Nat) (response : Bool) : State :=
  retirePort (s.modPort n fun v => { v with tmo := satAdd 16 v.tmo 1 }) n (if response then 2 else 1)

/-- A satellite's link is lost in operation (R169, R227, R270). -/
def satLost (s : State) (n : Nat) : State :=
  let s := { s with sat := { s.sat with present := s.sat.present - 2 ^ n } }
  teachLost (evGP s 12 n 0x15 0) n

/-- Streams on a satellite's link: TSTREAMs that run on its cluster. -/
def flitsDue (s : State) (n : Nat) : List Nat :=
  s.ops.filterMap fun o => match o.kind with
    | .tstream t => if t.mode ≠ 2 ∧ o.phase = .running ∧ bitOf t.clmask (n / 8) then some o.id else none
    | _ => none

/-- A satellite's back lane frees flits, and tells of a block whose check value did not match (R168, R270). -/
def backLane (s : State) (n credits : Nat) (crcErr : Bool) : State :=
  let s := { s with sat := { s.sat with credits := tset s.sat.credits n (min 1536 (satCredits s n + credits)), satcrc := if crcErr then satAdd 32 s.sat.satcrc 1 else s.sat.satcrc } }
  let s := if crcErr then evG s 12 n 0x16 0 else s
  (flitsDue s n).foldl (fun s o => s.todo (.tryOp o)) s

end Sys2Proof.Machine
end

