-- ==== Sys2Proof/Machine/Bist.lean ====
section
/-!
DEFINITION. Self-test in operation (R323 to R328): slices, their fences, failures, soft repair, unusable units; the recovery of a hung mover cluster (R207, R208).
-/

namespace Sys2Proof.Machine

/-- Units of each row of Table 12.6: 1 sequencer, 2 cluster, 3 codec lane (encode 0 to 15, decode 16 to 31), 4 AES engine, 5 Stockpot bank, 6 directory-cache slice, 7 satellite,
8 junction sensor, 9 clock monitor. -/
def kindCount (kind : Nat) : Nat := match kind with
  | 1 => 16
  | 2 => 8
  | 3 => 32
  | 4 => 4
  | 5 => 64
  | 6 => 16
  | 7 => 64
  | 8 => 8
  | 9 => 1
  | _ => 0
/-- The units in the order of a round. -/
def roundUnits : List (Nat × Nat) := (List.range 10).flatMap fun k => (List.range (kindCount k)).map fun u => (k, u)

/-- A unit is usable. -/
def unitUsable (s : State) (kind u : Nat) : Bool := match kind with
  | 1 => seqUsable s u
  | 2 => clusterUsable s u
  | 3 => bitOf s.bist.lanes u
  | 4 => bitOf s.bist.aes u
  | 5 => bankUsable s u
  | 6 => dcUsable s u
  | 7 => bitOf s.sat.present u
  | 8 => bitOf s.bist.sensors u
  | _ => s.bist.clk

/-- A word without a bit. -/
def clearBit (w n : Nat) : Nat := if bitOf w n then w - 2 ^ n else w

/-- A context leaves a sequencer that is fenced or may not run it any more, at an instruction boundary (R36, R38, Table 12.6). -/
def vacate (s : State) (q : Nat) : State := match (s.seq q).ctx with
  | some c => leaveSeq s c
  | none => s
/-- The sequencer is unusable: its context leaves it, and where its image cannot be saved it meets UNIT_LOST (Table 2.9, log entry 41). -/
def unitLost (s : State) (q : Nat) : State := match (s.seq q).ctx with
  | some c =>
    let t := vacate s.tick q
    if Config.imageLost s.free then raiseExc t c { cause := 0x0A, status := causeStatus 0x0A, pc := (s.ctx c).pc, opcode := 0 } else t
  | none => s
/-- A sequencer lets its context go: one that is unusable may have lost the image. -/
def letGo (s : State) (q : Nat) : State := if seqUsable s q then vacate s q else unitLost s q
/-- The lines of a slice of the directory cache are written back and gone. -/
def dropWay (s : State) (w : Nat) : State :=
  let s := (s.dir.sets.flatMap fun e => e.2.filter fun l => l.1 = w).foldl dirEvict s
  { s with dir := { s.dir with sets := s.dir.sets.map fun (e : Nat × List (Nat × Nat × Nat)) => (e.1, e.2.filter fun l => l.1 ≠ w) } }

/-- A slice ends, or is abandoned; a visit that comes to nothing is a deferral (R323, R324). -/
def dropSlice (s : State) (x : Nat × Nat × Nat) : State :=
  let s := { s with bist := { s.bist with slices := s.bist.slices.erase x } }
  if x.1 = 2 then testDrop s x.2.1 else s
def bistDefer (s : State) : State := { s with bist := { s.bist with deferred := satAdd 64 s.bist.deferred 1 } }

/-- A cluster is quiesced (R207 steps 1 and 2); a slice on it yields to the recovery (R324). -/
def quiesce (s : State) (k : Nat) : State :=
  let s := match s.bist.slices.find? fun x => x.1 = 2 && x.2.1 = k with
    | some x => bistDefer (dropSlice s x)
    | none => s
  s.setCluster k { st := 2, since := s.now }

/-- An operation under way needs the decode lanes, or the encode lanes (R163, R166). -/
def mustDecode (s : State) (o : Op) : Bool :=
  let enc := fun (x : Nat) => (s.obj x).form = .enc
  match o.kind with
  | .move x _ f _ => enc x && (f ≠ .enc || ((s.obj x).revalidate && (s.obj x).home = 3))
  | .cmp x y _ _ => enc x || enc y
  | .recipe r => r.temps ≠ [] && o.x.wr ≠ []
  | .digest h _ => enc (hIdx h)
  | .watch _ h => enc (hIdx h)
  | .xrecv v => v.tier = 0 && v.placed && v.notice.any fun n => n.2.1
  | _ => false
def mustEncode (s : State) (o : Op) : Bool := match o.kind with
  | .move x _ f _ => f = .enc && (s.obj x).form ≠ .enc
  | _ => false
/-- Operations that need a kind of lane whose last one is lost end (R166). One that is parked has not finished either. -/
def lanesLost (s : State) : State :=
  s.ops.foldl (fun s o =>
    if (o.phase = .running ∨ o.phase = .parked) ∧ ((mustDecode s o ∧ !decUsable s) ∨ (mustEncode s o ∧ !encUsable s)) then
      match o.kind with
      | .recipe r => failRecipe s o r 0x31 true
      | _ => faultOp s o 0x31
    else s) s

/-- A unit is unusable from now (R328, Table 12.7). A sequencer in the middle of an instruction lets its context go at the end of it. -/
def markUnusable (s : State) (kind u : Nat) : State :=
  let b := s.bist
  match kind with
  | 1 =>
    let s := { s with bist := { b with seqs := clearBit b.seqs u } }
    if (s.seq u).ctx.any (midInstr s) then s else unitLost s u
  | 2 => let s := { s with bist := { b with clusters := clearBit b.clusters u } }
    if (s.cluster u).st = 0 then quiesce s u else s
  | 3 => lanesLost { s with bist := { b with lanes := clearBit b.lanes u } }
  | 4 => { s with bist := { b with aes := clearBit b.aes u } }
  | 5 => { s with bist := { b with banks := clearBit b.banks u } }
  | 6 => dropWay { s with bist := { b with dcSlices := clearBit b.dcSlices u } } u
  | 7 => if bitOf s.sat.present u then satLost s u else s
  | 8 => { s with bist := { b with sensors := clearBit b.sensors u } }
  | _ => { s with bist := { b with clk := false } }

/-- An allocated extent, a partition's window or an orphaned write lies in a bank (R325). -/
def bankHolds (s : State) (u : Nat) : Bool :=
  let a := u * Config.bankSize
  let n := Config.bankSize
  (s.objs.any fun e => let o := e.2
    (o.home = 0 && meets a n (tqaOff o.homeaddr) o.resv) || (o.dest = 0 && meets a n (tqaOff o.destaddr) o.dresv)) ||
  (s.runs.any fun r => r.tier = 0 && meets a n r.off r.len) || ((List.range 16).any fun p => meets a n (winBase s p 0) (winSize s p 0)) ||
  (orphanExtents s 0).any fun e => meets a n e.1 e.2
/-- A slice of the directory cache holds a locked entry (R10, R325). -/
def wayLocked (s : State) (w : Nat) : Bool := s.dir.sets.any fun e => e.2.any fun l => l.1 = w && isLocked s l.2.1

/-- A unit is skipped in this round (R323, log entry 32). -/
def sliceSkip (s : State) (kind u : Nat) : Bool :=
  (kind ≠ 9 && ((List.range (kindCount kind)).all fun v => v = u || !unitUsable s kind v || underTest s kind v)) || 2 ≤ s.fw.level ||
    (kind = 5 && bankHolds s u) || (kind = 6 && wayLocked s u) || ((kind = 5 || kind = 6) && (List.range 8).any fun k => (s.cluster k).st = 2) ||
    (kind = 7 && flitsDue s u ≠ []) || (kind = 2 && (s.cluster u).st ≠ 0)

/-- The next unit of the round that is usable, and its position. -/
def nextUnit (s : State) : Option (Nat × Nat × Nat) :=
  let all := (roundUnits.zip (List.range roundUnits.length)).filter fun e => unitUsable s e.1.1 e.1.2
  (((all.filter fun e => s.bist.pos ≤ e.2) ++ all).head?).map fun e => (e.2, e.1)

/-- BIST_EN (Table 12.10), of a block that is not SCRAPPED (Table 12.4); the gap between slices in ns. -/
def bistOn (s : State) : Bool := bitOf (reg s 0xF0740) 0 && s.lc.inForce ≠ 4
def sliceGap (s : State) : Nat := max 1 (bitsOf (reg s 0xF0740) 31 16) * 1000

/-- A slice starts: its unit is fenced. -/
def sliceStart (s : State) (kind u : Nat) : State :=
  let b := s.bist
  let s := { s with bist := { b with slices := b.slices ++ [(kind, u, s.now)], run := satAdd 64 b.run 1 } }
  match kind with
  | 1 => vacate s u
  | 2 => testBegin s u
  | 6 => dropWay s u
  | _ => s

/-- BIST_SLICE (R323): the next unit of the round is skipped, or its slice starts. -/
def bistVisit (s : State) (i kind u : Nat) : State :=
  let s := { s with bist := { s.bist with pos := (i + 1) % roundUnits.length } }
  if sliceSkip s kind u then bistDefer s else sliceStart { s with bist := { s.bist with lastStart := s.now } } kind u
/-- When the next visit may come; that to a sequencer, at an instruction boundary. -/
def visitDue (s : State) : Option (Nat × Nat × Nat) :=
  if bistOn s ∧ (s.core 2).up ∧ s.bist.lastStart + sliceGap s ≤ s.now then
    match nextUnit s with
    | some (i, kind, u) => if s.bist.slices.any (fun x => x.1 = kind) ∨ (kind = 1 ∧ (s.seq u).ctx.any (midInstr s)) then none else some (i, kind, u)
    | none => none
  else none

/-- The BIST log takes an entry (Table 12.9), the event names it (R327). -/
def bistLog (s : State) (kind u row bit : Nat) (startup : Bool) : State :=
  let b := s.bist
  let i := b.logNext
  let e := pack [(0, 4, kind), (4, 7, u), (12, 1, b2n startup), (16, 16, row), (32, 10, bit)]
  let s := { s with bist := { b with log := tset b.log i (e, s.now), logNext := (i + 1) % 64, logCount := satAdd 32 b.logCount 1, failed := satAdd 64 b.failed 1 } }
  evG s 7 u 6 i

/-- Spare rows left in a bank or a slice of the directory cache (R327). -/
def sparesLeft (s : State) (kind u : Nat) : Nat := (if kind = 5 then 4 else if kind = 6 then 2 else 0) - tget s.bist.spare (128 * kind + u) 0
/-- The log entry of a soft repair whose march has run again: REPAIRED. -/
def markRepaired (s : State) (kind u start : Nat) : State :=
  let b := s.bist
  match b.log.find? fun e => bitsOf e.2.1 3 0 = kind && bitsOf e.2.1 10 4 = u && e.2.2 = start && !bitOf e.2.1 11 with
  | some (i, w, t) => { s with bist := { b with log := tset b.log i (w + 2 ^ 11, t), repairs := min 255 (b.repairs + 1) } }
  | none => s

/-- Bytes of a bank after its march (log entry 33). -/
def marched (s : State) (kind u : Nat) : State := if kind = 5 then { s with mem := wrZero s.mem (tqa 0 (u * Config.bankSize)) Config.bankSize } else s

/-- The slice of a kind that is running: one at a time in a round, and those of clusters in recovery. -/
def sliceOf? (s : State) (kind : Nat) : Option (Nat × Nat × Nat) := s.bist.slices.find? fun x => x.1 = kind
/-- The slice may end with the result given: that of a cluster passes once its copy has. -/
def sliceReady (s : State) (x : Nat × Nat × Nat) (pass : Bool) : Bool := !pass || x.1 ≠ 2 || testPassed s x.2.1

/-- BIST_SLICE_END (R207 step 6, R323, R327, R328). `rows` counts the failing rows of a march. -/
def sliceEnd (s : State) (x : Nat × Nat × Nat) (pass : Bool) (rows row bit : Nat) : State :=
  let (kind, u, start) := x
  let s := marched (dropSlice s x) kind u
  let recovering := kind = 2 && (s.cluster u).st = 2
  if pass then
    let s := markRepaired { s with bist := { s.bist with passed := satAdd 64 s.bist.passed 1 } } kind u start
    retryOps (if recovering then s.setCluster u { st := 0, since := s.now } else s)
  else
    let march := kind = 5 || kind = 6
    let s := bistLog s kind u (if march then row else 0) (if march then bit else 0) false
    if march ∧ 0 < rows ∧ rows ≤ sparesLeft s kind u then
      sliceStart { s with bist := { s.bist with spare := tset s.bist.spare (128 * kind + u) (tget s.bist.spare (128 * kind + u) 0 + rows) } } kind u
    else
      let s := markUnusable s kind u
      if recovering then s.setCluster u { st := 3, since := s.now } else s

/-- Bytes that an operation with a deadline waits for in T0 (R325). -/
def wantsT0 (s : State) (o : Op) : Option (Nat × Nat) :=
  if o.phase = .waitSpace ∧ o.due.isSome then match o.kind with
    | .move x 0 f _ => some ((s.obj x).part, formSize (s.obj x) f)
    | .xrecv v => if v.tier = 0 then some (o.req.part, (s.obj v.x).rawlen) else none
    | _ => none
  else none

/-- A fenced unit is needed (R325): a deadline placement fails only by the fence, a recovery needs the reserve, or a miss finds no other way in. -/
def marchNeeded (s : State) (x : Nat × Nat × Nat) : Bool :=
  let t := dropSlice s x
  if x.1 = 5 then
    ((s.ops.filterMap (wantsT0 s)).any fun e => !fits s e.1 0 e.2 true && fits t e.1 0 e.2 true) || (x.2.1 = reserveBank s && (List.range 8).any fun k => (s.cluster k).st = 2)
  else if x.1 = 6 then dirWays s = [] && s.ctxs.any fun e => e.2.miss.isSome
  else false
/-- MARCH_YIELD (R325). -/
def marchYield (s : State) (x : Nat × Nat × Nat) : State := retryOps (bistDefer (marched (dropSlice s x) x.1 x.2.1))

/-- A logic slice of a cluster yields to an operation with a deadline on it (R324). -/
def yieldClusters (s : State) : State :=
  s.bist.slices.foldl (fun s x =>
    if x.1 = 2 ∧ (s.cluster x.2.1).st = 0 ∧ s.ops.any (fun o => o.due.isSome && o.phase = .running && o.chan.any fun ch => ch / 32 = x.2.1) then bistDefer (dropSlice s x) else s) s

/-- Units whose bits are set in a word of PRG_UNIT_MASK are unusable (R328, Table 12.10). -/
def maskUnits (s : State) (word v : Nat) : State :=
  if word = 1 then (List.range 64).foldl (fun s b => if bitOf v b then markUnusable s 5 b else s) s
  else
    let sub := fun (s : State) (kind lo n : Nat) => (List.range n).foldl (fun s u => if bitOf v (lo + u) then markUnusable s kind u else s) s
    sub (sub (sub (sub (sub (sub s 1 0 16) 2 16 8) 4 24 4) 6 32 16) 8 48 8) 9 56 1

/-- Operations on a cluster. -/
def clusOps (s : State) (k : Nat) : List Op := s.ops.filter fun o => o.chan.any fun ch => ch / 32 = k

/-- A cluster holds an item that could make progress (a request that nothing but the cluster keeps from a free tag, a LIVE port and a credit) and has made none for CLUSTER_TMO_US (R207). Two clusters at most are in recovery (R208). -/
def clusterHung (s : State) (k : Nat) : Bool :=
  (s.cluster k).st = 0 && !frozen s && (s.core 2).up && (s.cluster k).since + clusterTmo s ≤ s.now && ((List.range 8).filter fun j => (s.cluster j).st = 2).length < 2 &&
    (clusOps s k).any fun o => (nextBursts o).any fun b =>
      burstReady s (2 ^ 31 - 1) o b && (o.x.free || b.again || slackOn s o.req.part || mayIssue s o.req.part o.cls (groupOf b.tier) (creditsOf b.len) o.due.isSome)

/-- An item of a cluster in recovery ends with UNIT_UNUSABLE (R207 step 5). -/
def loseItem (s : State) (o : Op) : State :=
  let s := movAdd s o.req.part 7 1
  match o.kind with
  | .move x _ _ _ => if o.phase = .queued ∨ o.phase = .waitSpace then dropOp s x o 0x31 false else stopMove s o x 0x31
  | .plan c slot h _ _ _ => planFail s o c slot h 0x31
  | .rcpdef slot h _ len => rcpdefEnd s o slot h len 0x31
  | _ => faultOp s o 0x31

/-- A host-mode channel of a cluster in recovery: descriptors fetched and not started, chains queued, then FENCED (R207 step 5). One that was being disabled is DISABLED. -/
def fenceChan (s : State) (ch : Nat) : State :=
  let v := s.chan ch
  let s := { s with rings := s.rings.map fun (e : Nat × Ring) => (e.1, { e.2 with popq := e.2.popq.filter fun w => w ≠ .chan ch, pushq := e.2.pushq.filter fun w => w.who ≠ .chan ch }) }
  let unread := v.running && v.next.isSome && v.ready = [] && descOps s ch = []
  let s := s.modChan ch fun v => { v with ready := [], next := none, popped := none, chains := [] }
  let s := (v.ready.zip (List.range v.ready.length)).foldl (fun s e =>
    let d := e.1.2
    let s := movAdd s v.part 7 1
    descRecord s ch (if d.op ≤ 4 then d.op else 4) 0x31 (if d.op = 4 then 0 else d.len) e.1.1 (if e.2 = 0 then v.popped.getD 0 else 0) d.cookie { d with rpush := false }) s
  let s := if unread then chainRecord s ch v.head else s
  let s := v.chains.foldl (fun s h => chainRecord s ch h) s
  (s.modChan ch fun v => { v with st := if v.st = 4 ∨ v.st = 5 ∨ v.st = 6 then v.st else 7 }).todo (.chanCheck ch)

/-- ORPHAN_TAGS (R207 steps 3 to 6). -/
def orphanCluster (s : State) (k : Nat) : State :=
  let ids := (clusOps s k).map fun o => o.id
  let s := { s with tags := s.tags.map fun t => if ids.contains t.op ∧ !t.orphan then { t with orphan := true, clus := some k } else t }
  let s := (clusOps s k).foldl loseItem s
  let s := ((s.chans.filter fun e => e.2.hostq && e.1 / 32 = k).map fun e => e.1).foldl fenceChan s
  if clusterUsable s k then sliceStart s 2 k else s.setCluster k { st := 3, since := s.now }
/-- A cluster in recovery has no tag left, or has waited CLUSTER_TMO_US for them. -/
def orphansDue (s : State) (k : Nat) : Bool :=
  (s.cluster k).st = 2 && !underTest s 2 k && ((!frozen s && (s.cluster k).since + clusterTmo s ≤ s.now) || (clusOps s k).all fun o => quiet s o.id)

end Sys2Proof.Machine
end

