-- ==== Sys2Proof/Machine/ExecChannels.lean ====
section
/-!
DEFINITION. Channels and descriptors, disabling and enabling, pacing lines, cluster recovery (07), the timeout of a command port (05).
-/

namespace Sys2Proof.Machine

/-- STEP_TIMEOUT (R147, R264): a request on a command port without its answer for STEP_TMO_MS. -/
def stepOverdue (s : State) (cl tag : Nat) : Bool :=
  copUp s cl && !frozen s && match s.cqTags.find? fun e => e.1 = 32 * cl + tag with
  | some e => e.2.2 + stepTmo s ≤ s.now
  | none => false
/-- A request that served a recipe counts in the TIMEOUT counter of its partition (R151). -/
def countTimeout (s : State) (cl tag : Nat) : State :=
  match s.cqTags.find? fun e => e.1 = 32 * cl + tag with
  | some (_, .launch o _, _) | some (_, .rngSet o, _) => match s.op o with
    | some v => if v.recipe?.isSome then copAdd s v.req.part 3 else s
    | none => s
  | _ => s
/-- STEP_TIMEOUT (R147, R264). -/
def execStepTimeout (cl : BitVec 3) (tag : Byte) (s : State) : Out :=
  happens (tag.toNat < 32 && stepOverdue s cl.toNat tag.toNat) s (retirePort ((countTimeout s cl.toNat tag.toNat).modPort (23 + cl.toNat) fun v => { v with tmo := satAdd 16 v.tmo 1 }) (23 + cl.toNat) 2)

/-- CHAN_DOORBELL (R188). -/
def execChanDoorbell (ch : BitVec 8) (head : W64) (s : State) : Out := written s (chanDoorbell s ch.toNat head.toNat)
/-- DESCRIPTOR_FETCH (R188, R189). A read in error waits for the cluster's core, which reports it (Table 11.2). -/
def execDescriptorFetch (ch : BitVec 8) (r : RdRes) (s : State) : Out :=
  happens (canFetch s ch.toNat && !frozen s && (r = .ok || (s.core (3 + ch.toNat / 32)).up)) s (descFetch s ch.toNat r)

/-- The channel's first ready descriptor, when its opcode meets a test, starts (R187, R188). -/
def startFirst (s : State) (ch : Nat) (codes : Nat → Bool) : Option State := (canStart s ch codes).map fun e => descStart s ch e.1 e.2
/-- COPY (R187). -/
def execCopy (ch : BitVec 8) (s : State) : Out := arises s (startFirst s ch.toNat (· = 0))
/-- FILL (R187). -/
def execDescFill (ch : BitVec 8) (s : State) : Out := arises s (startFirst s ch.toNat (· = 1))
/-- CMP (R187). -/
def execDescCmp (ch : BitVec 8) (s : State) : Out := arises s (startFirst s ch.toNat (· = 2))
/-- IGATHER (R199). -/
def execIgather (ch : BitVec 8) (s : State) : Out := arises s (startFirst s ch.toNat (· = 3))
/-- NOP (R187); a descriptor with an unassigned OP fails its check in the same place. -/
def execDescNop (ch : BitVec 8) (s : State) : Out := arises s (startFirst s ch.toNat (4 ≤ ·))

/-- PRG_CHAN_CTL ENABLE (R204). -/
def chanEnable (s : State) (ch : Nat) : State := if (s.chan ch).st = 6 then s.modChan ch fun v => { v with st := 0 } else s
/-- CHAN_ENABLE (R204). -/
def execChanEnable (ch : BitVec 8) (s : State) : Out := written s (chanEnable s ch.toNat)
/-- CHAN_DISABLE in DRAIN mode (R203, R204). -/
def execChanDisableDrain (ch : BitVec 8) (s : State) : Out := written s (chanDisable s ch.toNat false)
/-- CHAN_DISABLE in ABORT mode (R203, R204). -/
def execChanDisableAbort (ch : BitVec 8) (s : State) : Out := written s (chanDisable s ch.toNat true)
/-- PRG_PART_CTL ENABLE (R204): the partition's host-mode channels take doorbells again. -/
def partEnable (s : State) (p : Nat) : State :=
  if (s.part p).st = 3 ∧ !(s.part p).resetting then (partChans s p).foldl chanEnable (s.modPart p fun v => { v with st := 0 }) else s
/-- PART_ENABLE (R204). -/
def execPartEnable (p : BitVec 4) (s : State) : Out := written s (partEnable s p.toNat)
/-- PART_DISABLE in DRAIN mode (R204). -/
def execPartDisableDrain (p : BitVec 4) (s : State) : Out := written s (partDisable s p.toNat false)
/-- PART_DISABLE in ABORT mode (R204). -/
def execPartDisableAbort (p : BitVec 4) (s : State) : Out := written s (partDisable s p.toNat true)

/-- HEAD of a ring moves forward and not past TAIL (R192). -/
def headOk (old tail new : Nat) : Bool := (new + 2 ^ 32 - old) % 2 ^ 32 ≤ (tail + 2 ^ 32 - old) % 2 ^ 32
/-- A write of a completion queue's HEAD (R192, R194): one that is out of order is counted. -/
def cqHead (s : State) (q head : Nat) : State :=
  let c := s.cq q
  if headOk c.head c.tail head then cqDrainAll (s.setCq q { c with head := head })
  else match cqOwner s q with
    | some p => movAdd s p 2 1
    | none => s
/-- CQ_HEAD_WRITE (R192). -/
def execCqHeadWrite (q : BitVec 12) (head : W32) (s : State) : Out := written s (cqHead s q.toNat head.toNat)

/-- A line in a partition's range that is not masked (R195, R198). -/
def lineLive (s : State) (l : Nat) : Bool := (plOwner s l).isSome && !(s.line l).stuck
/-- PACING_REQUEST (R196): the filtered level is 1 while the line is armed. -/
def execPacingRequest (l : Byte) (s : State) : Out := happens (lineLive s l.toNat && (s.line l.toNat).armed) s (pacingRequest s l.toNat)
/-- OVERRUN (R197): a rise of the filtered level while the line is disarmed. -/
def overrun (s : State) (l : Nat) : State := s.setLine l { s.line l with level := true, overrun := satAdd 16 (s.line l).overrun 1, since := if (s.line l).level then (s.line l).since else s.now }
/-- OVERRUN (R197). -/
def execOverrun (l : Byte) (s : State) : Out := happens (lineLive s l.toNat && !(s.line l.toNat).armed) s (overrun s l.toNat)
/-- The level has been 1 for STUCK_US with no paced burst waiting (R198). -/
def lineStuck (s : State) (l : Nat) : Bool := lineLive s l && (s.line l).level && pacedOn s l = [] && stuckNs s ≤ s.now - (s.line l).since && !frozen s
/-- PL_STUCK (R198). -/
def execPlStuck (l : Byte) (s : State) : Out := happens (lineStuck s l.toNat) s (maskLine s l.toNat ((plOwner s l.toNat).getD 0) 0)
/-- PAIR_CHECK (R271). -/
def execPairCheck (l : Byte) (s : State) : Out := happens (lineLive s l.toNat) s (maskLine s l.toNat ((plOwner s l.toNat).getD 0) 1)
/-- Writing 1 to STUCK (R198). -/
def stuckClear (s : State) (l : Nat) : State := if (s.line l).stuck then s.setLine l { s.line l with stuck := false, armed := true, level := false, since := s.now } else s
/-- STUCK_CLEAR (R198). -/
def execStuckClear (l : Byte) (s : State) : Out := written s (stuckClear s l.toNat)

/-- CLUSTER_HUNG (R207 steps 1 and 2). -/
def execClusterHung (k : BitVec 3) (s : State) : Out := happens (clusterHung s k.toNat) s (quiesce s k.toNat)
/-- ORPHAN_TAGS (R207 steps 3 to 6). -/
def execOrphanTags (k : BitVec 3) (s : State) : Out := happens (orphansDue s k.toNat) s (orphanCluster s k.toNat)

end Sys2Proof.Machine
end

