-- ==== Sys2Proof/Machine/ExecContext.lean ====
section
/-!
DEFINITION. Commands of 02, 01 and 04 about contexts: doorbells, the sequencers' choice, the Ladle, the watchdogs, the ager.
-/

namespace Sys2Proof.Machine

/-- A write of PRG_CTX_DOORBELL with a valid CMD (R50). -/
def ring (s : State) (c : BitVec 8) (cmd : Nat) (slot : BitVec 1) (tag : BitVec 24) : State := doorbell s c.toNat ⟨cmd, slot.toNat, tag.toNat⟩

/-- LOAD (R44, R50). -/
def execLoad (c : BitVec 8) (slot : BitVec 1) (tag : BitVec 24) (s : State) : Out := written s (ring s c 1 slot tag)
/-- START (R48, R50). -/
def execStart (c : BitVec 8) (slot : BitVec 1) (tag : BitVec 24) (s : State) : Out := written s (ring s c 2 slot tag)
/-- STOP in DRAIN mode (R47, R50). -/
def execStopDrain (c : BitVec 8) (slot : BitVec 1) (tag : BitVec 24) (s : State) : Out := written s (ring s c 3 slot tag)
/-- STOP in ABORT mode (R47, R50). -/
def execStopAbort (c : BitVec 8) (slot : BitVec 1) (tag : BitVec 24) (s : State) : Out := written s (ring s c 4 slot tag)
/-- RESUME (R48, R50). -/
def execResume (c : BitVec 8) (slot : BitVec 1) (tag : BitVec 24) (s : State) : Out := written s (ring s c 5 slot tag)
/-- RESET (R50, R53). -/
def execReset (c : BitVec 8) (slot : BitVec 1) (tag : BitVec 24) (s : State) : Out := written s (ring s c 6 slot tag)
/-- UNLOAD (R50, R52). -/
def execUnload (c : BitVec 8) (slot : BitVec 1) (tag : BitVec 24) (s : State) : Out := written s (ring s c 7 slot tag)

/-- The copy of a plan image is complete on both sides (R44, R190). -/
def planCopied (s : State) (c i : Nat) : Option State :=
  match planOp s c i with
  | some o =>
    match o.kind with
    | .plan c' sl h src len hdr => if o.phase = .running ∧ xferDone s o then some (planDone s o c' sl h src len hdr) else none
    | _ => none
  | none => none
/-- PLAN_LOAD_DONE (R44). -/
def execPlanLoadDone (c : BitVec 8) (slot : BitVec 1) (s : State) : Out := arises s (planCopied s c.toNat slot.toNat)

/-- The sequencer is at an instruction boundary: no miss holds it (R40, R77). -/
def seqFree (s : State) (q : Nat) : Bool := match (s.seq q).ctx with
  | some c => !midInstr s c
  | none => true
/-- The choice of R38 at a sequencer: the context that takes it; with none to take it, one that may not stay lets it go, and it is idle. -/
def switchAt (s : State) (q : Nat) : Option State :=
  match pick s q, (s.seq q).ctx with
  | some d, some c => some (enterSeq (if mayStay s q c then s else letGo s q) q d)
  | some d, none => some (enterSeq s q d)
  | none, some c => if mayStay s q c then none else some (letGo s q)
  | none, none => none
/-- CONTEXT_SWITCH (R38 to R40). The 10 clocks it takes are not modelled. -/
def execContextSwitch (q : BitVec 4) (s : State) : Out := arises s (if frozen s ∨ !seqFree s q.toNat then none else switchAt s q.toNat)

/-- LADLE_ISSUE (R85, R113, R114): at most 256 FETCHes of a context are ahead. -/
def execLadleIssue (c : BitVec 8) (s : State) : Out :=
  let v := s.ctx c.toNat
  happens (v.st = .active && lookahead s (ctxPart s c.toNat) ≠ 0 && v.ahead.length < 256) s (ladleRun s c.toNat)

/-- A context's wait has lasted longer than its watchdog period (R66); a hard stop freezes the timer (R307). -/
def watchdogDue (s : State) (c : Nat) : Bool :=
  let v := s.ctx c
  v.st = .active && v.waitKind ≠ 0 && ctxWdog s c < s.now - v.wstart - v.wfrozen && !frozen s
/-- WATCHDOG (R66). -/
def execWatchdog (c : BitVec 8) (s : State) : Out := happens (watchdogDue s c.toNat) s (watchdogFires s c.toNat)

/-- The context that issued the operation a seal belongs to (R21). -/
def sealCtx (s : State) (x : Nat) : Nat := match (s.obj x).sealReq with
  | some r => (match r.who with
    | .ctx c => c
    | _ => (s.obj x).ctx)
  | none => (s.obj x).ctx
/-- A seal has waited for space past the watchdog period, counted from the first failed second pass (R21). -/
def sealOverdue (s : State) (x : Nat) : Bool :=
  !frozen s && match (s.obj x).sealWait with
  | some t => ctxWdog s (sealCtx s x) < s.now - t
  | none => false
/-- SEAL_WATCHDOG (R21). -/
def execSealWatchdog (x : BitVec 21) (s : State) : Out := happens (sealOverdue s x.toNat) s (failSeal s x.toNat 0x3F)

/-- The ager at an entry (R28). -/
def ager (s : State) (x : Nat) : State := if ageOf s (s.obj x) = 65535 then s.modObj x fun o => { o with ageSat := true } else s
/-- AGER_VISIT (R28). -/
def execAgerVisit (x : BitVec 21) (s : State) : Out := happens ((s.obj x.toNat).st ≠ .free) s (ager s x.toNat)

end Sys2Proof.Machine
end

