-- ==== Sys2Proof/Machine/Host.lean ====
section
/-!
DEFINITION. The host link (R274 to R284): address translation, page faults, snoops, detach and reattach; supply droop (R285).
-/

namespace Sys2Proof.Machine

/-- A translation enters the cache of 8,194 entries, most recent first (R276); it covers 2^log pages of 4 KiB, at most 1 GiB. -/
def atsAdd (l : List (Nat × Nat × Nat)) (e : Nat × Nat × Nat) : List (Nat × Nat × Nat) := (e :: l.filter fun f => f ≠ e).take 8194

/-- The burst waits for a page (R276). -/
def onPage (s : State) (p page : Nat) (b : Burst) : Bool := b.tier = 3 && b.off / 4096 = page && !translated s p b.off
def needsPage (s : State) (p page : Nat) (o : Op) : Bool := o.req.part = p && (nextBursts o).any (onPage s p page)

/-- The translation of an operation's page failed (R205). An operation under way halts with the page, its saved position no higher than the burst that needed it: an object move
parks, a host-mode channel halts; the read of a watch sample fails (R339). One that is ending, or parked on another page, makes that burst no more. -/
def haltPage (s : State) (page : Nat) (o : Op) : State :=
  let low := ((nextBursts o).filter fun b => onPage s o.req.part page b && !b.rb && !b.ax).map fun b => b.pos
  let o := { o with x := { o.x with fault := low.foldl (fun m k => some (min (m.getD k) k)) o.x.fault } }
  match o.phase with
  | .running =>
    let s := movAdd s o.req.part 4 1
    match o.kind with
    | .watch t _ => watchSkip (s.setOp o) o t
    | .desc ch _ _ _ =>
      let s := (s.setOp { o with phase := .parked, parkedPage := some page }).modChan ch fun v => { v with st := if v.st = 1 ∨ v.st = 2 then 3 else v.st }
      raiseEv s o.req.part 2 ch [(0x23, page * 4096 % 2 ^ 32)]
    | _ =>
      let s := parkMove s { o with parkedPage := some page }
      match o.chan with
      | some ch => raiseEv s o.req.part 2 ch [(0x23, page * 4096 % 2 ^ 32)]
      | none => raiseEv s o.req.part (partyKind o.req.who) (partyNum o.req.who) [(0x23, page * 4096 % 2 ^ 32)]
  | .ending => (s.setOp { o with parkedPage := some page }).todo (.tryOp o.id)
  | _ => s.setOp o

/-- Page requests outstanding block-wide: at most 256, the others wait (R276). -/
def priLimit : Nat := 256

/-- An ATS completion (R276): the translation, or a page request for the page. -/
def atsDone (s : State) (p page : Nat) (perm : Option Nat) : State :=
  let a := s.hostl.ats
  let a := { a with asked := a.asked.filter fun e => e ≠ (p, page) }
  match perm with
  | some log => { s with hostl := { s.hostl with ats := { a with cache := atsAdd a.cache (p, page, min log 18) } } }
  | none =>
    let hit := s.ops.filter (needsPage s p page)
    let sent := a.pri.length < priLimit
    let s := { s with hostl := { s.hostl with ats := { a with pri := a.pri ++ [(p, page)], pageReqs := if sent then satAdd 64 a.pageReqs 1 else a.pageReqs } } }
    hit.foldl (haltPage · page ·) s

/-- Operations parked on a page. -/
def parkedOn (s : State) (p page : Nat) : List Op := s.ops.filter fun o => o.req.part = p && o.phase = .parked && o.parkedPage = some page

/-- An operation on a page that stays away ends with HOST_PAGE_FAULT (R205). A descriptor's COUNT is LEN less its saved position. -/
def pageGone (s : State) (o : Op) : State :=
  let s := movAdd s o.req.part 5 1
  match o.kind with
  | .move x _ _ _ => stopMove s o x 0x11
  | .desc ch _ _ _ => stopOp (s.modChan ch fun v => { v with st := if v.st = 3 then 1 else v.st }) o 0x11
  | .digest h v => digestDone s { o with x := { o.x with bad := 0x11 } } h v
  | .recipe r => failRecipe s o r 0x11 false
  | .fwCopy _ _ => s.setOp { o with phase := .ending, endStatus := 0x11 }
  | .watch t _ => watchSkip s o t
  | _ => stopOp s o 0x11

/-- A channel whose next descriptor lies on such a page cannot read it: its chain ends with HOST_PAGE_FAULT (R189, R276, log entry 159). -/
def chanPageGone (s : State) (p page : Nat) : State :=
  s.chans.foldl (fun s e => match e.2.next with
    | some a =>
      if e.2.hostq ∧ e.2.running ∧ e.2.part = p ∧ tqaTier a = 3 ∧ tqaOff a / 4096 = page ∧ !translated s p (tqaOff a) then
        (descRecord (movAdd (endChain s e.1) p 5 1) e.1 4 0x11 0 e.2.pos 0 0 {}).todo (.chanCheck e.1)
      else s
    | none => s) s

/-- A halted operation goes on (RESUME). -/
def resumeOp (s : State) (o : Op) : State :=
  let s := match o.kind with
    | .desc ch _ _ _ => (s.modChan ch fun v => { v with st := if v.st = 3 then 1 else v.st }).todo (.chanCheck ch)
    | _ => s
  unpark s o

/-- A PRI response (R205, R276): 0 Success, any other code a failure. -/
def pageResp (s : State) (p page code : Nat) : State :=
  let a := s.hostl.ats
  let next := (a.pri.drop priLimit).length
  let a := { a with pri := a.pri.filter (fun e => e ≠ (p, page)), pageReqs := if 0 < next then satAdd 64 a.pageReqs 1 else a.pageReqs, failures := if code = 0 then a.failures else satAdd 64 a.failures 1 }
  let l := parkedOn s p page
  let s := { s with hostl := { s.hostl with ats := a } }
  if code = 0 then l.foldl resumeOp (askPage s p (page * 4096)) else l.foldl pageGone (chanPageGone s p page)

/-- A burst in flight uses a range of partition p's pages. -/
def inRange (s : State) (p page pages : Nat) : Bool :=
  s.tags.any fun t => t.tier = 3 && !t.orphan && page ≤ t.addr / 4096 && t.addr / 4096 < page + pages && match s.op t.op with
    | some o => o.req.part = p
    | none => false
/-- Invalidation Requests that no burst holds up any more are completed. -/
def invalDone (s : State) : State :=
  if s.hostl.ats.inval = [] then s else { s with hostl := { s.hostl with ats := { s.hostl.ats with inval := s.hostl.ats.inval.filter fun e => inRange s e.1 e.2.1 e.2.2 } } }
/-- An Invalidation Request (R276): the range's translations are dropped and it takes no new use, until the bursts in flight that use it have ended and the request is completed. -/
def invalidate (s : State) (p page pages : Nat) : State :=
  let a := s.hostl.ats
  let hit := fun (e : Nat × Nat × Nat) => e.1 = p && e.2.1 / 2 ^ e.2.2 * 2 ^ e.2.2 < page + pages && page < (e.2.1 / 2 ^ e.2.2 + 1) * 2 ^ e.2.2
  invalDone { s with hostl := { s.hostl with ats := { a with cache := a.cache.filter fun e => !hit e, inval := a.inval ++ [(p, page, pages)], invals := satAdd 64 a.invals 1 } } }

/-- A host snoop (R275): SnpInv drops the block's copy of the line. -/
def snoopLine (s : State) (p line : Nat) (inv : Bool) : State := if inv then dropHostLines s p (line * 64) 64 else s

/-- A host link goes down (R282): the I/O port's detaches, the other port is retired. -/
def linkDown (s : State) (hp : Nat) : State :=
  let h := s.hostl
  let s := { s with hostl := if hp = 0 then { h with hp0mode := 0 } else { h with hp1mode := 0 } }
  if hp = h.ioPort then retryOps (detach s 0) else retirePort s (20 + hp) 0

/-- A host response is overdue (R282). -/
def hostOverdue (s : State) : Bool :=
  !s.hostl.detached && !frozen s && s.hostl.lastRsp + hostTmo s ≤ s.now && s.tags.any fun t => (t.port = 20 || t.port = 21) && !t.orphan && t.time + hostTmo s ≤ s.now

/-- Tags at the host ports 1 ms after the loss are orphaned (R283); what an operation that ends still owed there is given up. -/
def orphanHost (s : State) : State :=
  let hit := fun (t : Tag) => (t.port = 20 || t.port = 21) && !t.orphan
  let owners := (s.tags.filter hit).map fun t => t.op
  owners.dedup.foldl (fun s i => match s.op i with
    | some o => s.setOp { o with x := { o.x with lost := true, fault := (((s.tags.filter fun t => hit t && t.op = i && !t.rb && !t.ax).filterMap fun t => t.pos)).foldl (fun m k => some (min (m.getD k) k)) o.x.fault } }
    | none => s) { s with tags := s.tags.map fun t => if hit t then { t with orphan := true } else t }
def orphanDue (s : State) : Bool := s.hostl.detached && !frozen s && s.hostl.lostAt + 1000000 ≤ s.now && s.tags.any fun t => (t.port = 20 || t.port = 21) && !t.orphan

/-- The controller's reset completes (R283): orphaned tags of the host ports retire, and with them their quarantine. -/
def hostTagsGone (s : State) : State := stockpotMark { s with tags := s.tags.filter fun t => !((t.port = 20 ∨ t.port = 21) ∧ t.orphan) }

/-- Links that were down have trained: their modes are what the controllers report (Table 10.17). -/
def linksUp (s : State) (m0 m1 : Nat) : State :=
  { s with hostl := { s.hostl with hp0mode := if s.hostl.hp0mode = 0 then m0 else s.hostl.hp0mode, hp1mode := if s.hostl.hp1mode = 0 then m1 else s.hostl.hp1mode } }

/-- The link of the I/O port is up. -/
def ioUp (s : State) : Bool := (if s.hostl.ioPort = 0 then s.hostl.hp0mode else s.hostl.hp1mode) ≠ 0

/-- REATTACH (R281, R284). -/
def reattach (s : State) : State :=
  let h := s.hostl
  if !ioUp s then { s with hostl := { h with reatterr := true } }
  else if !h.detached then s
  else
    let s : State := { s with hostl := { h with detached := false, heldVecs := [] } }
    let s : State := { s with objs := s.objs.map fun (e : Nat × Obj) => if e.2.st = ObjSt.resident ∧ e.2.home = 3 then (e.1, { e.2 with revalidate := true }) else e }
    let s := s.chans.foldl (fun s e => if e.2.st = 3 then (s.setChan e.1 { e.2 with st := 1 }).todo (.chanCheck e.1) else s) s
    let s := (s.ops.filter fun o => o.phase = .parked).foldl resumeOp s
    let s := cqDrainAll s
    let s := (List.range 17).foldl (fun s q => evDrain 128 s q) s
    let s := logDrain logBufSize s
    let s := h.heldVecs.foldl vecIsDue s
    retryOps (evGP s 0 0 0x31 0)

/-- An edge of mp_droop_n (R285): the onset of a droop, or its end, from which the hold that follows counts. -/
def droopEdge (s : State) : State :=
  if s.droopLow then { s with droopLow := false, droopAt := s.now } else { s with droops := satAdd 16 s.droops 1, droopOn := true, droopLow := true }

end Sys2Proof.Machine
end

