-- ==== Sys2Proof/Machine/Firmware.lean ====
section
/-!
DEFINITION. The firmware complex (chapter 11): cores and their restarts, images and acceptance, lock leases, the log unit, calibration, throttling, negotiation.
-/

namespace Sys2Proof.Machine

/-- A flag of PRG_FW_EVENT sets, and the event of its name is posted (Table 11.13). -/
def fwFlag (s : State) (bit code kind id arg : Nat) : State := evG { s with fw := { s.fw with event := s.fw.event ||| 2 ^ bit } } kind id code arg
def ctlErr (s : State) : State := fwFlag s 8 0x2B 0 0 0
def updErr (s : State) : State := fwFlag s 9 0x29 0 0 0
/-- Writes of the write queue are lost (R295, R302). -/
def loseWrites (s : State) (n : Nat) : State := fwFlag s 4 0x26 0 0 n

/-- The image in a slot: 0 A, 1 B. -/
def image (s : State) (slot : Nat) : Option FwImage := if slot = 0 then s.fw.imgA else s.fw.imgB
def setImage (s : State) (slot : Nat) (im : Option FwImage) : State :=
  { s with fw := if slot = 0 then { s.fw with imgA := im, okA := false } else { s.fw with imgB := im, okB := false } }
def slotOk (s : State) (slot : Nat) : Bool := if slot = 0 then s.fw.okA else s.fw.okB
def otherSlot (s : State) : Nat := 1 - s.fw.slot
/-- The image that runs. -/
def runImage (s : State) : Option FwImage := if s.fw.st = 0 then none else image s s.fw.slot

/-- An image's header and signature pass (R300, R315, Table 11.3). -/
def imageOk (im : FwImage) : Bool := im.magic = 0x46574D42 && im.rsvZero && im.len.toNat ≤ 4194304 && im.sigOk
/-- The features an image offers: those marked hardware always, bit 2 and the reserved ones never (R303). -/
def offerOf (im : FwImage) : Nat := (im.offer.toNat ||| 0x84DB) &&& 0xFFFB

/-- SHADOW (R295): the scheduler core is not running, its image is not accepted, or the settings are being replaced (R302). -/
def shadow (s : State) : Bool := !(s.core 2).up || !s.fw.accepted || s.fw.fbAt.isSome

/-- ACCEPT_MS in ns, and FALLBACK_EN (Table 11.11). -/
def acceptNs (s : State) : Nat := max 1 (bitsOf (reg s 0xE0020) 15 0) * 1000000
def fallbackEn (s : State) : Bool := bitOf (reg s 0xE0020) 24

/-- The locks of a core are free (R296, R298). -/
def freeLocks (s : State) (n : Nat) : State :=
  { s with fw := { s.fw with locks := s.fw.locks.map fun (e : Nat × Lock) => if e.2.holder = some n then (e.1, { e.2 with holder := none }) else e } }

/-- A core is held in reset (R296): its cause and restarts are noted, its locks are free, its data memory is wiped, its protection regions are no longer locked. `recent` holds the times of its restarts of the last 10 s. -/
def coreDown (s : State) (n cause : Nat) (recent : List Nat) : State :=
  let v := s.core n
  fwFlag (freeLocks (s.setCore n { v with up := false, cause := cause, restarts := satAdd 16 v.restarts 1, recent := recent, dmem := [], regions := [], lost := none }) n) 0 0x1E 6 n cause

/-- The firmware cores. -/
def coreCount : Nat := 11

/-- Where a core may write (Table 11.1). -/
def mayWrite (n : Nat) : MeetPoint → Bool
  | .keyStore | .aesSlots => n = 0
  | .throttleCal => n = 1 || n = 2
  | .cfgTables | .budgets | .taps => n = 2
  | .queues => 3 ≤ n
  | .fences => n = 0 || n = 2
/-- What a core did is a fault (R293): an address outside its regions, a meeting point that is not its own, an error of its memories. -/
def coreFaults (s : State) (n : Nat) : CoreFault → Bool
  | .memErr => true
  | .access a => !(s.core n).regions.any fun r => r.1 ≤ a.toNat && a.toNat < r.1 + r.2
  | .point p => !mayWrite n p

/-- A core starts (R292, R296): its memories are loaded from the running image, which sets its 16 regions, and it joins through the mailbox. -/
def startCore (s : State) (n : Nat) : State :=
  let body := (runImage s).elim [] fun im => im.body
  let s := s.setCore n { s.core n with up := true, imem := Config.coreCode n body, dmem := Config.coreData n body, regions := (Config.coreRegions n body).take 16, started := s.now }
  { s.tick with fw := { s.tick.fw with mailbox := (Config.mailbox s.free).take 65536 } }

/-- The complex starts an image slot (R297, R301); an image staged in the other slot stays staged: until a partition has negotiated, its AGREED mask is the new image's OFFER (R303). -/
def startSlot (s : State) (slot : Nat) (back : Bool) : State :=
  let s := { s with fw := { s.fw with st := 2, slot := slot, accepted := false, started := s.now, fellBack := back, staged := s.fw.staged && slot = s.fw.slot, fbAt := none } }
  match image s slot with
  | some im => (List.range 16).foldl (fun s p => if (s.part p).negotiated then s else s.modPart p fun v => { v with agreed := offerOf im }) s
  | none => s
/-- The whole complex restarts from a slot (R297). -/
def complexRestart (s : State) (slot : Nat) (back : Bool) : State := startSlot ((List.range coreCount).foldl (fun s n => coreDown s n 5 []) s) slot back

/-- ROLLBACK (R297, R301): the failed slot is named. -/
def rollback (s : State) (back : Bool) : State := complexRestart (fwFlag s 1 7 0 0 s.fw.slot) (otherSlot s) back

/-- A core restarts alone; with the third restart within 10 s the complex restarts, from the other slot where that has passed acceptance (R296, R297). -/
def restartCore (s : State) (n cause : Nat) : State :=
  let recent := s.now :: (s.core n).recent.filter fun t => s.now - t < 10000000000
  let s := coreDown s n cause recent
  if recent.length < 3 then s
  else if slotOk s (otherSlot s) then rollback s false else complexRestart s s.fw.slot false

/-- R301: the settings tag, and the features and interface versions that partitions have negotiated. -/
def tagOk (s : State) (im : FwImage) : Bool := im.setMin.toNat ≤ s.fw.setver && s.fw.setver ≤ im.setMax.toNat
def agreedOk (s : State) (im : FwImage) : Bool :=
  (List.range 16).all fun p =>
    let v := s.part p
    !v.negotiated || (v.agreed ||| offerOf im = offerOf im && im.ifMin.toNat ≤ v.ifver && v.ifver ≤ im.ifMax.toNat)
def startable (s : State) : Bool := match image s s.fw.slot with
  | some im => imageOk im && (tagOk s im || fallbackEn s) && agreedOk s im
  | none => false

/-- The running image is accepted (R301). One accepted through FALLBACK_EN first disables every enabled partition (R302 step 1). -/
def acceptImage (s : State) : State :=
  let slot := s.fw.slot
  let tag := match image s slot with
    | some im => tagOk s im
    | none => true
  let s := { s with fw := { s.fw with accepted := true, st := 1, fellBack := false, lastOk := some slot, okA := s.fw.okA || slot = 0, okB := s.fw.okB || slot = 1, fbAt := if tag then none else some s.now } }
  if tag then s else (List.range 16).foldl (fun s p => if (s.part p).st = 0 then partDisable s p false else s) s

/-- Recovery (R299): no core but the security core's ROM runs. -/
def recovery (s : State) : State := { s with fw := { s.fw with st := 3, accepted := false, cores := s.fw.cores.map fun (e : Nat × Core) => (e.1, { e.2 with up := false }) } }
/-- The running image is not accepted (R301): its slot is marked, the other slot starts, or recovery begins. -/
def rejectImage (s : State) : State :=
  let slot := s.fw.slot
  let s := { s with fw := if slot = 0 then { s.fw with okA := false } else { s.fw with okB := false } }
  if s.fw.fellBack ∨ (image s (otherSlot s)).isNone then recovery s else rollback s true

/-- The settings of R302 are replaced once every partition is DISABLED; those that are not after ACCEPT_MS are aborted. -/
def fbDue (s : State) : Bool := s.fw.fbAt.isSome && (List.range 16).all fun p => (s.part p).st = 3
def fbEscalate (s : State) : State := match s.fw.fbAt with
  | some t => if t + acceptNs s ≤ s.now then (List.range 16).foldl (fun s p => if (s.part p).st = 1 then partDisable s p true else s) s else s
  | none => s

/-- Lock leases (R298): 10 ms. -/
def leaseNs : Nat := 10000000
def leaseOver (s : State) (l : Nat) : Bool := (s.lock l).holder.isSome && (s.lock l).expires ≤ s.now
/-- A lease expires: the lock is free, and the event names its former holder. -/
def leaseExpire (s : State) (l : Nat) : State :=
  let v := s.lock l
  fwFlag (s.setLock l { v with holder := none, expiries := satAdd 32 v.expiries 1 }) 3 0x25 13 l (v.holder.getD 15)
/-- A free lock is acquired, by the lowest core that writes it; the write of another core to a held lock does nothing. -/
def lockTake (s : State) (l : Nat) (cores : List Nat) : State :=
  let s := if leaseOver s l then leaseExpire s l else s
  match cores with
  | n :: _ => if (s.lock l).holder.isNone then s.setLock l { s.lock l with holder := some n, expires := s.now + leaseNs } else s
  | [] => s
/-- The holder renews or releases; a lease that ends in the same clock is lost, and so is one that ended before: that is reported to the core. -/
def lockAgain (s : State) (l core : Nat) (release : Bool) : State :=
  let t := if leaseOver s l then leaseExpire s l else s
  if (t.lock l).holder = some core then
    let t := t.setCore core { t.core core with lost := none }
    t.setLock l (if release then { t.lock l with holder := none } else { t.lock l with expires := t.now + leaseNs })
  else t.setCore core { t.core core with lost := some l }

/-- A log record is written (R305), by severity, MINSEV and PRG_TRACE_EN. -/
def logWanted (s : State) (sev code : Nat) : Bool :=
  let m := bitsOf (reg s 0xE0208) 9 8
  sev ≤ 1 || (sev = 2 && 2 ≤ m) || (sev = 3 && m = 3 && code < 10 && bitOf (reg s 0xE0210) code)
/-- Table 11.5. The record takes its number whether or not the buffer has room. -/
def logRecord (s : State) (sev core code a0 a1 : Nat) : State :=
  if !logWanted s sev code then s
  else
    let f := s.fw
    let r := pack [(0, 8, sev), (8, 8, core), (16, 16, code), (32, 32, f.logSeq), (64, 64, s.now), (128, 64, a0), (192, 64, a1)]
    let f := { f with logSeq := (f.logSeq + 1) % 2 ^ 32 }
    if f.logBuf.length < logBufSize then logDrain logBufSize { s with fw := { f with logBuf := f.logBuf ++ [r] } }
    else { s with fw := { f with logDrop := satAdd 32 f.logDrop 1 } }

/-- A signed field of 16 bits. -/
def sgn16 (v : Nat) : Int := if v % 65536 < 32768 then (v % 65536 : Nat) else (v % 65536 : Nat) - 65536
/-- The value in effect of a calibration entry (R308): the factory value with the user offset in force. -/
def calNow (s : State) (e : Nat) : Int := Config.calFactory e + sgn16 (regNow s (0xE0440 + 4 * e))
/-- The effective ceiling of core_clk in MHz (R306). -/
def clkCeil (s : State) : Nat := (calNow s 10).toNat
/-- Registers that the power-and-timing core applies. -/
def calReg (k : Nat) : Bool := 0xE0300 ≤ k && k < 0xE0480
/-- The power-and-timing core applies the user offsets and the frequency request; while it is down they wait (Table 11.2). -/
def calApply (s : State) : State :=
  if (s.core 1).up then
    let s := { s with inForce := s.cfg.foldl (fun (t : Tbl W64) (e : Nat × W64) => if calReg e.1 then tset t e.1 e.2 else t) (s.inForce.filter fun e => !calReg e.1) }
    { s with fw := { s.fw with reqMhz := min (bitsOf (reg s 0xE0300) 11 0) (clkCeil s) } }
  else s
/-- A user offset within its bounds (R308); the flag tells that it was clamped. -/
def calClamp (e v : Nat) : Nat × Bool :=
  let b := Config.calBounds e
  let u := sgn16 v
  let w := if u < b.1 then b.1 else if b.2 < u then b.2 else u
  ((w % 65536).toNat, w ≠ u)

/-- Sensors that count for the hottest reading (R323, Table 12.7). -/
def goodSensors (s : State) : List Nat := (List.range 8).filter fun n => bitOf s.bist.sensors n && !underTest s 8 n
/-- The hottest corrected reading; what it was where no sensor counts. -/
def hottest (s : State) (raw : List Int) : Int :=
  match (goodSensors s).map fun n => raw.getD n 0 + calNow s n with
  | [] => s.fw.temp
  | t :: r => r.foldl max t

/-- The throttle level for a temperature (R307, Table 11.8). While the power-and-timing core is down levels 1 and 2 have no hysteresis. -/
def levelFor (s : State) (t : Int) : Nat :=
  let thr := calNow s 8
  let stop := calNow s 9
  let old := s.fw.level
  let hyst : Int := if (s.core 1).up then 32 else 0
  let at' := fun (k : Nat) (h : Int) => h ≤ t || (k ≤ old && h - hyst < t)
  let l := if stop ≤ t ∨ (old = 3 ∧ stop - 160 ≤ t) then 3 else if at' 2 (thr + 64) then 2 else if at' 1 thr then 1 else 0
  if ((List.range 8).filter fun n => bitOf s.bist.sensors n).length < 2 then max 1 l else l

/-- A time that a hard stop froze goes on from its value (R307). -/
def thawed (stop now t : Nat) : Nat := if t ≤ stop then t + (now - stop) else now
/-- The hard stop is left: the timers that measure the block's own traffic go on (R307). -/
def thaw (s : State) : State :=
  let f := thawed s.fw.stopAt s.now
  { s with
    ctxs := s.ctxs.map fun (e : Nat × Ctx) => if e.2.waitKind = 0 then e else (e.1, { e.2 with wfrozen := e.2.wfrozen + (s.now - max s.fw.stopAt e.2.wstart) }),
    lines := s.lines.map fun (e : Nat × Line) => (e.1, { e.2 with since := f e.2.since }),
    clus := s.clus.map fun (e : Nat × Clus) => (e.1, { e.2 with since := f e.2.since }),
    ports := s.ports.map fun (e : Nat × Port) => (e.1, { e.2 with since := e.2.since.map f }),
    cqTags := s.cqTags.map fun e => (e.1, (e.2.1, f e.2.2)),
    tags := s.tags.map fun t => { t with time := f t.time },
    streams := s.streams.map fun (e : Nat × Stream) => (e.1, { e.2 with progress := f e.2.progress }),
    objs := s.objs.map fun (e : Nat × Obj) => (e.1, { e.2 with sealWait := e.2.sealWait.map f }),
    ops := s.ops.map fun o => match o.kind with
      | .recipe r => { o with kind := .recipe { r with waitedInput := r.waitedInput.map f } }
      | _ => o,
    hostl := { s.hostl with lostAt := f s.hostl.lostAt, lastRsp := f s.hostl.lastRsp } }

/-- THROTTLE_LEVEL (R307): a reading of the sensors, in 1/16 °C. -/
def throttle (s : State) (raw : List Int) : State :=
  let t := hottest s raw
  let old := s.fw.level
  let l := levelFor s t
  let f := { s.fw with temp := t, level := l, onsets := if old = 0 ∧ l ≠ 0 then satAdd 16 s.fw.onsets 1 else s.fw.onsets }
  if l = 3 ∧ old ≠ 3 then
    fwFlag { s with fw := { f with stops := satAdd 16 f.stops 1, stopAt := s.now } } 6 1 0 0 (t % 2 ^ 32).toNat
  else if l ≠ 3 ∧ old = 3 then retryOps (thaw { s with fw := f })
  else { s with fw := f }

/-- FREQUENCY_CHECK (R306): the measured frequency with the monitor's trim; without a usable monitor it is judged against the fused ceiling less 5% (Table 12.7). -/
def freqCheck (s : State) (mhz : Nat) : State :=
  let ppm := 1000000 + (calNow s 11).toNat
  let m := mhz * ppm / 1000000
  let ceil := if s.bist.clk then clkCeil s else (Config.calFactory 10).toNat * 95 / 100
  let fast := ceil * 1005 * 1000000 < mhz * ppm * 1000
  let s' := { s with fw := { s.fw with mhz := m, overclk := fast } }
  if fast ∧ !(s.fw.overclk && bitOf s.fw.event 5) then fwFlag s' 5 0x27 0 0 m else s'

/-- Plans of a partition's contexts, valid or loading, ask for a feature outside a mask (R304). -/
def plansOutside (s : State) (p mask : Nat) : Bool :=
  (partCtxs s p).any fun c => [(s.ctx c).slot0, (s.ctx c).slot1].any fun v => (v.valid || v.loading.isSome) && v.features ||| mask ≠ mask

/-- The cause of a refused negotiation, 0 for none (R304). -/
def negCause (s : State) (p w : Nat) (im : FwImage) : Nat :=
  let ifv := min (bitsOf w 47 40) im.ifMax.toNat
  let offer := offerOf im
  let want := (bitsOf w 15 0 ||| bitsOf w 31 16) &&& offer
  if ifv < bitsOf w 39 32 ∨ ifv < im.ifMin.toNat then 1
  else if bitsOf w 15 0 ||| offer ≠ offer then 2
  else if plansOutside s p want then 3 else 0

/-- A write of PRG_FW_NEG[p] (R304): the scheduler core answers a GO and clears it, and keeps what was agreed in a data page of its own. -/
def negotiate (s : State) (p w : Nat) : State :=
  let s := s.modPart p fun v => { v with neg := bitsOf w 47 0 }
  match bitOf w 48, runImage s with
  | true, some im =>
    let k := negCause s p w im
    if k ≠ 0 then
      raiseEv { s.modPart p (fun v => { v with negerr := k }) with fw := { s.fw with event := s.fw.event ||| 2 ^ 10 } } p 0 0 [(0x2A, k)]
    else
      let s := { s.tick with fw := { s.fw with pages := tset s.fw.pages p (Config.fwPage s.free) } }
      s.modPart p fun v => { v with agreed := (bitsOf w 15 0 ||| bitsOf w 31 16) &&& offerOf im, ifver := min (bitsOf w 47 40) im.ifMax.toNat, negerr := 0, negotiated := true }
  | _, _ => s

/-- An update's source lies in the T3 window of its partition and holds a header (R300, R322). -/
def updSrcOk (s : State) (p a len : Nat) : Bool := tqaTier a = 3 && 64 ≤ len && len ≤ 4194304 && inWindow s p a len

/-- UPDATE (R300): the image is copied into the slot that does not run, charged to MGMT of the partition named. -/
def update (s : State) : State :=
  let a := reg s 0xE0010
  let w := reg s 0xE0018
  let p := bitsOf w 27 24
  let len := bitsOf w 22 0
  if !(s.core 0).up ∨ s.fw.copying then ctlErr s
  else
    let s := { setImage s (otherSlot s) none with fw := { (setImage s (otherSlot s) none).fw with staged := false, lastOk := if s.fw.lastOk = some (otherSlot s) then some s.fw.slot else s.fw.lastOk } }
    if !updSrcOk s p a len then updErr (if inWindow s p a len then s else deny s p 6 0 a)
    else
      let o : Op := { id := 0, req := { part := p }, kind := .fwCopy a len, cls := 11, phase := .running, x := mkXfer [{ tier := 3, addr := tqaOff a, len := len }] [] }
      accept { s with fw := { s.fw with copying := true } } o false

/-- An image in memory (Table 11.3); the signature's verdict is the operand's. -/
def readImage (s : State) (p a len : Nat) (sigOk : Bool) : FwImage :=
  let n := fun off len => rdNumP s p (a + off) len
  { magic := BitVec.ofNat 32 (n 0 4), release := BitVec.ofNat 16 (n 4 2), ifMin := BitVec.ofNat 8 (n 6 1), ifMax := BitVec.ofNat 8 (n 7 1), setMin := BitVec.ofNat 8 (n 8 1),
    setMax := BitVec.ofNat 8 (n 9 1), setWrite := BitVec.ofNat 8 (n 10 1), len := BitVec.ofNat 32 (n 12 4), offer := BitVec.ofNat 64 (n 16 8), rsvZero := n 11 1 = 0 && n 24 40 = 0, sigOk := sigOk, body := rdP s p (a + 64) (len - 64) }

/-- The copy of an UPDATE and whether it has ended. -/
def updCopy (s : State) : Option (Op × Nat × Nat) := (s.ops.filterMap fun o => match o.kind with
  | .fwCopy a len => some (o, a, len)
  | _ => none).head?
def copyEnded (s : State) (o : Op) : Bool := (o.phase = .running && xferDone s o) || (o.phase = .ending && quiet s o.id)
/-- IMAGE_STAGED (R300): the checks of header and signature set STAGED, or UPDERR with the slot left empty. -/
def imageStaged (s : State) (o : Op) (a len : Nat) (sigOk : Bool) : State :=
  let im := readImage s o.req.part a len sigOk
  let s := { s.delOp o.id with fw := { s.fw with copying := false } }
  if o.phase = .ending ∨ plainStatus o ≠ 0 ∨ !imageOk im then updErr s
  else
    let s := setImage s (otherSlot s) (some im)
    { s with fw := { s.fw with staged := true } }

/-- SWITCH and DISCARD (R300). -/
def switchSlot (s : State) : State := if !(s.core 0).up ∨ !s.fw.staged then ctlErr s else complexRestart s (otherSlot s) false
def discard (s : State) : State :=
  if s.fw.staged then
    let s := setImage s (otherSlot s) none
    { s with fw := { s.fw with staged := false } }
  else s

/-- RESTART_CORE (R296): a core that is restarting is left alone. -/
def restartCmd (s : State) (n : Nat) : State := if coreCount ≤ n then s else if (s.core n).up then restartCore s n 4 else ctlErr s

end Sys2Proof.Machine
end

