-- ==== Sys2Proof/Machine/Lifecycle.lean ====
section
/-!
DEFINITION. Lifecycle (R310 to R313), the partitions' keys (R316, R317), and the loss of the supplies (R299, R310).
-/

namespace Sys2Proof.Machine

/-- A state bit read by majority of its three copies (R310). -/
def majority (w : Nat) : Bool := (bitOf w 0 && bitOf w 1) || (bitOf w 0 && bitOf w 2) || (bitOf w 1 && bitOf w 2)
/-- The lifecycle state of the fuses: 0 BLANK, 1 PROVISIONED, 2 USER, 3 RMA, 4 SCRAPPED. -/
def fusedState (l : Lc) : Nat :=
  if majority l.scrapped then 4 else if majority l.rmaBit then 3 else if majority l.userBit then 2 else if majority l.provisioned then 1 else 0

/-- A transition of Table 12.1. -/
def lcPermits (a b : Nat) : Bool := (b = a + 1 && b < 4) || (b = 4 && a ≠ 4)
def lcRefuse (s : State) (cause : Nat) : State := { s with lc := { s.lc with lcerr := true, cause := cause } }

/-- The security core takes a request (R310, R311): it is refused, or every partition is disabled. -/
def lcStart (s : State) (r : LcReq) : State :=
  let l := s.lc
  if !lcPermits l.inForce r.target ∨ (r.target = 4 ∧ !r.sigOk) then lcRefuse s 1
  else if !r.sigOk then lcRefuse s 2
  else if r.target = 3 ∧ r.ident ≠ l.ident then lcRefuse s 1
  else
    let s := { s with lc := { l with held := true, busy := some r.target, newIdent := r.ident } }
    (List.range 16).foldl (fun s p => partDisable s p true) s

/-- A record arrives through the lifecycle instrument (R310): a SCRAPPED block refuses it at the TAP (R314); one that finds the security core down or busy waits (Table 11.2). -/
def lcRequest (s : State) (r : LcReq) : State :=
  if s.lc.inForce = 4 then s
  else if !(s.core 0).up ∨ s.lc.busy.isSome then { s with lc := { s.lc with waiting := s.lc.waiting ++ [r] } }
  else lcStart s r

/-- The next record that waits is taken. -/
def lcNext (s : State) : State :=
  if !(s.core 0).up ∨ s.lc.busy.isSome then s
  else match s.lc.waiting with
    | [] => s
    | r :: l => lcStart { s with lc := { s.lc with waiting := l } } r

/-- mp_fuse_vpp_en rises once every partition is DISABLED (R311 step 2). -/
def lcAdvance (s : State) : State :=
  if s.lc.busy.isSome && !s.lc.vppEn && (s.core 0).up && (List.range 16).all (fun p => (s.part p).st = 3) then { s with lc := { s.lc with vppEn := true, vppAt := s.now } }
  else s

/-- The transition ends with vpp_en low. -/
def lcEnd (s : State) : State := lcNext { s with lc := { s.lc with vppEn := false, busy := none } }

/-- The key store is zeroed (R312). -/
def zeroKeys (s : State) : State :=
  (List.range 16).foldl (fun s p => if (s.part p).keyValid ∨ (s.part p).key ≠ 0 ∨ (s.part p).nonce ≠ 0 ∨ (s.part p).salt ≠ 0 then
    s.modPart p fun v => { v with keyValid := false, key := 0, salt := 0, nonce := 0 } else s) s

/-- The lifecycle wipe of Table 12.3: Stockpot, directory, context store, caches, recipe slots, history sets, rendezvous store, keys, and the cores' data memories. Bursts still out are orphaned. -/
def lcWipe (s : State) : State :=
  let s := zeroKeys s
  { s with
    mem := wrZero (wrZero s.mem 0 Config.t0Size) (tqa 1 0) Config.dirRegion,
    objs := [], dir := {}, runs := [], ctxs := [], seqs := [], icache := [], ops := [], slots := [], baseHeld := [], hsets := [], rdv := [], shares := [], storeq := [],
    tags := s.tags.map fun t => { t with orphan := true }, cqTags := [],
    sems := s.sems.map fun (e : Nat × Sem) => (e.1, { e.2 with q := [] }),
    rings := s.rings.map fun (e : Nat × Ring) => (e.1, { e.2 with popq := [], pushq := [] }),
    taps := s.taps.map fun (e : Nat × Tap) => (e.1, { e.2 with armed := false, due := 0 }),
    fw := { s.fw with mailbox := [], pages := [], cores := s.fw.cores.map fun (e : Nat × Core) => (e.1, { e.2 with dmem := [] }) },
    hostl := { s.hostl with lines := [], ats := { s.hostl.ats with cache := [], asked := [], pri := [] } } }

/-- The state bit and DUK_KILL are blown, the block is wiped (R311 steps 4 and 5). -/
def lcBlow (s : State) (target : Nat) : State :=
  let l := s.lc
  let l := match target with
    | 1 => { l with provisioned := 7, ident := l.newIdent, duk := Config.duk s.free }
    | 2 => { l with userBit := 7 }
    | 3 => { l with rmaBit := 7 }
    | _ => { l with scrapped := 7, dukKill := true }
  lcEnd (lcWipe { s.tick with lc := { l with pending := true } })

/-- The fill of R312 can reach all of T1 and T2. -/
def eraseReach (s : State) : Bool := livePorts s 1 ≠ [] && (s.t2Size = 0 || livePorts s 2 ≠ [])
def inCarrier (s : State) (a : Nat) : Bool := (tqa 1 0 ≤ a && a < tqa 1 s.t1Size) || (tqa 2 0 ≤ a && a < tqa 2 s.t2Size)
/-- VPP_OK (R311 steps 3 to 5, R312). -/
def vppOk (s : State) (eraseOk : Bool) : State :=
  match s.lc.busy with
  | some 3 =>
    let s := zeroKeys { s with lc := { s.lc with dukKill := true } }
    if eraseOk ∧ eraseReach s then lcBlow { s with mem := wrZero (wrZero s.mem (tqa 1 0) s.t1Size) (tqa 2 0) s.t2Size } 3
    else lcEnd (lcRefuse { s.tick with mem := s.mem.filter fun c => !inCarrier s c.1 || Config.eraseKeeps s.free c.1 } 4)
  | some t => lcBlow s t
  | none => s

/-- The programming supply is lost (R311): `killed` tells that DUK_KILL had been blown and read back. No key is usable then. -/
def vppLoss (s : State) (killed : Bool) : State :=
  let kills := killed && (s.lc.busy = some 3 || s.lc.busy = some 4)
  let s := if kills then zeroKeys { s with lc := { s.lc with dukKill := true } } else s
  lcEnd (lcRefuse s 3)
/-- mp_fuse_vpp_ok has not risen within 100 µs (R311 step 2). -/
def vppLate (s : State) : Bool := s.lc.busy.isSome && s.lc.vppEn && s.lc.vppAt + 100000 ≤ s.now

/-- The supplies fail (R299, R310): the image store and everything volatile is lost, a fuse that was being blown is in its old or its new state. What lies in T1 to T3 is the
carrier's and the host's. -/
def supplyFail (s : State) : State :=
  let l := s.lc
  let blown := l.vppEn && Config.fuseLoss s.free
  let killed := l.vppEn && (l.busy = some 3 || l.busy = some 4) && (blown || Config.fuseLoss (s.free + 1))
  let f := fun (t old : Nat) => if blown ∧ l.busy = some t then 7 else old
  { State.reset with
    pending := s.pending, free := s.free + 2, mem := s.mem,
    lc := { provisioned := f 1 l.provisioned, userBit := f 2 l.userBit, rmaBit := f 3 l.rmaBit, scrapped := f 4 l.scrapped, dukKill := l.dukKill || killed,
            ident := if blown ∧ l.busy = some 1 then l.newIdent else l.ident, duk := if blown ∧ l.busy = some 1 then Config.duk s.free else l.duk } }

/-- The DUK as the security core reads it (R312). -/
def dukNow (s : State) : BitVec 256 := if s.lc.dukKill then 0 else s.lc.duk

/-- The cause that refuses a key command, 0 for none (R317). -/
def keyCause (s : State) (p : Nat) : Nat :=
  if s.lc.inForce ≠ 2 then 1
  else if s.objs.any (fun e => e.2.st ≠ .free && e.2.part = p && e.2.prot) then 2
  else if s.lc.keyBusy.isSome ∨ s.lc.rmBusy.isSome then 4 else 0
def keyRefuse (s : State) (cause : Nat) : State := { s with lc := { s.lc with keyerr := true, keyCause := cause } }
/-- REMOVE zeroes the key and clears VALID. -/
def removeKey (s : State) (p : Nat) : State := { s.modPart p fun v => { v with keyValid := false, key := 0 } with lc := { s.lc with rmBusy := none } }
/-- PRG_KEY_CTL (R317): an INSTALL is BUSY until KEY_COMMAND_DONE; while the security core restarts commands wait (Table 11.2). -/
def keyCommand (s : State) (cmd p : Nat) : State :=
  if cmd ≠ 1 ∧ cmd ≠ 2 then s
  else if keyCause s p ≠ 0 then keyRefuse s (keyCause s p)
  else if cmd = 1 then { s with lc := { s.lc with keyBusy := some p } }
  else if (s.core 0).up then removeKey s p
  else { s with lc := { s.lc with rmBusy := some p } }

/-- Words of PRG_KEY_XFER as a number. -/
def xferWords (s : State) (lo n : Nat) : Nat := (List.range n).foldl (fun a i => a + (tget s.keyXfer (lo + i) 0).toNat * 2 ^ (64 * i)) 0
/-- KEY_COMMAND_DONE (R317): the key is unwrapped and stored under a fresh salt with the nonce at zero and a new KEYGEN. -/
def keyDone (s : State) (p : Nat) (salt : W128) : State :=
  let s' := { s with lc := { s.lc with keyBusy := none } }
  match Config.keyUnwrap (dukNow s) s.lc.ident p (xferWords s 0 12) (xferWords s 12 5) with
  | none => keyRefuse s' 3
  | some k =>
    let s' := s'.modPart p fun v => { v with key := k, keyValid := true, salt := salt, nonce := 0, keygen := (v.keygen + 1) % 65536 }
    { s' with lc := { s'.lc with installs := satAdd 32 s'.lc.installs 1 } }

end Sys2Proof.Machine
end

