-- ==== Sys2Proof/Machine/ExecPeers.lean ====
section
/-!
DEFINITION. Semaphore registers, peer packets received, replay (09), the cutoff of a LAND (08).
-/

namespace Sys2Proof.Machine

/-- A write of PRG_SEM (R238, R354): the software clear of the flags, the hardware addition that meets the write with its service of the queue, then the software value, and the
queue served again. -/
def semWrite (s : State) (n v hw : Nat) : State :=
  let m := s.sem n
  let s := s.setSem n { m with sat := m.sat && !bitOf v 16, hol := m.hol && !bitOf v 17, lost := m.lost && !bitOf v 18 }
  let s := if hw = 0 then s else semAddTo s n hw .none
  let m := s.sem n
  serveSem 32769 (s.setSem n { m with val := bitsOf v 15 0, lost := m.lost || hw ≠ 0 }) n .none
/-- SEM_WRITE (R238). -/
def execSemWrite (n : BitVec 13) (v : W32) (hw : BitVec 16) (s : State) : Out :=
  written s (semWrite (rsvNote s (0x30000 + 4 * n.toNat) v.toNat 0xFFFFF) n.toNat v.toNat hw.toNat)
/-- A write of PRG_SEM_ADD (R236, R237). An amount of 0 changes nothing. -/
def semAdd (s : State) (n v : Nat) : State := if bitsOf v 15 0 = 0 then s else semAddTo s n (bitsOf v 15 0) .none
/-- SEM_ADD (R236). -/
def execSemAdd (n : BitVec 13) (v : W32) (s : State) : Out := written s (semAdd (rsvNote s (0x38000 + 4 * n.toNat) v.toNat 0xFFFF) n.toNat v.toNat)

/-- The peer port takes packets: it is LIVE (R264, R268). -/
def peerUp (s : State) : Bool := isLive s 22
/-- HELLO (R253). -/
def execHello (h : Hdr) (maxVer : Byte) (ncarr : W32) (jobtag : BitVec 16) (s : State) : Out := happens (peerUp s) s (helloIn s h maxVer.toNat ncarr.toNat jobtag.toNat)
/-- ACK (R250). -/
def execAck (h : Hdr) (s : State) : Out := happens (peerUp s) s (ackIn s h)
/-- NAK (R251). -/
def execNak (h : Hdr) (s : State) : Out := happens (peerUp s) s (nakIn s h)
/-- TOKEN (R244). -/
def execToken (h : Hdr) (t : HawPay) (s : State) : Out := happens (peerUp s) s (hawIn s h pToken fun s n slot gen => tokenIn s n slot gen (tupleOf t))
/-- VERIFY (R245). -/
def execVerify (h : Hdr) (t : HawPay) (s : State) : Out := happens (peerUp s) s (hawIn s h pVerify fun s n _ gen => verifyIn s n gen (tupleOf t))
/-- VREPLY (R245). -/
def execVreply (h : Hdr) (t : HawPay) (s : State) : Out := happens (peerUp s) s (hawIn s h pVreply fun s n slot gen => vreplyIn s n slot gen t.ndis.toNat t.carr.toNat)
/-- RELEASE (R245). BY of the trace is the carrier that the release came from (log entry 27). -/
def execRelease (h : Hdr) (t : HawPay) (s : State) : Out :=
  happens (peerUp s) s (hawIn s h pRelease fun s n _ gen => releaseIn s n gen h.src.toNat t.mismatch t.carr.toNat t.ndis.toNat)
/-- DECLINE (R225, R231). -/
def execDecline (h : Hdr) (s : State) : Out := happens (peerUp s) s (declineIn s h)
/-- SHARDREQ (R214). -/
def execShardreq (h : Hdr) (shard : BitVec 16) (sequence : W32) (rows : List W32) (s : State) : Out :=
  happens (peerUp s) s (shardreqIn s h shard.toNat sequence.toNat (rows.map fun r => r.toNat))
/-- XNOTICE (R231). -/
def execXnotice (h : Hdr) (index : W32) (rawlen : W64) (encoded prot : Bool) (s : State) : Out := happens (peerUp s) s (xnoticeIn s h index.toNat rawlen.toNat encoded prot)
/-- CNOTICE (R221, R222). -/
def execCnotice (h : Hdr) (step length : W64) (s : State) : Out := happens (peerUp s) s (cnoticeIn s h step.toNat length.toNat)
/-- DATA (R214, R221, R232). -/
def execData (h : Hdr) (payload : List Byte) (s : State) : Out := happens (peerUp s) s (dataIn s h payload)
/-- RDONE (R232). -/
def execRdone (h : Hdr) (s : State) : Out := happens (peerUp s) s (rdoneIn s h)
/-- REPLAY_TIMEOUT (R251, R252); a hard stop freezes the timer (R307). -/
def execReplayTimeout (dst : BitVec 16) (cls : BitVec 2) (s : State) : Out := happens (replayDue s dst.toNat cls.toNat && !frozen s) s (replay s dst.toNat cls.toNat)

/-- The deadline of a LAND with CUT 1 has come (R91, R223). -/
def cutoff (s : State) (i : Nat) : Option State :=
  (s.op i).bind fun o => match o.kind with
    | .land l => if l.cutD ∧ !l.cut ∧ o.phase ≠ .ending ∧ (o.due.any fun d => d ≤ s.now) then some (landCut s o l) else none
    | _ => none
/-- LAND_CUTOFF (R223). -/
def execLandCutoff (i : Nat) (s : State) : Out := arises s (cutoff s i)

end Sys2Proof.Machine
end

