-- ==== Sys2Proof/Machine/ExecPorts.lean ====
section
/-!
DEFINITION. Events and commands of the ports, the satellite links and the host (10), with the handshakes that end them.
-/

namespace Sys2Proof.Machine

/-- READ_RESPONSE (R260, R262): status 0 OK, 1 ERR, 2 DECERR, 3 reserved. -/
def execReadResponse (port : BitVec 5) (tag : BitVec 12) (status : BitVec 2) (poison last : Bool) (s : State) : Out :=
  happens true s (portResp s port.toNat tag.toNat false status.toNat poison last)
/-- WRITE_RESPONSE (R260, R262). -/
def execWriteResponse (port : BitVec 5) (tag : BitVec 12) (status : BitVec 2) (s : State) : Out :=
  happens true s (portResp s port.toNat tag.toNat true status.toNat false true)
/-- TARGET_REQUEST (R263, R267): the tensor ports and PP have target channels. -/
def execTargetRequest (port : BitVec 5) (src : BitVec 6) (tag : BitVec 12) (wr : Bool) (addr : BitVec 56) (len : Byte) (beats : List Byte) (poison last : Bool) (s : State) : Out :=
  happens (port.toNat < 16 || port.toNat = 22) s (targetReq s port.toNat src.toNat tag.toNat wr addr.toNat len.toNat beats poison last)
/-- SOURCE_RESET (R266). -/
def execSourceReset (port : BitVec 5) (src : BitVec 6) (s : State) : Out := happens (port.toNat < 16 || port.toNat = 22) s (sourceReset s port.toNat src.toNat)
/-- SOURCE_RESET_END (R266). -/
def execSourceResetEnd (port : BitVec 5) (src : BitVec 6) (s : State) : Out := happens (s.srcRst.contains (port.toNat, src.toNat)) s (sourceResetEnd s port.toNat src.toNat)
/-- PORT_TIMEOUT (R264): a request not accepted, or a tag without its last beat. -/
def execPortTimeout (port : BitVec 5) (response : Bool) (s : State) : Out := happens (portOverdue s port.toNat response) s (portTimeout s port.toNat response)
/-- PORT_RETIRE: PRG_PORT_CTL RETIRE (R264; CAUSE 3). -/
def execPortRetire (port : BitVec 5) (s : State) : Out := written s (if port.toNat < 31 then retirePort s port.toNat 3 else s)
/-- PORT_RESET: PRG_PORT_CTL RESET (R265). -/
def execPortReset (port : BitVec 5) (s : State) : Out := written s (if port.toNat < 31 then resetPort s port.toNat else s)
/-- RESTORE: PRG_PORT_CTL RESTORE (R265). -/
def execRestore (port : BitVec 5) (s : State) : Out := written s (if port.toNat < 31 then restorePort s port.toNat else s)
/-- The carrier answers a reset handshake in order: ack rises while req is high, and falls after it (R265). -/
def ackDue (s : State) (n : Nat) (rise : Bool) : Bool := if rise then (s.port n).req && !(s.port n).ack else (s.port n).ack
/-- PORT_RESET_ACK (R265). -/
def execPortResetAck (port : BitVec 5) (rise : Bool) (s : State) : Out := happens (ackDue s port.toNat rise) s (resetAck s port.toNat rise)
/-- PORT_RESET_TIMEOUT (R265). -/
def execPortResetTimeout (port : BitVec 5) (s : State) : Out := happens (resetDue s port.toNat) s (resetLate s port.toNat)
/-- BACK_LANE_CHECK (R270). -/
def execBackLaneCheck (n : BitVec 6) (s : State) : Out := happens (bitOf s.sat.present n.toNat) s (satLost s n.toNat)
/-- A satellite whose link is still in training is absent (R270). -/
def satUntrained (s : State) (n : Nat) : State := { s with sat := { s.sat with training := s.sat.training - 2 ^ n } }
/-- SAT_TRAINING_TIMEOUT (R270). -/
def execSatTrainingTimeout (n : BitVec 6) (s : State) : Out := happens (bitOf s.sat.training n.toNat) s (satUntrained s n.toNat)
/-- BACK_LANE_CREDITS (R270): an absent satellite's back lane is ignored. -/
def execBackLaneCredits (n : BitVec 6) (credits : BitVec 4) (crcErr : Bool) (s : State) : Out := happens (bitOf s.sat.present n.toNat) s (backLane s n.toNat credits.toNat crcErr)

/-- ATS_COMPLETION (R276): an answer to a request that is outstanding. -/
def execAtsCompletion (p : BitVec 5) (page : BitVec 44) (perm : Option (BitVec 5)) (s : State) : Out :=
  happens (s.hostl.ats.asked.contains (p.toNat, page.toNat)) s (atsDone s p.toNat page.toNat (perm.map fun log => log.toNat))
/-- PAGE_RESPONSE (R205, R276): an answer to one of the 256 page requests outstanding. -/
def execPageResponse (p : BitVec 5) (page : BitVec 44) (code : BitVec 4) (s : State) : Out :=
  happens ((s.hostl.ats.pri.take priLimit).contains (p.toNat, page.toNat)) s (pageResp s p.toNat page.toNat code.toNat)
/-- INVALIDATION_REQUEST (R276). -/
def execInvalidationRequest (p : BitVec 5) (page : BitVec 44) (pages : W32) (s : State) : Out := happens true s (invalidate s p.toNat page.toNat pages.toNat)
/-- SNOOP (R275). -/
def execSnoop (line : BitVec 4 × BitVec 50) (inv : Bool) (s : State) : Out := happens true s (snoopLine s line.1.toNat line.2.toNat inv)
/-- HOST_LINK_DOWN (R282): a link that is up falls. -/
def execHostLinkDown (hp : BitVec 1) (s : State) : Out := happens ((if hp = 0 then s.hostl.hp0mode else s.hostl.hp1mode) ≠ 0) s (linkDown s hp.toNat)
/-- HOT_RESET (R282). -/
def execHotReset (s : State) : Out := happens true s (retryOps (detach s 1))
/-- HOST_RESPONSE_TIMEOUT (R282). -/
def execHostResponseTimeout (s : State) : Out := happens (hostOverdue s) s (retryOps (detach s 3))
/-- HOST_TAG_ORPHAN (R283). -/
def execHostTagOrphan (s : State) : Out := happens (orphanDue s) s (retryOps (orphanHost s))
/-- CONTROLLER_RESET_DONE (R283): the controller was reset after its tags were orphaned. -/
def execControllerResetDone (s : State) : Out := happens true s (retryOps (hostTagsGone s))
/-- REATTACH: PRG_HOST_CTL (R284). -/
def execReattach (v : W32) (modes : BitVec 2 × BitVec 2) (s : State) : Out :=
  let t := rsvNote (linksUp s modes.1.toNat modes.2.toNat) 0x50018 v.toNat 1
  written s (if bitOf v.toNat 0 then reattach t else t)
/-- H2D_RESPONSE (R274, R277). -/
def execH2dResponse (hp : BitVec 1) (slot : BitVec 11) (poison : Bool) (s : State) : Out := happens true s (invalDone (hostResp s hp.toNat slot.toNat poison))
/-- DROOP (R285): mp_droop_n falls where it is 1, and rises where it is 0 (log entry 110). -/
def execDroop (s : State) : Out := happens true s (droopEdge s)
/-- DROOP_HOLD_END (R285): DROOP_HOLD_US after mp_droop_n is 1 again. -/
def execDroopHoldEnd (s : State) : Out := happens (s.droopOn && !s.droopLow && s.droopAt + droopHoldNs s ≤ s.now) s { s with droopOn := false }

end Sys2Proof.Machine
end

