-- ==== Sys2Proof/Machine/Graph.lean ====
section
/-!
DEFINITION. Wait-for graphs (R254, R347).
-/

namespace Sys2Proof.Machine

/-- An edge (Table 13.8). -/
structure Edge where
  fk : Nat
  tk : Nat
  fid : Nat
  tid : Nat
  arg : Nat
  deriving DecidableEq, Repr

/-- FROMKIND and TOKIND of a wait kind of WAITST: semaphore, barrier group, object, pool tier, ring, plan slot, budget class. -/
def waitTo (k : Nat) : Nat := match k with
  | 1 => 3
  | 2 => 5
  | 3 => 8
  | 4 => 9
  | 5 => 4
  | 6 => 10
  | _ => 11
/-- The same of a party. -/
def partyTo : Party → Nat
  | .ctx _ => 1
  | .chan _ => 2
  | .carrier _ => 6
  | _ => 7

/-- Waits of a partition's contexts as (context, kind, index or handle, ms): the one whose watchdog fired counts with the wait that its exception ended. -/
def waitsOf (s : State) (p : Nat) (fired : Bool) : List (Nat × Nat × Nat × Nat) :=
  let v := s.part p
  (partCtxs s p).filterMap fun c =>
    let x := s.ctx c
    if x.waitKind ≠ 0 then some (c, x.waitKind, x.waitOn, (s.now - x.wstart) / 1000000)
    else if fired ∧ v.wfgCtx = c then some (c, v.wfgWait) else none

/-- The five kinds of edges of R254, each in ascending FROMID. -/
def ctxEdges (w : List (Nat × Nat × Nat × Nat)) : List Edge := w.map fun e => ⟨1, waitTo e.2.1, e.1, e.2.2.1, min e.2.2.2 0xFFFFFFFF⟩
def semEdges (s : State) (p : Nat) (w : List (Nat × Nat × Nat × Nat)) : List Edge :=
  (s.sems.filter fun e => semOwner s e.1 = some p && (e.2.q ≠ [] || w.any fun x => x.2.1 = 1 && x.2.2.1 = e.1)).flatMap fun e =>
    e.2.sig.map fun y => ⟨3, partyTo y, e.1, partyNum y, e.2.val⟩
def ringEdges (s : State) (p : Nat) : List Edge :=
  (s.rings.filter fun e => ringOwner s e.1 = some p && ringDepth e.2 ≠ 0).flatMap fun e =>
    let n := ringCount' e.2
    (if n = 0 then e.2.pushers else if n = ringDepth e.2 then e.2.poppers else []).map fun y => ⟨4, partyTo y, e.1, partyNum y, n⟩
def barEdges (s : State) (p : Nat) (w : List (Nat × Nat × Nat × Nat)) : List Edge :=
  (s.bars.filter fun e => barValid s e.1 && barPart s e.1 = p && w.any fun x => x.2.1 = 2 && x.2.2.1 = e.1).flatMap fun e =>
    (nodesOf s e.1).flatMap fun n =>
      let came := (s.node n).arrived.map fun a => a.1
      ((kidSlots s n).filterMap fun i =>
        let k := childWord s n i
        if nodeLeaf s n then (if came.contains (bitsOf k 7 0) then none else some ⟨5, 1, e.1, bitsOf k 7 0, e.2.gen % 2 ^ 32⟩)
        else if came.contains i then none else some ⟨5, 6, e.1, bitsOf k 15 0, e.2.gen % 2 ^ 32⟩)
def peerEdges (s : State) (p : Nat) : List Edge :=
  (s.peers.filter fun e => inJob s p e.1).flatMap fun e =>
    if e.2.down then [⟨6, 6, myCarrier s p, e.1, 2⟩]
    else ([0, 1, 2].filter fun c => !streamRoom s e.1 c).map fun _ => ⟨6, 6, myCarrier s p, e.1, 1⟩
/-- The carriers that a GATHER in flight still waits for: they have not issued it (R215). ARG is 0: neither stalled nor DOWN (log entry 161). -/
def gatherEdges (s : State) (p : Nat) : List Edge :=
  ((s.ops.filter fun o => o.req.part = p && match o.kind with
    | .gather _ => true
    | _ => false).flatMap (opPeers s)).dedup.filterMap fun k => if (s.peer k).down then none else some ⟨6, 6, myCarrier s p, k, 0⟩
def graphEdges (s : State) (p : Nat) (fired : Bool) : List Edge :=
  let w := waitsOf s p fired
  ctxEdges w ++ semEdges s p w ++ ringEdges s p ++ barEdges s p w ++ peerEdges s p ++ gatherEdges s p

/-- Bytes of an edge and of a graph with a header (Tables 13.7 and 13.8). -/
def edgeBytes (e : Edge) : List Byte := leBytes 16 (pack [(0, 8, e.fk), (8, 8, e.tk), (32, 32, e.fid), (64, 32, e.tid), (96, 32, e.arg)])
def graphBytes (s : State) (p c : Nat) (l : List Edge) (trunc merged : Bool) : List Byte :=
  leBytes 64 (pack [(0, 32, 0x47465757), (32, 8, 1), (40, 8, p), (48, 16, c), (64, 64, s.now), (128, 32, l.length), (160, 1, b2n trunc), (161, 1, b2n merged), (192, 16, myCarrier s p)]) ++
    l.flatMap edgeBytes

/-- The buffer of PRG_WFG_CFG[p]: its address and size; size 0 where it is not configured (R347). -/
def wfgBuf (s : State) (p : Nat) : Nat × Nat :=
  let a := reg s (0xB9400 + 0x10 * p)
  let n := bitsOf (reg s (0xB9400 + 0x10 * p + 8)) 15 0 * 4096
  if (tqaTier a = 1 ∨ tqaTier a = 3) ∧ a % 4096 = 0 ∧ !t3Away s a then (a, n) else (a, 0)

/-- A graph is written by 4 KiB pages, and its last line is read back. -/
def wfgWrite (s : State) (p a : Nat) (bs : List Byte) : State :=
  let n := bs.length
  let s := s.storeP p a bs
  let s := (List.range ((n + 4095) / 4096)).foldl (fun s i => match portFor s (tqaTier a) (tqaOff a + 4096 * i) 0 0 with
    | some q => s.gadd (0x10 * q + 8) (min 4096 (n - 4096 * i))
    | none => s) s
  match portFor s (tqaTier a) (tqaOff a + n - 1) 0 0 with
  | some q => s.gadd (0x10 * q) 64
  | none => s

/-- The scheduler core builds a partition's graph, sets BUSY and raises WFG_READY (R347). -/
def buildGraph (s : State) (p c : Nat) (merged : Bool) : State :=
  let (a, n) := wfgBuf s p
  let bad := n ≠ 0 && !inWindow s p a n
  let s := if bad then deny s p 1 c a else s
  let all := graphEdges s p true
  let l := if n = 0 ∨ bad then [] else all.take ((n - 64) / 16)
  let s := if n = 0 ∨ bad then s else wfgWrite s p a (graphBytes s p c l (l.length < all.length) merged)
  let s := s.modPart p fun v => { v with wfgBusy := true, wfgPending := none, wfgBuilds := satAdd 16 v.wfgBuilds 1 }
  raiseEv s p 1 c [(0x19, l.length)]

/-- Writing 1 to BUSY (R347): with REBUILD set the graph is built once more, MERGED; while the scheduler core is down the rebuild waits for it (Table 11.2). -/
def wfgClear (s : State) (p : Nat) : State :=
  let v := s.part p
  if !v.wfgBusy then s
  else
    let s := s.setPart p { v with wfgBusy := false, wfgRebuild := false }
    if v.wfgRebuild then buildGraph s p v.wfgCtx true else s

end Sys2Proof.Machine
end

