-- ==== Sys2Proof/Machine/RegTable.lean ====
section
/-!
DEFINITION. The host register window (chapter 14): every register with its place, its width and the bits of it that are not reserved, and the register that an offset falls in.
-/

namespace Sys2Proof.Machine

/-- The registers of the window, in the order of Table 14.1. -/
inductive Reg
  | id | hrwErr | ctxDoorbell | ctxStatus | chanDoorbell | chanStatus | chanCtl | partCtl
  | partState | cqPtr | cqInt | plStatus | sem | semAdd | ringStatus | ringSel
  | ringEntry | blockStatus | resetCtl | resetStatus | hostCtl | hostStatus | portStatus | portCtl
  | fwStatus | fwCtl | fwEvent | fwCore | logPtr | thermStatus | clkStatus | lease
  | evqPtr | evqInt | cntSnap | gcntSnap | cntWin | tracePtr | watchSel | watchData
  | gcntWin | poolCap | poolHead | poolFloor | poolUsed | dirQuota | dirUsed | ageNow
  | ctxCfg | ctxSrc | ctxInfo | ctxDigest | seqMask | partRes | budTable | budCeil
  | budBal | budCtl | dlCfg | budGroup | estTier | estDec | satStatus | satCfg
  | dlCount | copCfg | copSel | copInfo | copStatus | copCount | sieveStatus | satPresent
  | satFixed | satLink | sieveErr | srKey | codecBytes | hsetSel | hsetCfg | hsetState
  | hsetAmax | shareSel | shareData | shareFull | shareTot | chanCfg | movCfg | movCluster
  | movPending | movCount | cqCfg | tgrpSel | tgrpCfg | tgrpState | optCfg | nf
  | ringCfg | barSel | barCfg | barState | jobCfg | peerCfg | relink | peerStatus
  | peerCount | hawNode | hawChild | portCfg | hostPart | atsCount | evqCfg | traceCfg
  | traceDrop | wfgCfg | wfgStatus | watchAllow | watchSpike | ctxImage | fwVersion | fwOffer
  | fwUpd | fwCfg | fwNeg | fwAgreed | logCfg | traceEn | logCount | pwrCfg
  | calFactory | calUser | partWin | lcStatus | devId | keyCtl | keyStatus | keyPub
  | keyXfer | keyNonce | privetDeny | unitHealth | unitMask | bistCfg | bistTregion | bistCount
  | bistLogptr | bistLog
  deriving DecidableEq, Repr

/-- A register, an array of registers, or an array of runs of them: `n1` runs `s1` bytes apart of `n2` registers `s2` bytes apart, each of `width` bits. `masks` and `acts` hold,
for the registers of a run (the last for all further ones), the bits that are not reserved and those in which a 1 acts (W1C, W1S, WO). -/
structure RegDef where
  reg : Reg
  base : Nat
  width : Nat
  masks : List Nat
  acts : List Nat := [0]
  n1 : Nat := 1
  s1 : Nat := 1
  n2 : Nat := 1
  s2 : Nat := 1
  deriving DecidableEq, Repr

/-- Every bit of a 64-bit register. -/
def F64 : Nat := 0xFFFFFFFFFFFFFFFF

/-- The registers of the hardware region (Tables 2.11, 7.6, 9.5, 10.15, 11.11, 13.9, 14.2). -/
def hwDefs : List RegDef :=
  [⟨.id, 0x0, 64, [0xFFFF0FFFFF], [0], 1, 0x1, 1, 1⟩,
   ⟨.hrwErr, 0x8, 64, [0xFFFFFFFFF0303], [3], 1, 0x1, 1, 1⟩,
   ⟨.ctxDoorbell, 0x1000, 32, [0xFFFFFF1F], [0xFFFFFFFF], 256, 0x4, 1, 1⟩,
   ⟨.ctxStatus, 0x1400, 64, [0xFFFFFF0F7FFF], [0xF0000], 256, 0x8, 1, 1⟩,
   ⟨.chanDoorbell, 0x2000, 64, [F64], [F64], 256, 0x8, 1, 1⟩,
   ⟨.chanStatus, 0x2800, 64, [0xFFFF00011F07], [0x10000], 256, 0x8, 1, 1⟩,
   ⟨.chanCtl, 0x3000, 32, [3], [3], 256, 0x4, 1, 1⟩,
   ⟨.partCtl, 0x3400, 32, [3], [3], 16, 0x4, 1, 1⟩,
   ⟨.partState, 0x3440, 32, [3], [0], 16, 0x4, 1, 1⟩,
   ⟨.cqPtr, 0x10000, 64, [F64], [0], 4096, 0x8, 1, 1⟩,
   ⟨.cqInt, 0x18000, 64, [F64], [F64], 64, 0x8, 1, 1⟩,
   ⟨.plStatus, 0x20000, 32, [0xFFFF000F], [8], 256, 0x4, 1, 1⟩,
   ⟨.sem, 0x30000, 32, [0xFFFFF], [0x70000], 8192, 0x4, 1, 1⟩,
   ⟨.semAdd, 0x38000, 32, [0xFFFF], [0xFFFF], 8192, 0x4, 1, 1⟩,
   ⟨.ringStatus, 0x40000, 64, [0x1FFFFFFFFFFF], [0], 1024, 0x8, 1, 1⟩,
   ⟨.ringSel, 0x42000, 32, [0xFFFF], [0], 1, 0x1, 1, 1⟩,
   ⟨.ringEntry, 0x42004, 32, [0xFFFFFFFF], [0], 1, 0x1, 1, 1⟩,
   ⟨.blockStatus, 0x50000, 64, [0xFFFF00000037], [0], 1, 0x1, 1, 1⟩,
   ⟨.resetCtl, 0x50008, 32, [0xFF000F03], [0xFF000F03], 1, 0x1, 1, 1⟩,
   ⟨.resetStatus, 0x50010, 32, [0xFFFF], [0], 1, 0x1, 1, 1⟩,
   ⟨.hostCtl, 0x50018, 32, [1], [1], 1, 0x1, 1, 1⟩,
   ⟨.hostStatus, 0x50020, 64, [0xFFFF037F], [0x40], 1, 0x1, 1, 1⟩,
   ⟨.portStatus, 0x50100, 64, [0xFFFFFFFFFFFF00FF], [0], 31, 0x8, 1, 1⟩,
   ⟨.portCtl, 0x50200, 32, [3], [3], 31, 0x4, 1, 1⟩,
   ⟨.fwStatus, 0x60000, 64, [0x1FFFF07FF003F], [0], 1, 0x1, 1, 1⟩,
   ⟨.fwCtl, 0x60008, 32, [0xFF0000FF], [0xFF0000FF], 1, 0x1, 1, 1⟩,
   ⟨.fwEvent, 0x60010, 64, [0x7FF], [0x7FF], 1, 0x1, 1, 1⟩,
   ⟨.fwCore, 0x60018, 64, [0xFFFF00F3], [0], 11, 0x8, 1, 1⟩,
   ⟨.logPtr, 0x60100, 64, [F64], [0], 1, 0x1, 1, 1⟩,
   ⟨.thermStatus, 0x60108, 64, [0xFFFFFFFF0003FFFF], [0], 1, 0x1, 1, 1⟩,
   ⟨.clkStatus, 0x60110, 64, [0xFFF0FFF], [0], 1, 0x1, 1, 1⟩,
   ⟨.lease, 0x60200, 64, [0xFFFFFFFFFFFF000F], [0], 64, 0x8, 1, 1⟩,
   ⟨.evqPtr, 0x70000, 64, [F64], [0], 17, 0x8, 1, 1⟩,
   ⟨.evqInt, 0x70100, 32, [0x1FFFF], [0x1FFFF], 1, 0x1, 1, 1⟩,
   ⟨.cntSnap, 0x70200, 32, [0xFF], [0xFF], 1, 0x1, 1, 1⟩,
   ⟨.gcntSnap, 0x70208, 32, [1], [1], 1, 0x1, 1, 1⟩,
   ⟨.cntWin, 0x70400, 64, [F64], [0], 32, 0x8, 1, 1⟩,
   ⟨.tracePtr, 0x70800, 64, [F64], [0], 16, 0x8, 1, 1⟩,
   ⟨.watchSel, 0x70900, 32, [0x1FF], [0], 1, 0x1, 1, 1⟩,
   ⟨.watchData, 0x70908, 64, [0x1FF3FFFFFFFFF, F64, F64, F64, F64, F64, F64, F64], [0], 1, 0x1, 8, 8⟩,
   ⟨.gcntWin, 0x71000, 64, [F64], [0], 256, 0x8, 1, 1⟩]

/-- Pools, contexts, budgets, Coppice, the Sieve (Tables 1.8, 2.11, 4.8, 5.8, 6.9). -/
def poolDefs : List RegDef :=
  [⟨.poolCap, 0x84000, 64, [F64], [0], 4, 0x8, 1, 1⟩,
   ⟨.poolHead, 0x84020, 64, [0xFFFFFFFFFFFFF000], [0], 3, 0x8, 1, 1⟩,
   ⟨.poolFloor, 0x84100, 64, [0xFFFFFFFFFFFFF000], [0], 16, 0x20, 3, 8⟩,
   ⟨.poolUsed, 0x84300, 64, [F64], [0], 16, 0x20, 4, 8⟩,
   ⟨.dirQuota, 0x84500, 32, [0x1FFFFF], [0], 16, 0x4, 1, 1⟩,
   ⟨.dirUsed, 0x84540, 32, [0x1FFFFF], [0], 16, 0x4, 1, 1⟩,
   ⟨.ageNow, 0x84580, 32, [0xFFFFFFFF], [0], 1, 0x1, 1, 1⟩,
   ⟨.ctxCfg, 0x88000, 64, [0xFFFF0FFF070F], [0], 256, 0x40, 1, 1⟩,
   ⟨.ctxSrc, 0x88008, 64, [F64], [0], 256, 0x40, 2, 8⟩,
   ⟨.ctxInfo, 0x88018, 64, [0x1FFFFFFFFFF], [0], 256, 0x40, 2, 8⟩,
   ⟨.ctxDigest, 0x88028, 64, [F64], [0], 256, 0x40, 2, 8⟩,
   ⟨.seqMask, 0x8C000, 32, [0xFFFF], [0], 16, 0x4, 1, 1⟩,
   ⟨.partRes, 0x8C040, 64, [0x3FFF00001FFF, 0x7FF000003FF, 0x7FFF00003FFF, 0x1FFFF01FFFFFF], [0], 16, 0x20, 4, 8⟩,
   ⟨.budTable, 0x90000, 64, [F64], [0], 32, 0x100, 12, 8⟩,
   ⟨.budCeil, 0x92000, 64, [F64], [0], 16, 0x100, 12, 8⟩,
   ⟨.budBal, 0x93000, 64, [F64], [0], 16, 0x100, 12, 8⟩,
   ⟨.budCtl, 0x94000, 64, [0xF], [4], 16, 0x8, 1, 1⟩,
   ⟨.dlCfg, 0x94080, 64, [0xFFFFF001FFFF3], [0], 16, 0x8, 1, 1⟩,
   ⟨.budGroup, 0x94100, 64, [F64], [0], 4, 0x8, 1, 1⟩,
   ⟨.estTier, 0x94148, 64, [0xFFFFFFFF0000FFFF], [0], 3, 0x8, 1, 1⟩,
   ⟨.estDec, 0x94160, 64, [0xFFFFFFFF], [0], 1, 0x1, 1, 1⟩,
   ⟨.satStatus, 0x94180, 64, [0x7F], [0], 1, 0x1, 1, 1⟩,
   ⟨.satCfg, 0x94188, 64, [0xFFFFFFFF], [0], 1, 0x1, 1, 1⟩,
   ⟨.dlCount, 0x94200, 64, [F64], [0], 16, 0x20, 4, 8⟩,
   ⟨.copCfg, 0x98000, 64, [0x1FFFFFFFFFFFF], [0], 1, 0x1, 1, 1⟩,
   ⟨.copSel, 0x98008, 32, [0x3FFF], [0], 1, 0x1, 1, 1⟩,
   ⟨.copInfo, 0x98010, 64, [0xFFFFFFFF0FFFFF07, 0x1FFFFFFFFFFFFF, F64, 0xFFFFFFFFFFFF], [0], 1, 0x1, 4, 8⟩,
   ⟨.copStatus, 0x98030, 64, [0xFFFFFFFF00FFFF7F], [0], 1, 0x1, 1, 1⟩,
   ⟨.copCount, 0x98100, 64, [F64], [0], 16, 0x40, 8, 8⟩,
   ⟨.sieveStatus, 0x9A000, 64, [0xFFFFFFFF], [0], 1, 0x1, 1, 1⟩,
   ⟨.satPresent, 0x9A008, 64, [F64], [0], 1, 0x1, 1, 1⟩,
   ⟨.satFixed, 0x9A010, 64, [F64], [0], 1, 0x1, 1, 1⟩,
   ⟨.satLink, 0x9A018, 64, [0xFFFFFFFF000000FF], [0], 1, 0x1, 1, 1⟩,
   ⟨.sieveErr, 0x9A020, 64, [F64], [0], 1, 0x1, 1, 1⟩,
   ⟨.srKey, 0x9A100, 64, [F64], [0], 16, 0x8, 1, 1⟩,
   ⟨.codecBytes, 0x9A180, 64, [F64], [0], 16, 0x10, 2, 8⟩,
   ⟨.hsetSel, 0x9A280, 32, [0xFFF], [0], 1, 0x1, 1, 1⟩,
   ⟨.hsetCfg, 0x9A288, 64, [0x1FFF1], [0x10000], 1, 0x1, 1, 1⟩,
   ⟨.hsetState, 0x9A290, 64, [0xFFFFFFFF00000FFF], [0], 1, 0x1, 1, 1⟩,
   ⟨.hsetAmax, 0x9A2C0, 32, [0xFFFFFFFF], [0], 16, 0x4, 1, 1⟩,
   ⟨.shareSel, 0x9A300, 32, [0x7FF], [0], 1, 0x1, 1, 1⟩,
   ⟨.shareData, 0x9A308, 64, [0x1FFFFFFFFFF, F64, F64, 0xFFFFFFFF], [0], 1, 0x1, 4, 8⟩,
   ⟨.shareFull, 0x9A340, 64, [F64], [0], 16, 0x8, 1, 1⟩,
   ⟨.shareTot, 0x9C000, 64, [F64], [0], 16, 0x200, 36, 8⟩]

/-- Movers, traffic, synchronisation, ports, observability (Tables 7.6, 8.4, 9.5, 10.15, 13.9). -/
def movDefs : List RegDef :=
  [⟨.chanCfg, 0x9E000, 64, [0xF1], [0], 256, 0x8, 1, 1⟩,
   ⟨.movCfg, 0x9E800, 64, [0xFFFFFFFF], [0], 1, 0x1, 1, 1⟩,
   ⟨.movCluster, 0x9E840, 64, [0xFFFFFFFF00FFFFFF], [0], 8, 0x8, 1, 1⟩,
   ⟨.movPending, 0x9E880, 64, [0x1FFF1FFF], [0], 1, 0x1, 1, 1⟩,
   ⟨.movCount, 0x9E900, 64, [F64], [0], 16, 0x40, 8, 8⟩,
   ⟨.cqCfg, 0xA0000, 64, [F64, 0x307FF011F], [0, 0x100000000], 4096, 0x10, 2, 8⟩,
   ⟨.tgrpSel, 0xB0000, 32, [0x3FF], [0], 1, 0x1, 1, 1⟩,
   ⟨.tgrpCfg, 0xB0008, 64, [0xFFFFFFFF00FFFF07, 0xFFFF, 0xFFFFFFFFFFFF, F64], [0], 1, 0x1, 4, 8⟩,
   ⟨.tgrpState, 0xB0028, 64, [F64, F64, 0xFFFFFFFFFFFF, F64], [0], 1, 0x1, 4, 8⟩,
   ⟨.optCfg, 0xB0100, 64, [F64, F64, F64, 0xFFFFFFFFFF], [0], 32, 0x20, 4, 8⟩,
   ⟨.nf, 0xB0500, 64, [0xFFFFFFFF0000000F], [0xF], 16, 0x8, 1, 1⟩,
   ⟨.ringCfg, 0xB1000, 64, [0xFFFF000F], [0], 1024, 0x8, 1, 1⟩,
   ⟨.barSel, 0xB3000, 32, [0xFF], [0], 1, 0x1, 1, 1⟩,
   ⟨.barCfg, 0xB3008, 64, [0x3FFFF1], [0], 1, 0x1, 1, 1⟩,
   ⟨.barState, 0xB3010, 64, [0xFFFFFFFFFFFF, F64], [0], 1, 0x1, 2, 8⟩,
   ⟨.jobCfg, 0xB3500, 64, [0x1FFFFFFFFFFFF], [0], 16, 0x8, 1, 1⟩,
   ⟨.peerCfg, 0xB3580, 64, [0xFFFFFF], [0], 1, 0x1, 1, 1⟩,
   ⟨.relink, 0xB3588, 32, [0x1FFFF], [0x1FFFF], 1, 0x1, 1, 1⟩,
   ⟨.peerStatus, 0xB3590, 64, [0xFFFF0001FFFF], [0], 1, 0x1, 1, 1⟩,
   ⟨.peerCount, 0xB3600, 64, [F64], [0], 8, 0x8, 1, 1⟩,
   ⟨.hawNode, 0xB4000, 64, [0x3FFFFF0FFFF707, 0x1FFFF], [0], 64, 0x10, 2, 8⟩,
   ⟨.hawChild, 0xB5000, 32, [0x803FFFFF], [0], 64, 0x40, 16, 4⟩,
   ⟨.portCfg, 0xB8000, 64, [0xFFFFFFFFFFFF], [0], 1, 0x1, 1, 1⟩,
   ⟨.hostPart, 0xB8100, 64, [0x1FFFFF], [0], 16, 0x8, 1, 1⟩,
   ⟨.atsCount, 0xB8180, 64, [F64], [0], 4, 0x8, 1, 1⟩,
   ⟨.evqCfg, 0xB9000, 64, [F64, 0x307FF071F], [0], 17, 0x10, 2, 8⟩,
   ⟨.traceCfg, 0xB9200, 64, [F64, 0xFF1F], [0], 16, 0x10, 2, 8⟩,
   ⟨.traceDrop, 0xB9300, 64, [F64], [0], 16, 0x8, 1, 1⟩,
   ⟨.wfgCfg, 0xB9400, 64, [F64, 0xFFFF], [0], 16, 0x10, 2, 8⟩,
   ⟨.wfgStatus, 0xB9500, 64, [0xFFFFFFFF00000003], [1], 16, 0x8, 1, 1⟩,
   ⟨.watchAllow, 0xB9600, 32, [0x3FF], [0], 16, 0x4, 1, 1⟩,
   ⟨.watchSpike, 0xB9680, 64, [0xFFFFFFFF], [0], 16, 0x8, 1, 1⟩]

/-- Context images, firmware, protection, self-test (Tables 2.1, 11.11, 12.10). -/
def fwDefs : List RegDef :=
  [⟨.ctxImage, 0xC0000, 64, [F64, F64, F64, F64, F64, F64, F64, F64, F64, F64, F64, F64, F64, F64, F64, F64, F64, F64, F64, F64, 0x30107FFFFFFFF, F64, F64, 0xFFFFFFFF000000FF, F64, 0xFFFF, F64, F64, F64, F64, F64, F64], [0], 256, 0x200, 32, 8⟩,
   ⟨.fwVersion, 0xE0000, 64, [0x1FFFFFFFFFF], [0], 1, 0x1, 1, 1⟩,
   ⟨.fwOffer, 0xE0008, 64, [0xFFFF], [0], 1, 0x1, 1, 1⟩,
   ⟨.fwUpd, 0xE0010, 64, [F64, 0xF7FFFFF], [0], 1, 0x1, 2, 8⟩,
   ⟨.fwCfg, 0xE0020, 64, [0x1FFFFFF], [0], 1, 0x1, 1, 1⟩,
   ⟨.fwNeg, 0xE0100, 64, [0x1FFFFFFFFFFFF], [0x1000000000000], 16, 0x8, 1, 1⟩,
   ⟨.fwAgreed, 0xE0180, 64, [0xFFFFFFF], [0], 16, 0x8, 1, 1⟩,
   ⟨.logCfg, 0xE0200, 64, [F64, 0x31F], [0], 1, 0x1, 2, 8⟩,
   ⟨.traceEn, 0xE0210, 64, [0x3FF], [0], 1, 0x1, 1, 1⟩,
   ⟨.logCount, 0xE0218, 64, [F64], [0], 1, 0x1, 1, 1⟩,
   ⟨.pwrCfg, 0xE0300, 64, [0xFFF], [0], 1, 0x1, 1, 1⟩,
   ⟨.calFactory, 0xE0400, 32, [0xFFFF], [0], 16, 0x4, 1, 1⟩,
   ⟨.calUser, 0xE0440, 32, [0xFFFF], [0], 16, 0x4, 1, 1⟩,
   ⟨.partWin, 0xF0000, 64, [0xFFFFFFFFFFF000, 0xFFFFFFFFFFFFF000], [0], 64, 0x10, 2, 8⟩,
   ⟨.lcStatus, 0xF0400, 64, [0xF3F], [0x20], 1, 0x1, 1, 1⟩,
   ⟨.devId, 0xF0408, 64, [F64], [0], 1, 0x1, 1, 1⟩,
   ⟨.keyCtl, 0xF0410, 32, [0xFF0000FF], [0xFF0000FF], 1, 0x1, 1, 1⟩,
   ⟨.keyStatus, 0xF0418, 64, [0xFFFFFFFF00F3FFFF], [0x20000], 1, 0x1, 1, 1⟩,
   ⟨.keyPub, 0xF0420, 64, [F64], [0], 12, 0x8, 1, 1⟩,
   ⟨.keyXfer, 0xF0480, 64, [F64], [F64], 17, 0x8, 1, 1⟩,
   ⟨.keyNonce, 0xF0510, 64, [F64], [0], 16, 0x8, 1, 1⟩,
   ⟨.privetDeny, 0xF0600, 64, [F64], [0], 16, 0x8, 1, 1⟩,
   ⟨.unitHealth, 0xF0700, 64, [0x81FFFFFF0FFFFFFF, F64, 0xFF3F], [0], 1, 0x1, 3, 8⟩,
   ⟨.unitMask, 0xF0720, 64, [0x1FFFFFF0FFFFFFF, F64], [0x1FFFFFF0FFFFFFF, F64], 1, 0x1, 2, 8⟩,
   ⟨.bistCfg, 0xF0740, 64, [0xFFFF00F1], [0], 1, 0x1, 1, 1⟩,
   ⟨.bistTregion, 0xF0748, 64, [F64], [0], 1, 0x1, 1, 1⟩,
   ⟨.bistCount, 0xF0750, 64, [F64], [0], 4, 0x8, 1, 1⟩,
   ⟨.bistLogptr, 0xF0770, 64, [0xFFFFFFFF0000003F], [0], 1, 0x1, 1, 1⟩,
   ⟨.bistLog, 0xF0800, 64, [0x3FFFFFF1FFF, F64], [0], 64, 0x10, 2, 8⟩]

def regDefs : List RegDef := hwDefs ++ poolDefs ++ movDefs ++ fwDefs

/-- The entry of a definition in which an offset falls: run, register of the run and offset of the register. -/
def RegDef.hit (d : RegDef) (off : Nat) : Option (Nat × Nat × Nat) :=
  if off < d.base then none
  else
    let i := min ((off - d.base) / d.s1) (d.n1 - 1)
    let r := off - d.base - i * (if d.n1 = 1 then 0 else d.s1)
    let j := min (r / d.s2) (d.n2 - 1)
    let k := r - j * (if d.n2 = 1 then 0 else d.s2)
    if k < d.width / 8 then some (i, j, off - k) else none

/-- A register by offset: its definition, its place and its own offset; none at a reserved offset (R349). -/
structure Place where
  d : RegDef
  i : Nat
  j : Nat
  off : Nat
  deriving DecidableEq, Repr
def findReg : List RegDef → Nat → Option Place
  | [], _ => none
  | d :: r, off => match d.hit off with
    | some (i, j, o) => some ⟨d, i, j, o⟩
    | none => findReg r off
def locate (off : Nat) : Option Place := findReg (if off < 0x80000 then hwDefs else if off < 0x9E000 then poolDefs else if off < 0xC0000 then movDefs else fwDefs) off

/-- Bits of a register that are not reserved, and those in which a 1 acts. -/
def pickJ (l : List Nat) (j : Nat) : Nat := l.getD j (l.getLast?.getD 0)
def Place.mask (p : Place) : Nat := pickJ p.d.masks p.j
def Place.act (p : Place) : Nat := pickJ p.d.acts p.j

/-- Registers that accept only 64-bit writes (R351). -/
def atomicReg (r : Reg) : Bool := r = .chanDoorbell || r = .fwNeg

end Sys2Proof.Machine
end

