-- ==== Sys2Proof/Machine/RegRead.lean ====
section
/-!
DEFINITION. What every register of the window reads as: from `cfg` where software alone writes it, from the block's state elsewhere; write-only registers read as zero (R4).
-/

namespace Sys2Proof.Machine

/-- Codes of Table 2.3. -/
def ctxCode : CtxSt → Nat
  | .empty => 0
  | .loaded => 1
  | .active => 2
  | .stopping => 3
  | .stopped => 4
  | .halted => 5
  | .faulted => 6

/-- PRG_CTX_STATUS (Table 2.13). -/
def rdCtxStatus (s : State) (c : Nat) : Nat :=
  let v := s.ctx c
  pack [(0, 3, ctxCode v.st), (3, 1, b2n v.seq.isSome), (4, 4, v.seq.getD 0), (8, 1, v.aslot), (9, 1, b2n v.slot0.valid), (10, 1, b2n v.slot1.valid), (11, 1, b2n v.slot0.loading.isSome),
    (12, 1, b2n v.slot1.loading.isSome), (13, 2, v.plan.format), (16, 1, b2n v.exc), (17, 1, b2n v.dberr), (18, 1, b2n v.imgbusy), (19, 1, b2n v.loaderr), (24, 8, v.laststat),
    (32, 16, v.dbdrop)]

/-- A context image by 64-bit words (Table 2.1). Loop entries stand outermost first. -/
def imageWord (s : State) (c j : Nat) : Nat :=
  let v := s.ctx c
  if j < 16 then (tget v.g j 0).toNat
  else if j < 20 then let e := v.loops.reverse.getD (j - 16) (0, 0); pack [(0, 32, e.1), (32, 32, e.2)]
  else match j with
    | 20 => pack [(0, 32, v.pc), (32, 3, v.loops.length), (40, 1, v.aslot), (48, 2, v.plan.format)]
    | 21 => v.dlbase
    | 22 => pack [(0, 32, v.ladlePos), (32, 32, v.ladleStop)]
    | 23 => pack [(0, 8, v.left.1), (32, 32, v.left.2.1)]
    | 24 => v.left.2.2
    | 25 => min v.live.length 65535
    | 26 => bitsOf v.lastexc 63 0
    | 27 => bitsOf v.lastexc 127 64
    | 28 => bitsOf v.lastexc 191 128
    | 29 => bitsOf v.lastexc 255 192
    | 30 => v.step
    | 31 => v.instret
    | _ => 0
/-- The window of R42 is open. -/
def imageOpen (s : State) (c : Nat) : Bool := (s.ctx c).st ≠ .active && (s.ctx c).st ≠ .stopping

/-- Fields of status registers of the movers and of synchronisation (Tables 7.7 to 7.9, 9.5 to 9.7). -/
def rdChanStatus (s : State) (ch : Nat) : Nat :=
  let v := s.chan ch
  pack [(0, 3, v.st), (8, 5, v.chains.length), (16, 1, b2n v.dberr), (32, 16, v.dbdrop)]
def rdLine (s : State) (l : Nat) : Nat :=
  let v := s.line l
  pack [(0, 1, b2n v.level), (1, 1, b2n v.armed), (2, 1, b2n v.banked), (3, 1, b2n v.stuck), (16, 16, v.overrun)]
def rdSem (s : State) (n : Nat) : Nat :=
  let v := s.sem n
  pack [(0, 16, v.val), (16, 1, b2n v.sat), (17, 1, b2n v.hol), (18, 1, b2n v.lost), (19, 1, b2n (v.q ≠ []))]
def rdRing (s : State) (n : Nat) : Nat :=
  let v := s.ring n
  pack [(0, 16, v.head), (16, 16, v.tail), (32, 11, ringCount' v), (43, 1, b2n (v.pushq ≠ [])), (44, 1, b2n (v.popq ≠ []))]
def rdCluster (s : State) (k : Nat) : Nat :=
  let st := if !clusterUsable s k || (s.cluster k).st = 3 then 3 else if (s.cluster k).st = 2 then 2 else if underTest s 2 k then 1 else 0
  let mine := (clusOps s k).filter fun o => o.chan.any fun ch => !(s.chan ch).hostq
  let quar := ((s.tags.filter fun t => t.orphan && t.wr && t.clus = some k).map fun t => (t.tier, t.addr / 4096)).dedup
  pack [(0, 14, clusTags s k), (14, 2, st), (16, 8, (mine.length + 31) / 32), (32, 32, min quar.length (2 ^ 32 - 1))]
def rdNode (s : State) (n j : Nat) : Nat :=
  if j = 0 then nodeWord s n
  else
    let came := (s.node n).arrived.map fun a => a.1
    let bit := fun (i : Nat) => b2n ((kidSlots s n).contains i && came.contains (if nodeLeaf s n then bitsOf (childWord s n i) 7 0 else i)) * 2 ^ i
    ((List.range 16).map bit).foldl (· + ·) 0 + b2n (s.node n).verifying * 2 ^ 16
def rdPeers (s : State) : Nat := let l := downPeers s; pack [(0, 17, l.length), (32, 16, match l with
  | [] => 0
  | a :: r => r.foldl min a)]

/-- Ports, host, firmware (Tables 10.16 to 10.18, 11.11, 11.12). -/
def rdBlock (s : State) : Nat := pack [(0, 1, b2n s.ready), (1, 1, b2n s.dirzero), (2, 1, b2n s.droopOn), (4, 2, s.lastrst), (32, 16, s.droops)]
def rdHost (s : State) : Nat :=
  let h := s.hostl
  pack [(0, 1, b2n h.detached), (1, 1, h.ioPort), (2, 2, h.hp0mode), (4, 2, h.hp1mode), (6, 1, b2n h.reatterr), (8, 2, h.detachCause), (16, 16, h.detaches)]
def rdPort (s : State) (n : Nat) : Nat :=
  let v := s.port n
  pack [(0, 2, v.st), (2, 2, v.rev), (4, 4, v.cause), (16, 16, v.err), (32, 8, v.proto), (40, 8, v.rsttmo), (48, 16, v.tmo)]
def rdFwStatus (s : State) : Nat :=
  let f := s.fw
  let up := ((List.range coreCount).map fun n => b2n (s.core n).up * 2 ^ n).foldl (· + ·) 0
  pack [(0, 2, f.st), (2, 1, f.slot), (3, 1, b2n f.staged), (4, 1, b2n f.accepted), (5, 1, b2n (shadow s)), (16, 11, up), (32, 8, f.setver), (40, 9, f.wrq.length)]
def rdCore (s : State) (n : Nat) : Nat := let v := s.core n; pack [(0, 2, b2n !v.up), (4, 4, v.cause), (16, 16, v.restarts)]
def rdTherm (s : State) : Nat := pack [(0, 16, (s.fw.temp % 65536).toNat), (16, 2, s.fw.level), (32, 16, s.fw.onsets), (48, 16, s.fw.stops)]
def rdLease (s : State) (l : Nat) : Nat :=
  let v := s.lock l
  pack [(0, 4, v.holder.getD 15), (16, 16, if v.holder.isSome then (v.expires - s.now) / 10000 else 0), (32, 32, v.expiries)]
def rdVersion (s : State) : Nat := match runImage s with
  | some im => pack [(0, 16, im.release.toNat), (16, 8, im.ifMin.toNat), (24, 8, im.ifMax.toNat), (32, 8, im.setWrite.toNat), (40, 1, s.fw.slot)]
  | none => 0
def rdOffer (s : State) : Nat := match runImage s with
  | some im => offerOf im
  | none => 0

/-- A tap as PRG_WATCH_DATA shows it (Table 13.10). -/
def tapWord (v : Tap) (j : Nat) : Nat := match j with
  | 0 => pack [(0, 32, v.hdl), (32, 4, v.stat), (36, 1, b2n v.digest), (37, 1, b2n v.armed), (40, 4, v.part), (44, 5, v.hist.length)]
  | 1 => pack [(0, 32, v.samples), (32, 32, v.skipped)]
  | 2 => v.count
  | 3 => v.nonfin
  | 4 => pack [(0, 32, v.min), (32, 32, v.max)]
  | 5 => pack [(0, 32, v.sum), (32, 32, v.mean)]
  | 6 => v.crc
  | _ => v.time

/-- Slots, sets, shares, groups as their windows show them (Tables 5.9, 6.9, 6.11, 8.5, 8.7, 9.5). -/
def rdSlot (s : State) (j : Nat) : Nat :=
  let n := reg s 0x98008
  let v := s.slot n
  match j with
  | 0 => pack [(0, 1, b2n v.valid), (1, 1, b2n v.digest), (2, 1, b2n (v.owner ≠ 0)), (8, 8, v.clmask), (16, 8, v.capmask), (24, 4, v.inputs.length), (32, 32, v.body)]
  | 1 => pack [(0, 32, if v.owner = 0 then 0 else handleOf s v.owner), (32, 21, slotRefs s n)]
  | 2 => pack [(0, 32, v.exec), (32, 32, v.meas)]
  | _ => v.outlen
def rdHsetState (v : HSet) : Nat := pack [(0, 8, (v.applied % 256).toNat), (8, 4, v.ptr), (32, 32, v.count)]
def rdShare (s : State) (j : Nat) : Nat := match s.shareSnap with
  | none => 0
  | some v => match j with
    | 0 => pack [(0, 32, v.hdl), (32, 4, v.fmt), (36, 4, v.part), (40, 1, 1)]
    | 1 => v.elems
    | 2 => pack [(0, 32, min v.ovf (2 ^ 32 - 1)), (32, 32, min v.unf (2 ^ 32 - 1))]
    | _ => min v.nonfin (2 ^ 32 - 1)
def TGrp.word (t : TGrp) (j : Nat) : Nat := match j with
  | 0 => t.w0
  | 1 => t.w1
  | 2 => t.w2
  | _ => t.w3
def tgrpState (t : TGrp) (j : Nat) : Nat := match j with
  | 0 => pack [(0, 32, t.nextseq), (32, 32, t.stale)]
  | 1 => pack [(0, 32, t.lateAdded), (32, 32, t.lateDropped)]
  | 2 => pack [(0, 32, t.rejected), (32, 16, t.lastSender)]
  | _ => t.lastStep
def rdBarState (s : State) (j : Nat) : Nat :=
  let g := reg s 0xB3000
  let v := s.bar g
  if j = 0 then pack [(0, 32, v.gen), (32, 16, if barValid s g then (s.node (barLeaf s g)).arrived.length else 0)] else pack [(0, 32, v.mism), (32, 32, v.generr)]

/-- Units, lifecycle, keys, self-test (Tables 12.9 to 12.11). -/
def rdHealth (s : State) (j : Nat) : Nat :=
  let b := s.bist
  match j with
  | 0 => pack [(0, 16, b.seqs), (16, 8, b.clusters), (24, 4, b.aes), (32, 16, b.dcSlices), (48, 8, b.sensors), (56, 1, b2n b.clk), (63, 1, b2n b.fatal)]
  | 1 => b.banks
  | _ => pack [(0, 6, reserveBank s), (8, 8, b.repairs)]
def rdLc (s : State) : Nat := let l := s.lc; pack [(0, 3, l.inForce), (3, 1, b2n l.dukKill), (4, 1, b2n l.pending), (5, 1, b2n l.lcerr), (8, 4, l.cause)]
def rdKeyStatus (s : State) : Nat :=
  let valid := ((List.range 16).map fun p => b2n (s.part p).keyValid * 2 ^ p).foldl (· + ·) 0
  pack [(0, 16, valid), (16, 1, b2n (s.lc.keyBusy.isSome || s.lc.rmBusy.isSome)), (17, 1, b2n s.lc.keyerr), (20, 4, s.lc.keyCause), (32, 32, s.lc.installs)]
/-- A satellite's cluster has an absent satellite (R169): eight a cluster. -/
def encdegMask (s : State) : Nat := ((List.range 8).map fun c => b2n (bitsOf s.sat.present (8 * c + 7) (8 * c) ≠ 255) * 2 ^ c).foldl (· + ·) 0
def bitSum (n : Nat) (f : Nat → Bool) : Nat := ((List.range n).map fun i => b2n (f i) * 2 ^ i).foldl (· + ·) 0

/-- A register of the hardware region: entry i of an array, word j of an entry. -/
def readHw (s : State) (r : Reg) (i j : Nat) : Nat :=
  match r with
  | .id => 0x0000000101024100
  | .hrwErr => pack [(0, 1, b2n s.badacc), (1, 1, b2n s.rsvwr), (8, 2, s.errKind), (16, 16, s.errCount), (32, 20, s.errOff)]
  | .ctxStatus => rdCtxStatus s i
  | .chanStatus => rdChanStatus s i
  | .partState => (s.part i).st
  | .cqPtr => pack [(0, 32, (s.cq i).head), (32, 32, (s.cq i).tail)]
  | .cqInt => bitSum 64 fun k => s.cqInt.contains (64 * i + k)
  | .plStatus => rdLine s i
  | .sem => rdSem s i
  | .ringStatus => rdRing s i
  | .ringSel => reg s 0x42000
  | .ringEntry => tget s.ringStore (reg s 0x42000) 0
  | .blockStatus => rdBlock s
  | .resetStatus => bitSum 16 fun p => (s.part p).resetting
  | .hostStatus => rdHost s
  | .portStatus => rdPort s i
  | .fwStatus => rdFwStatus s
  | .fwEvent => s.fw.event
  | .fwCore => rdCore s i
  | .logPtr => pack [(0, 32, s.fw.logPtr.head), (32, 32, s.fw.logPtr.tail)]
  | .thermStatus => rdTherm s
  | .clkStatus => pack [(0, 12, s.fw.mhz), (16, 12, s.fw.reqMhz)]
  | .lease => rdLease s i
  | .evqPtr => pack [(0, 32, (s.evq i).head), (32, 32, (s.evq i).tail)]
  | .evqInt => s.evInt
  | .cntWin => tget s.cntWin (8 * i) 0
  | .tracePtr => pack [(0, 32, (s.part i).traceRing.head), (32, 32, (s.part i).traceRing.tail)]
  | .watchSel => reg s 0x70900
  | .watchData => tapWord s.tapWin j
  | .gcntWin => tget s.gcntWin (8 * i) 0
  | _ => 0

/-- A register of the emulated region that the block, and not `cfg`, holds; none for the others. -/
def readEmu (s : State) (r : Reg) (i j : Nat) : Option Nat :=
  match r with
  | .poolCap => some (if i < 3 then capacity s i else 0)
  | .poolUsed => some (used s i j)
  | .dirUsed => some (dirUsed s i)
  | .ageNow => some (wNow s)
  | .ctxInfo => let v := (s.ctx i).slotAt j; some (pack [(0, 32, v.handle), (32, 8, v.format), (40, 1, b2n v.valid)])
  | .ctxDigest => some ((s.ctx i).slotAt j).digest
  | .budBal => some (pack [(0, 32, (balance s i j % 2 ^ 32).toNat), (32, 32, tget (s.part i).issuedLast j 0)])
  | .budCtl => let v := s.part i; some (pack [(0, 1, v.budActive), (1, 1, b2n v.budDirty), (2, 1, b2n v.budForce), (3, 1, b2n v.slackEn)])
  | .satStatus => some (bitSum 7 fun k => satBit s k)
  | .dlCount => some (tget (s.part i).dl j 0)
  | .copInfo => some (rdSlot s j)
  | .copStatus => some (pack [(0, 7, inDispatch s), (8, 8, bitSum 8 fun c => copUp s c), (16, 8, bitSum 8 fun c => tget s.baseHeld c 0 ≠ 0), (32, 32, s.copProto)])
  | .copCount => some (tget (s.part i).cop j 0)
  | .sieveStatus => some s.bist.lanes
  | .satPresent => some s.sat.present
  | .satFixed => some s.sat.fixed
  | .satLink => some (pack [(0, 8, encdegMask s), (32, 32, s.sat.satcrc)])
  | .sieveErr => some (pack [(0, 32, s.sieveErrCrc), (32, 32, s.sieveErrOther)])
  | .codecBytes => some (if j = 0 then (s.part i).codecRaw else (s.part i).codecStored)
  | .hsetCfg => some (if reg s 0x9A280 = 0 then 0 else (s.hset (reg s 0x9A280)).cfg)
  | .hsetState => some (if reg s 0x9A280 = 0 then 0 else rdHsetState (s.hset (reg s 0x9A280)))
  | .hsetAmax => some (if reg s 0x9A280 = 0 then 0 else tget (s.hset (reg s 0x9A280)).amax i 0)
  | .shareData => some (rdShare s j)
  | .shareFull => some (s.part i).shareFull
  | .shareTot => some (tget s.shareTot (64 * i + j) 0)
  | .chanCfg => some (pack [(0, 1, b2n (s.chan i).hostq), (4, 4, (s.chan i).part)])
  | .movCluster => some (rdCluster s i)
  | .movPending => some (pack [(0, 13, pendHeld s), (16, 13, pushesWaiting s)])
  | .movCount => some (tget (s.part i).mov j 0)
  | .cqCfg => some (if j = 0 then (s.cq i).base else (s.cq i).cfg + b2n (s.cq i).full * 2 ^ 32 + b2n (s.pend.any fun r => r.q = i) * 2 ^ 33)
  | .tgrpCfg => some ((s.tgrp (reg s 0xB0000)).word j)
  | .tgrpState => some (tgrpState (s.tgrp (reg s 0xB0000)) j)
  | .nf => some (pack [(0, 4, (s.part i).nf), (32, 32, (s.part i).nfCount)])
  | .ringCfg => some (s.ring i).cfg
  | .barCfg => some (s.bar (reg s 0xB3000)).cfg
  | .barState => some (rdBarState s j)
  | .peerStatus => some (rdPeers s)
  | .peerCount => some (tget s.peerCnt i 0)
  | .hawNode => some (rdNode s i j)
  | .atsCount => let a := s.hostl.ats; some (match i with
      | 0 => a.misses
      | 1 => a.pageReqs
      | 2 => a.failures
      | _ => a.invals)
  | .evqCfg => some (if j = 0 then (s.evq i).base else (s.evq i).cfg + b2n ((s.evq i).held ≠ []) * 2 ^ 32 + b2n ((s.evq i).counts ≠ []) * 2 ^ 33)
  | .traceDrop => some (s.part i).traceRing.drop
  | .wfgStatus => let v := s.part i; some (pack [(0, 1, b2n v.wfgBusy), (1, 1, b2n v.wfgRebuild), (32, 16, v.wfgSkip), (48, 16, v.wfgBuilds)])
  | .ctxImage => some (if imageOpen s i then imageWord s i j else 0)
  | .fwVersion => some (rdVersion s)
  | .fwOffer => some (rdOffer s)
  | .fwNeg => some (s.part i).neg
  | .fwAgreed => let v := s.part i; some (pack [(0, 16, v.agreed), (16, 8, v.ifver), (24, 4, v.negerr)])
  | .logCount => some (pack [(0, 32, s.fw.logDrop), (32, 32, s.fw.logWritten)])
  | .calFactory => some (Config.calFactory i % 65536).toNat
  | .lcStatus => some (rdLc s)
  | .devId => some (if s.lc.inForce = 0 then 0 else s.lc.ident.toNat)
  | .keyStatus => some (rdKeyStatus s)
  | .keyPub => some (Config.keyPub (dukNow s) / 2 ^ (64 * i) % 2 ^ 64)
  | .keyNonce => some (s.part i).nonce
  | .privetDeny => some (s.part i).deny
  | .unitHealth => some (rdHealth s j)
  | .bistCount => let b := s.bist; some (match i with
      | 0 => b.run
      | 1 => b.passed
      | 2 => b.failed
      | _ => b.deferred)
  | .bistLogptr => some (pack [(0, 6, s.bist.logNext), (32, 32, s.bist.logCount)])
  | .bistLog => let e := tget s.bist.log i (0, 0); some (if j = 0 then e.1 else e.2)
  | .relink | .keyCtl | .keyXfer => some 0
  | _ => none

/-- What a register reads as. -/
def readReg (s : State) (p : Place) : Nat :=
  if p.off < 0x80000 then readHw s p.d.reg p.i p.j
  else match readEmu s p.d.reg p.i p.j with
    | some v => v
    | none => reg s p.off

/-- The kind of a malformed access (R351): 1 size, 2 alignment, 3 half of an atomic register; 0 for one that is well formed. -/
def accessKind (off width : Nat) (wr : Bool) : Nat :=
  if width ≠ 32 ∧ width ≠ 64 then 1
  else if off % (width / 8) ≠ 0 then 2
  else match locate off with
    | none => 0
    | some p => if p.d.width < width then 1 else if wr ∧ width = 32 ∧ atomicReg p.d.reg then 3 else 0

/-- Registers that answer before READY (R289). -/
def early (off : Nat) : Bool := off < 0x10 || (0x50000 ≤ off && off < 0x50008)
/-- A read of the window (R289, R349, R351): malformed reads and reads of reserved offsets give 0. -/
def hostRead (s : State) (off width : Nat) : Nat :=
  if accessKind off width false ≠ 0 ∨ (!s.ready && !early off) then 0
  else match locate off with
    | none => 0
    | some p => bitsOf (readReg s p) (8 * (off - p.off) + width - 1) (8 * (off - p.off))

/-- What a well-formed read sets: IMGBUSY, where the window of a context image is closed (R42). No read changes another register. -/
def hostReadSets (s : State) (off : Nat) : State := match locate off with
  | some p => if p.d.reg = .ctxImage ∧ !imageOpen s p.i then s.modCtx p.i fun v => { v with imgbusy := true } else s
  | none => s

end Sys2Proof.Machine
end

