-- ==== Sys2Proof/Machine/RegJudge.lean ====
section
/-!
DEFINITION. Writes of registers whose chapter judges the value: what each changes, and when it is ignored.
-/

namespace Sys2Proof.Machine

/-- W1C: the bits of a word less those written as 1. -/
def wipe1 (w v : Nat) : Nat := w - (w &&& v)

/-- A context of the partition is ACTIVE or STOPPING. -/
def partActive (s : State) (p : Nat) : Bool := (partCtxs s p).any fun c => (s.ctx c).st = .active || (s.ctx c).st = .stopping

/-- A resource range of R70: inside its total, clear of other partitions' ranges, and holding the old one while a context of the partition is ACTIVE or STOPPING. -/
def resRangeOk (s : State) (p : Nat) (base count : Nat → Nat) (total b n : Nat) : Bool :=
  b + n ≤ total && (List.range 16).all (fun q => q = p || !meets b n (base q) (count q)) && (!partActive s p || count p = 0 || (b ≤ base p && base p + count p ≤ b + n))
/-- PRG_PART_RES (R70, Table 2.15). -/
def resOk (s : State) (p j v : Nat) : Bool :=
  match j with
  | 0 => resRangeOk s p (semBase s) (semCount s) 8192 (bitsOf v 12 0) (bitsOf v 45 32)
  | 1 => resRangeOk s p (ringBase s) (ringCount s) 1024 (bitsOf v 9 0) (bitsOf v 42 32)
  | 2 => resRangeOk s p (rcpBase s) (rcpCount s) 16384 (bitsOf v 13 0) (bitsOf v 46 32)
  | _ => resRangeOk s p (cqBase s) (cqCount s) 4096 (bitsOf v 11 0) (bitsOf v 24 12) && resRangeOk s p (plBase s) (plCount s) 256 (bitsOf v 39 32) (bitsOf v 48 40)

/-- The sum of a register array's other entries. -/
def sumOthers (s : State) (p : Nat) (off : Nat → Nat) : Nat := ((List.range 16).map fun q => if q = p then 0 else reg s (off q)).foldl (· + ·) 0
/-- PRG_DIR_QUOTA (R13). -/
def quotaFits (s : State) (p v : Nat) : Bool := sumOthers s p (fun q => 0x84500 + 4 * q) + v ≤ 2097151
/-- PRG_POOL_FLOOR (R30). -/
def floorFits (s : State) (p t v : Nat) : Bool := sumOthers s p (fun q => 0x84100 + 0x20 * q + 8 * t) + v ≤ capacity s t
/-- PRG_WATCH_ALLOW (R338). -/
def allowFits (s : State) (p v : Nat) : Bool := sumOthers s p (fun q => 0xB9600 + 4 * q) + v ≤ 512 && armedTaps s p ≤ v

/-- Extents of objects and operations in a tier, with their partitions. -/
def extentsIn (s : State) (t : Nat) : List (Nat × Nat × Nat) :=
  (s.objs.flatMap fun e => let o := e.2
    (if o.home = t ∧ 0 < o.resv then [(o.part, tqaOff o.homeaddr, o.resv)] else []) ++ (if o.dest = t ∧ 0 < o.dresv then [(o.part, tqaOff o.destaddr, o.dresv)] else [])) ++
  s.runs.flatMap fun r => if r.tier = t then [(r.part.getD 16, r.off, r.len)] else []
/-- A window that would hold something it may not (R321): in T3, extents of the partition must stay inside. -/
def winPlaced (s : State) (p t b n : Nat) : Bool :=
  let others := ((List.range 16).filter fun q => q ≠ p)
  let pasid := fun (q : Nat) => bitOf (reg s (0xB8100 + 8 * q)) 20
  if t = 3 then
    n ≤ 2 ^ 42 && b + n ≤ 2 ^ 56 && others.all (fun q => (pasid p && pasid q) || !meets b n (winBase s q 3) (winSize s q 3)) &&
      (extentsIn s 3).all fun e => e.1 ≠ p || (b ≤ e.2.1 && e.2.1 + e.2.2 ≤ b + n)
  else
    let fixed := match t with
      | 0 => (List.range 64).flatMap fun k => if !bankUsable s k || k = reserveBank s then [(k * Config.bankSize, Config.bankSize)] else []
      | 1 => [(0, Config.dirRegion)]
      | _ => []
    n = 0 || (b + n ≤ regionSize s t && others.all (fun q => !meets b n (winBase s q t) (winSize s q t)) && fixed.all (fun f => !meets b n f.1 f.2) &&
      (extentsIn s t).all fun e => !meets b n e.2.1 e.2.2)
/-- The pool keeps room for its charges and its floors (R321). -/
def poolRoom (s : State) (t : Nat) : Bool :=
  let tot := match t with
    | 0 => ((List.range 64).filter (bankUsable s)).length * Config.bankSize - Config.bankSize
    | 1 => s.t1Size - Config.dirRegion
    | _ => s.t2Size
  let all := fun (f : Nat → Nat) => ((List.range 16).map f).foldl (· + ·) 0
  t = 3 || (winBytes s t + all (fun q => used s q t) ≤ tot && winBytes s t + all (fun q => reg s (0x84100 + 0x20 * q + 8 * t)) ≤ tot)
/-- A partition's windows may change (R321). -/
def winFree (s : State) (p : Nat) : Bool := !partActive s p && (partChans s p).all fun ch => let st := (s.chan ch).st; st ≠ 1 && st ≠ 2 && st ≠ 3
/-- A write of PRG_PART_WIN (R321). i is 4·p + t; word 0 is BASE, word 1 SIZE. -/
def winPut (s : State) (i j off v : Nat) : State :=
  let p := i / 4
  let t := i % 4
  let u := setReg s off v
  if j < 2 ∧ winFree s p ∧ winPlaced s p t (winBase u p t) (winSize u p t) ∧ poolRoom u t then u else s

/-- Every queue and ring that a change of windows or ranges may have made writable. -/
def drainAll (s : State) : State := logDrain logBufSize ((List.range 17).foldl (fun s q => evDrain 128 s q) (cqDrainAll s))

/-- A ring of records is set up anew (R192): BASE and LOG2SIZE change only while it may, and HEAD and TAIL go back to 0. `low` is the register without LOG2SIZE. -/
structure Setup where
  base : Nat
  cfg : Nat
  fresh : Bool
  deriving DecidableEq, Repr
def setup (base cfg j v mask : Nat) (may : Bool) : Setup :=
  if j = 0 then if v ≠ base ∧ may then ⟨v, cfg, true⟩ else ⟨base, cfg, false⟩
  else
    let lo := v &&& mask
    if bitsOf lo 4 0 = bitsOf cfg 4 0 then ⟨base, lo, false⟩
    else if may then ⟨base, lo, true⟩
    else ⟨base, lo - bitsOf lo 4 0 + bitsOf cfg 4 0, false⟩

/-- PRG_CQ_CFG (R192, Table 7.8). -/
def cqCfgPut (s : State) (q j v : Nat) : State :=
  let c := s.cq q
  let u := setup c.base c.cfg j v 0x7FF011F (c.head = c.tail && !pendHas s q)
  let c := { c with base := u.base, cfg := u.cfg, full := c.full && !(j = 1 && bitOf v 32), head := if u.fresh then 0 else c.head, tail := if u.fresh then 0 else c.tail }
  cqDrainAll (s.setCq q c)
/-- PRG_EVQ_CFG (R333, Table 13.11). -/
def evqCfgPut (s : State) (q j v : Nat) : State :=
  let e := s.evq q
  let u := setup e.base e.cfg j v 0x7FF071F (e.head = e.tail)
  evDrain 128 (s.setEvq q { e with base := u.base, cfg := u.cfg, head := if u.fresh then 0 else e.head, tail := if u.fresh then 0 else e.tail }) q
/-- PRG_TRACE_CFG (R344). -/
def traceCfgPut (s : State) (p j v : Nat) : State :=
  let b := 0xB9200 + 0x10 * p
  let pt := (s.part p).traceRing
  let u := setup (reg s b) (reg s (b + 8)) j v 0xFF1F (pt.head = pt.tail)
  let s := setReg (setReg s b u.base) (b + 8) u.cfg
  if u.fresh then s.modPart p fun q => { q with traceRing := { pt with head := 0, tail := 0 } } else s
/-- PRG_LOG_CFG (R305). -/
def logCfgPut (s : State) (j v : Nat) : State :=
  let pt := s.fw.logPtr
  let u := setup (reg s 0xE0200) (reg s 0xE0208) j v 0x31F (pt.head = pt.tail)
  let s := setReg (setReg s 0xE0200 u.base) 0xE0208 u.cfg
  logDrain logBufSize (if u.fresh then { s with fw := { s.fw with logPtr := { pt with head := 0, tail := 0 } } } else s)

/-- HEAD of an event queue, a trace ring, the log ring (R192, R305, R336, R344); a write out of order is counted for the partition. -/
def evqHead (s : State) (q head : Nat) : State :=
  let e := s.evq q
  if headOk e.head e.tail head then evDrain 128 (s.setEvq q { e with head := head }) q
  else if q < 16 then movAdd s q 2 1 else s
def traceHead (s : State) (p head : Nat) : State :=
  let t := (s.part p).traceRing
  if headOk t.head t.tail head then s.modPart p fun v => { v with traceRing := { t with head := head } } else movAdd s p 2 1
def logHead (s : State) (head : Nat) : State :=
  let t := s.fw.logPtr
  if headOk t.head t.tail head then logDrain logBufSize { s with fw := { s.fw with logPtr := { t with head := head } } } else s

/-- PRG_RING_CFG (R240). -/
def ringCfgOk (s : State) (n v : Nat) : Bool :=
  let r : Ring := { cfg := v }
  let d := ringDepth r
  let old := s.ring n
  bitsOf v 3 0 ≤ 10 && ringStart r + d ≤ 65536 && (ringCount' old = 0 && old.popq = [] && old.pushq = []) &&
    s.rings.all fun e => e.1 = n || !meets (ringStart r) d (ringStart e.2) (ringDepth e.2)
/-- Ring pointers and ring-store entries are writable while the owning partition is DISABLED (R255). -/
def ringOpen (s : State) (n : Nat) : Bool := match ringOwner s n with
  | some p => (s.part p).st = 3
  | none => false
/-- The configured ring that holds a ring-store entry. -/
def entryRing (s : State) (e : Nat) : Option Nat := (s.rings.find? fun r => ringStart r.2 ≤ e && e < ringStart r.2 + ringDepth r.2).map fun r => r.1
def ringPtrPut (s : State) (n v : Nat) : State := if ringOpen s n then s.setRing n { s.ring n with head := bitsOf v 15 0, tail := bitsOf v 31 16 } else s
def ringEntryPut (s : State) (v : Nat) : State :=
  let e := reg s 0x42000
  if (entryRing s e).any (ringOpen s) then { s with ringStore := tset s.ringStore e v } else s

/-- PRG_JOB_CFG (R242). -/
def jobOk (s : State) (p v : Nat) : Bool :=
  bitsOf v 15 0 ≤ bitsOf v 31 16 && (!bitOf v 48 || (List.range 16).all fun q => q = p || !bitOf (reg s (0xB3500 + 8 * q)) 48 || bitsOf (reg s (0xB3500 + 8 * q)) 47 32 ≠ bitsOf v 47 32)
/-- Every carrier that a group's nodes, children and parents name is in the partition's job (R242). -/
def carriersOk (s : State) (p g : Nat) : Bool :=
  (nodesOf s g).all fun n => (nodeRoot s n || inJob s p (nodePcarr s n)) && (nodeLeaf s n || (kidSlots s n).all fun i => inJob s p (bitsOf (childWord s n i) 15 0))
/-- PRG_BAR_CFG (R242, R243) of the selected group. -/
def barPut (s : State) (g v : Nat) : State :=
  let b := s.bar g
  let leaf := bitsOf v 21 16
  if bitOf v 0 then
    if nodeValid s leaf ∧ nodeLeaf s leaf ∧ nodeGrp s leaf = g ∧ carriersOk s (bitsOf v 7 4) g then
      ((nodesOf s g).foldl (fun s n => s.setNode n {}) s).setBar g { b with cfg := v, gen := 0 }
    else s
  else if bitOf b.cfg 0 ∧ s.ctxs.any (fun e => e.2.waitKind = 2 && e.2.waitOn = g) then s
  else s.setBar g { b with cfg := v }
/-- A node or child entry whose group is valid does not change (R243). -/
def nodeFixed (s : State) (n : Nat) : Bool := nodeValid s n && barValid s (nodeGrp s n)

/-- Word 0 of PRG_TGRP_CFG (R211): CFGERR is the hardware's. -/
def tgrpPut (s : State) (g v : Nat) (r : RdRes) : State :=
  let t := s.tgrp g
  let err := bitsOf t.w0 23 20
  let body := v - bitsOf v 23 20 * 2 ^ 20
  if t.valid then
    if bitOf v 0 ∨ (gatherOn s g).isSome ∨ (landOn s g).isSome then s else s.setTgrp g { t with w0 := body + err * 2 ^ 20 }
  else if !bitOf v 0 then s.setTgrp g { t with w0 := body + err * 2 ^ 20 }
  else
    let u : TGrp := { t with w0 := body }
    let e := grpErr s u (r ≠ .ok)
    let s := if e = 2 ∧ !inWindow s u.part u.w3 (8 * u.count) then deny s u.part 11 g u.w3 else s
    s.setTgrp g (if e = 0 then { w0 := body, w1 := t.w1, w2 := t.w2, w3 := t.w3 } else { u with w0 := body - 1 + e * 2 ^ 20 })
/-- Words 1 to 3. -/
def tgrpWord (s : State) (g j v : Nat) : State :=
  let t := s.tgrp g
  s.setTgrp g (match j with
    | 1 => { t with w1 := v }
    | 2 => { t with w2 := v }
    | _ => { t with w3 := v })

/-- PRG_HSET_CFG of the selected set (R179, R180, Table 6.10). -/
def hsetPut (s : State) (h v : Nat) : State :=
  if h = 0 ∨ (bitOf v 0 ∧ bitsOf v 11 8 ≠ 2 ∧ bitsOf v 11 8 ≠ 3) then s
  else
    let m := s.hset h
    let cfg := wipe1 v 65536
    if bitOf v 16 ∧ !hsetBusy s h then s.setHset h (clearHset { m with cfg := cfg })
    else s.setHset h { m with cfg := cfg + if bitOf v 16 ∨ bitOf m.cfg 16 then 65536 else 0 }

/-- Both halves of a budget entry clipped to its ceilings (R124). -/
def clipBud (s : State) (p k v : Nat) : Nat :=
  let c := reg s (0x92000 + 0x100 * p + 8 * k)
  min (bitsOf v 31 0) (bitsOf c 31 0) + min (bitsOf v 63 32) (bitsOf c 63 32) * 2 ^ 32
/-- PRG_BUDGET_TABLE and PRG_OPT_CFG (R124, R130, Table 8.6): i is 2·p + b; the active bank takes no write, the other sets DIRTY. -/
def bankPut (s : State) (i off v : Nat) : State :=
  if i % 2 = (s.part (i / 2)).budActive then s else (setReg s off v).modPart (i / 2) fun q => { q with budDirty := true }

/-- PRG_CTX_CFG (R37): PART changes only while the context is EMPTY. -/
def ctxCfgPut (s : State) (c off v : Nat) : State := setReg s off (if (s.ctx c).st = .empty then v else v - bitsOf v 3 0 + ctxPart s c)
/-- PRG_CTX_IMAGE (R42). -/
def imagePut (s : State) (c j v : Nat) : State :=
  if !imageOpen s c then s.modCtx c fun x => { x with imgbusy := true }
  else if j < 16 then setG s c j v
  else if j = 21 then s.modCtx c fun x => { x with dlbase := v }
  else if j = 30 then s.modCtx c fun x => { x with step := v }
  else s
/-- PRG_DL_CFG (Table 4.10). -/
def dlCfgClip (v : Nat) : Nat := v - bitsOf v 20 4 * 16 + min (bitsOf v 20 4) 65536 * 16
/-- PRG_CAL_USER (R308). -/
def calPut (s : State) (e off v : Nat) : State :=
  let (w, clamped) := calClamp e v
  let s := if clamped then fwFlag s 7 0x28 0 0 e else s
  calApply (setReg s off w)

/-- PRG_CTX_DOORBELL (Table 2.12, R50): other values of CMD are refused. -/
def ctxBell (s : State) (c v : Nat) : State :=
  let cmd := bitsOf v 3 0
  if 1 ≤ cmd ∧ cmd ≤ 7 then doorbell s c ⟨cmd, bitsOf v 4 4, bitsOf v 31 8⟩ else s.modCtx c fun x => { x with dberr := true, dbdrop := satAdd 16 x.dbdrop 1 }
/-- PRG_CTX_STATUS, W1C (Table 2.13). -/
def ctxStatusPut (s : State) (c v : Nat) : State :=
  s.modCtx c fun x => { x with exc := x.exc && !bitOf v 16, dberr := x.dberr && !bitOf v 17, imgbusy := x.imgbusy && !bitOf v 18, loaderr := x.loaderr && !bitOf v 19 }
/-- PRG_CHAN_CTL, PRG_PART_CTL, PRG_PORT_CTL. -/
def chanCtlPut (s : State) (ch v : Nat) : State := match v with
  | 1 => chanEnable s ch
  | 2 => chanDisable s ch false
  | 3 => chanDisable s ch true
  | _ => s
def partCtlPut (s : State) (p v : Nat) : State := match v with
  | 1 => partEnable s p
  | 2 => partDisable s p false
  | 3 => partDisable s p true
  | _ => s
def portCtlPut (s : State) (n v : Nat) : State := match v with
  | 1 => resetPort s n
  | 2 => retirePort s n 3
  | 3 => restorePort s n
  | _ => s
/-- PRG_FW_CTL and PRG_KEY_CTL act only with CONFIRM 0x5A. -/
def fwCtlPut (s : State) (v : Nat) : State :=
  if bitsOf v 31 24 ≠ 0x5A then s
  else match bitsOf v 3 0 with
    | 1 => restartCmd s (bitsOf v 7 4)
    | 2 => update s
    | 3 => switchSlot s
    | 4 => discard s
    | _ => s
def keyCtlPut (s : State) (v : Nat) : State := if bitsOf v 31 24 = 0x5A then keyCommand s (bitsOf v 3 0) (bitsOf v 7 4) else s
/-- PRG_RESET_CTL KIND 2 (R288). KIND 1 carries a power-up and has its own row. -/
def resetCtlPut (s : State) (v : Nat) : State := if bitsOf v 31 24 = 0x5A ∧ bitsOf v 1 0 = 2 then partReset s (bitsOf v 11 8) else s
/-- PRG_PEER_RELINK (R251). -/
def relinkPut (s : State) (v : Nat) : State := if bitOf v 16 then (downPeers s).foldl relinkOne s else relinkOne s (bitsOf v 15 0)
/-- PRG_SHARE_SEL (R178). -/
def sharePut (s : State) (off v : Nat) : State := { setReg s off v with shareSnap := (s.shares.find? fun e => e.1 = v).map fun e => e.2 }

end Sys2Proof.Machine
end

