-- ==== Sys2Proof/Machine/RegWrite.lean ====
section
/-!
DEFINITION. A host write of the register window (R4, R289, R294, R295, R349 to R355), the write queue of R295, and the replacement of the settings (R302).
-/

namespace Sys2Proof.Machine

/-- A write of a register of the hardware region: its full value, reserved bits clear, and in a half that is not written no 1 in a bit that acts. -/
def putHw (s : State) (p : Place) (v : Nat) : State :=
  let i := p.i
  match p.d.reg with
  | .hrwErr => { s with badacc := s.badacc && !bitOf v 0, rsvwr := s.rsvwr && !bitOf v 1 }
  | .ctxDoorbell => ctxBell s i v
  | .ctxStatus => ctxStatusPut s i v
  | .chanDoorbell => chanDoorbell s i v
  | .chanStatus => s.modChan i fun x => { x with dberr := x.dberr && !bitOf v 16 }
  | .chanCtl => chanCtlPut s i v
  | .partCtl => partCtlPut s i v
  | .cqPtr => cqHead s i (bitsOf v 31 0)
  | .cqInt => { s with cqInt := s.cqInt.filter fun q => !(q / 64 = i && bitOf v (q % 64)) }
  | .plStatus => if bitOf v 3 then stuckClear s i else s
  | .sem => semWrite s i v 0
  | .semAdd => semAdd s i v
  | .ringStatus => ringPtrPut s i v
  | .ringSel => setReg s p.off v
  | .ringEntry => ringEntryPut s v
  | .resetCtl => resetCtlPut s v
  | .hostCtl => if bitOf v 0 then reattach s else s
  | .hostStatus => { s with hostl := { s.hostl with reatterr := s.hostl.reatterr && !bitOf v 6 } }
  | .portCtl => portCtlPut s i v
  | .fwCtl => fwCtlPut s v
  | .fwEvent => { s with fw := { s.fw with event := wipe1 s.fw.event v } }
  | .logPtr => logHead s (bitsOf v 31 0)
  | .evqPtr => evqHead s i (bitsOf v 31 0)
  | .evqInt => { s with evInt := wipe1 s.evInt v }
  | .cntSnap => { s with cntWin := tget s.cnts v [] }
  | .gcntSnap => if bitOf v 0 then { s with gcntWin := s.gcnt } else s
  | .tracePtr => traceHead s i (bitsOf v 31 0)
  | .watchSel => { setReg s p.off v with tapWin := s.tapOf v }
  | _ => s

/-- A write that its chapter judges: ignored, or done. -/
def judged (ok : Bool) (s t : State) : State := if ok then t else s

/-- A write of a register of the emulated region. `r` is the outcome of the read of a member table that it may start (R211). -/
def putEmu (s : State) (p : Place) (v : Nat) (r : RdRes) : State :=
  let i := p.i
  let j := p.j
  let off := p.off
  match p.d.reg with
  | .poolFloor => judged (floorFits s i j v) s (setReg s off v)
  | .dirQuota => judged (quotaFits s i v) s (setReg s off v)
  | .ctxCfg => ctxCfgPut s i off v
  | .seqMask => judged (v ≠ 0) s (setReg s off v)
  | .partRes => judged (resOk s i j v) s (drainAll (setReg s off v))
  | .budTable => bankPut s i off (clipBud s (i / 2) j v)
  | .optCfg => bankPut s i off v
  | .budCtl => s.modPart i fun x => { x with budForce := x.budForce || bitOf v 2, slackEn := bitOf v 3 }
  | .dlCfg => setReg s off (dlCfgClip v)
  | .budGroup => judged (bitsOf v 63 32 ≤ bitsOf v 31 0) s (setReg s off v)
  | .hsetCfg => hsetPut s (reg s 0x9A280) v
  | .shareSel => sharePut s off v
  | .chanCfg => if (s.chan i).st = 6 then s.modChan i fun x => { x with hostq := bitOf v 0, part := bitsOf v 7 4 } else s
  | .cqCfg => cqCfgPut s i j v
  | .tgrpCfg => if j = 0 then tgrpPut s (reg s 0xB0000) v r else tgrpWord s (reg s 0xB0000) j v
  | .nf => s.modPart i fun x => { x with nf := wipe1 x.nf v }
  | .ringCfg => if (s.ring i).cfg = v then s else judged (ringCfgOk s i v) s (s.setRing i { s.ring i with cfg := v })
  | .barCfg => barPut s (reg s 0xB3000) v
  | .jobCfg => judged (jobOk s i v) s (setReg s off v)
  | .relink => relinkPut s v
  | .hawNode => if j = 0 ∧ !nodeFixed s i then setReg s off v else s
  | .hawChild => if nodeFixed s i then s else setReg s off v
  | .evqCfg => evqCfgPut s i j v
  | .traceCfg => traceCfgPut s i j v
  | .logCfg => logCfgPut s j v
  | .wfgStatus => if bitOf v 0 then wfgClear s i else s
  | .watchAllow => judged (allowFits s i v) s (setReg s off v)
  | .ctxImage => imagePut s i j v
  | .fwNeg => negotiate s i v
  | .pwrCfg => calApply (setReg s off v)
  | .calUser => calPut s i off v
  | .partWin => drainAll (winPut s i j off v)
  | .lcStatus => { s with lc := { s.lc with lcerr := s.lc.lcerr && !bitOf v 5 } }
  | .keyCtl => keyCtlPut s v
  | .keyStatus => { s with lc := { s.lc with keyerr := s.lc.keyerr && !bitOf v 17 } }
  | .keyXfer => { s with keyXfer := tset s.keyXfer i (BitVec.ofNat 64 v) }
  | .unitMask => maskUnits (setReg s off (reg s off ||| v)) j v
  | .poolHead | .ctxSrc | .budCeil | .estTier | .estDec | .satCfg | .copCfg | .copSel | .srKey | .hsetSel | .movCfg | .tgrpSel | .barSel | .peerCfg | .portCfg
  | .hostPart | .wfgCfg | .watchSpike | .fwUpd | .fwCfg | .traceEn | .bistCfg | .bistTregion => setReg s off v
  | _ => s

/-- What the half of a register that a write leaves alone counts as: its value, with no 1 in a bit that acts; PRG_KEY_XFER keeps what was written (R351). -/
def restOf (s : State) (p : Place) : Nat := match p.d.reg with
  | .keyXfer => (tget s.keyXfer p.i 0).toNat
  | _ => wipe1 (readReg s p) p.act
/-- The full value of a write of `width` bits at an offset of a register. -/
def merged (s : State) (p : Place) (off width v : Nat) : Nat :=
  let w := v % 2 ^ width
  if p.d.width = width then w
  else
    let k := 8 * (off - p.off)
    restOf s p - bitsOf (restOf s p) (k + width - 1) k * 2 ^ k + w * 2 ^ k

/-- A write takes effect: reserved bits are ignored, and the settings tables take the running image's tag (R302). -/
def applyWrite (s : State) (off width v : Nat) (r : RdRes) : State :=
  match locate off with
  | none => s
  | some p =>
    let w := merged s p off width v &&& p.mask
    if p.off < 0x80000 then putHw s p w
    else
      let s := putEmu s p w r
      match runImage s with
      | some im => if s.fw.accepted then { s with fw := { s.fw with setver := im.setWrite.toNat } } else s
      | none => s

/-- Bits of a write that are reserved (R4, R355). -/
def rsvBits (off width v : Nat) : Bool :=
  match locate off with
  | none => v % 2 ^ width ≠ 0
  | some p => let w := v % 2 ^ width * 2 ^ (8 * (off - p.off)); w ||| p.mask ≠ p.mask

/-- The write queue of R295. -/
def wrqSize : Nat := 256
/-- A write that sets GO of PRG_FW_NEG[p] (R304), a register written whole (R351). -/
def setsGo (p off v : Nat) : Bool := off = 0xE0100 + 8 * p && bitOf v 48
/-- A GO is written while another for the same partition still waits (R304). -/
def goAgain (s : State) (off v : Nat) : Bool :=
  (List.range 16).any fun p => setsGo p off v && s.fw.wrq.any fun e => setsGo p e.1 e.2.2.toNat
/-- A write of the window: before READY only PRG_HRW_ERR takes one (R289); a malformed one is refused (R351); while SHADOW is set one to the emulated region waits (R295). -/
def hostWrite (s : State) (off width v : Nat) (r : RdRes) : State :=
  if !s.ready then
    if accessKind off width true = 0 ∧ off / 8 = 1 then applyWrite s off width v r else s
  else if accessKind off width true ≠ 0 then hrwError s (accessKind off width true) off
  else
    let s := if rsvBits off width v then hrwError s 0 off else s
    if 0x80000 ≤ off ∧ shadow s ∧ goAgain s off v then ctlErr s
    else if 0x80000 ≤ off ∧ shadow s then
      if s.fw.wrq.length < wrqSize then { s with fw := { s.fw with wrq := s.fw.wrq ++ [(off, width, BitVec.ofNat 64 v)] } } else loseWrites s 1
    else applyWrite s off width v r

/-- The queued writes take effect in arrival order (R295). -/
def flushQueue (s : State) : State := s.fw.wrq.foldl (fun s e => applyWrite s e.1 e.2.1 e.2.2.toNat .ok) { s with fw := { s.fw with wrq := [] } }

/-- R302 steps 2 to 4: the write queue is discarded, every setting takes its reset value, the tables the image's tag. The partition of a context that is not EMPTY stays (R37). -/
def emulatedReset (s : State) : State :=
  let n := s.fw.wrq.length
  let old := s.fw.setver
  let keep := s.ctxs.filterMap fun e => if e.2.st = .empty then none else some (0x88000 + 0x40 * e.1, ctxPart s e.1)
  let s := if n = 0 then s else loseWrites { s with fw := { s.fw with wrq := [] } } n
  let s := { s with
    cfg := s.cfg.filter fun e => e.1 < 0x80000,
    cqs := [],
    chans := s.chans.map fun (e : Nat × Chan) => (e.1, { e.2 with hostq := false, part := 0 }),
    rings := s.rings.map fun (e : Nat × Ring) => (e.1, { e.2 with cfg := 0 }),
    bars := s.bars.map fun (e : Nat × Bar) => (e.1, { e.2 with cfg := 0 }),
    tgrps := s.tgrps.map fun (e : Nat × TGrp) => (e.1, { e.2 with w0 := 0, w1 := 0, w2 := 0, w3 := 0 }),
    hsets := s.hsets.map fun (e : Nat × HSet) => (e.1, { e.2 with cfg := 0 }),
    evqs := s.evqs.map fun (e : Nat × EvQ) => (e.1, { e.2 with base := 0, cfg := 0, head := 0, tail := 0 }),
    parts := s.parts.map fun (e : Nat × Part) => (e.1, { e.2 with neg := 0, budActive := 0, budDirty := false, budForce := false, slackEn := true, traceRing := { e.2.traceRing with head := 0, tail := 0 } }) }
  let s := keep.foldl (fun s e => setReg s e.1 e.2) s
  let ver := match runImage s with
    | some im => im.setWrite.toNat
    | none => old
  let s := { s with fw := { s.fw with fbAt := none, setver := ver, event := s.fw.event ||| 4, logPtr := { s.fw.logPtr with head := 0, tail := 0 } } }
  calApply (evGP s 0 0 8 old)

end Sys2Proof.Machine
end

