-- ==== Sys2Proof/Machine/Power.lean ====
section
/-!
DEFINITION. Cold and warm reset and the power-up that follows (R261, R270, R287, R289, R299, R301, R313, R326, R327).
-/

namespace Sys2Proof.Machine

/-- What a cold and a warm reset keep beside the fuses (Table 12.3): the image store, memory outside the Stockpot and the directory region, the model's own queue and counter. -/
def kept (s : State) : State :=
  { State.reset with
    pending := s.pending, free := s.free, mem := wrZero (wrZero s.mem 0 Config.t0Size) (tqa 1 0) Config.dirRegion,
    fw := { imgA := s.fw.imgA, imgB := s.fw.imgB, okA := s.fw.okA, okB := s.fw.okB, lastOk := s.fw.lastOk } }
/-- The fuses as they stand. -/
def fuses (l : Lc) : Lc := { provisioned := l.provisioned, userBit := l.userBit, rmaBit := l.rmaBit, scrapped := l.scrapped, dukKill := l.dukKill, ident := l.ident, duk := l.duk }

/-- The state of a port from its strap (R261): host and command ports have none. -/
def strapPort (revs n : Nat) : Port :=
  let v := bitsOf revs (2 * n + 1) (2 * n)
  if n = 20 ∨ n = 21 ∨ 23 ≤ n then {} else if 2 ≤ v then { st := 3, cause := 4 } else { rev := v }

/-- Straps, satellite training and the carrier configuration (R289 steps 2, 4 and 5). -/
def sampled (s : State) (u : PowerUp) : State :=
  { s with
    t1Size := u.t1Size, t2Size := u.t2Size, tfMHz := u.tfMHz, bmMHz := u.bmMHz, peerMHz := u.peerMHz, coreMHz := u.coreMHz,
    ports := (List.range 31).foldl (fun (t : Tbl Port) n => if strapPort u.revs.toNat n = {} then t else tset t n (strapPort u.revs.toNat n)) [],
    sat := { present := u.satPresent.toNat, training := (~~~ u.satPresent).toNat, fixed := (u.satFixed &&& u.satPresent).toNat },
    hostl := { ioPort := u.ioSel.toNat, hp0mode := u.hp0mode.toNat, hp1mode := u.hp1mode.toNat, lastRsp := s.now },
    dirzero := true }

/-- A unit fails the start-up self-test (R326, R327). -/
def startFail (s : State) (kind unit : Nat) : State := bistLog s kind unit 0 0 true
/-- Units of a kind whose bits are set in a word are unusable. -/
def startFails (s : State) (kind n w : Nat) : State := (List.range n).foldl (fun s u => if bitOf w u then startFail s kind u else s) s
/-- A march that failed: soft repair where the spares reach, else the unit is unusable. -/
def startMarch (s : State) (m : March) : State :=
  let kind := m.kind.toNat
  let u := m.unit.toNat
  let s := bistLog s kind u m.row.toNat m.bit.toNat true
  if 0 < m.rows ∧ m.rows ≤ sparesLeft s kind u then markRepaired { s with bist := { s.bist with spare := tset s.bist.spare (128 * kind + u) (tget s.bist.spare (128 * kind + u) 0 + m.rows) } } kind u s.now
  else if kind = 5 then { s with bist := { s.bist with banks := clearBit s.bist.banks u } }
  else { s with bist := { s.bist with dcSlices := clearBit s.bist.dcSlices u } }
/-- The block is unfit (R326, Table 12.7). -/
def unfit (s : State) (badCore : Bool) : Bool :=
  let b := s.bist
  badCore || b.seqs = 0 || b.clusters = 0 || ((List.range 64).filter (bankUsable s)).length < 2 || b.dcSlices = 0
/-- The start-up self-test (R289 step 6). -/
def startTest (s : State) (u : PowerUp) : State :=
  let w := u.badUnits.toNat
  let l := u.badLanes.toNat
  let b : Bist := { seqs := wipe1 0xFFFF (bitsOf w 15 0), clusters := wipe1 0xFF (bitsOf w 23 16), aes := wipe1 0xF (bitsOf w 27 24), sensors := wipe1 0xFF (bitsOf w 55 48),
                    clk := !bitOf w 56, lanes := wipe1 0xFFFFFFFF l, lastStart := s.now }
  let s := { s with bist := b }
  let s := startFails (startFails (startFails (startFails s 1 16 (bitsOf w 15 0)) 2 8 (bitsOf w 23 16)) 3 32 l) 4 4 (bitsOf w 27 24)
  let s := u.marches.foldl startMarch s
  let s := startFails (startFails s 8 8 (bitsOf w 55 48)) 9 1 (bitsOf w 56 56)
  let s := if u.badCore then startFail s 10 0 else s
  { s with bist := { s.bist with fatal := unfit s u.badCore } }

/-- Every core runs. -/
def coresUp (s : State) : State := (List.range coreCount).foldl (fun s n => startCore s n) s
/-- All eleven cores have sent a heartbeat. -/
def allBeat (h : BitVec 11) : Bool := h = 0x7FF
/-- A slot is started and judged (R301). -/
def judge (s : State) (h : BitVec 11) : State := if startable s && allBeat h then acceptImage s else rejectImage s
/-- The ROM starts the slot last accepted, or slot A (R299), and goes to the other slot once. -/
def boot (s : State) (h h2 : BitVec 11) : State :=
  let s := judge (coresUp (startSlot s (s.fw.lastOk.getD 0) false)) h
  if s.fw.st = 2 then judge (coresUp s) h2 else s

/-- R289 from the straps on. With an empty image store the ROM waits (R299); a SCRAPPED block never sets READY (R314). -/
def powerUp (s : State) (u : PowerUp) : State :=
  let s := sampled s u
  if s.fw.imgA.isNone ∧ s.fw.imgB.isNone then s
  else
    let s := calApply (startTest (boot s u.heartbeats u.heartbeats2) u)
    { s with ready := s.fw.accepted && s.lc.inForce ≠ 4 }

/-- mp_por_n (R287, R289). -/
def coldReset (s : State) (u : PowerUp) : State :=
  powerUp { kept s with lastrst := 1, lc := { fuses s.lc with inForce := fusedState s.lc } } u
/-- mp_rst_n (R287): the fuses are not read again, and the lifecycle state in force stays (R311). -/
def warmReset (s : State) (u : PowerUp) : State :=
  powerUp { kept s with lastrst := 2, now := s.now, lc := { fuses s.lc with inForce := s.lc.inForce, pending := s.lc.pending, held := s.lc.held } } u

/-- COLD_RESET (R289). -/
def execColdReset (u : PowerUp) (s : State) : Out := happens true s (coldReset s u)
/-- WARM_RESET (R287). -/
def execWarmReset (u : PowerUp) (s : State) : Out := happens true s (warmReset s u)
/-- RESET_CTL_WARM (R287): a write of PRG_RESET_CTL, ignored without CONFIRM and before READY. -/
def execResetCtlWarm (confirm : Byte) (u : PowerUp) (s : State) : Out := happens true s (if s.ready && confirm = 0x5A then warmReset s u else s)

/-- The ROM waits for an image (R299): a reset has come and the store is empty. -/
def awaitsImage (s : State) : Bool := s.fw.st = 0 && s.lastrst ≠ 0 && s.fw.imgA.isNone && s.fw.imgB.isNone
/-- IMAGE_INSTRUMENT_WRITE (R299): slot A takes the image and the power-up goes on; a SCRAPPED block refuses it at the TAP (R314). -/
def execImageInstrumentWrite (im : FwImage) (u : PowerUp) (s : State) : Out :=
  happens (awaitsImage s) s (if s.lc.inForce = 4 then s else powerUp { s with fw := { s.fw with imgA := some im } } u)

end Sys2Proof.Machine
end

