-- ==== Sys2Proof/Machine/ExecMove.lean ====
section
/-!
DEFINITION. The data plane's commands (04, 07): burst slots, the start of deadline moves, and the completion of moves and transfers; the commands of Coppice (05).
-/

namespace Sys2Proof.Machine

/-- BURST_SLOT (R127): the group's slot in one core clock, with the ports that can accept a request. -/
def execBurstSlot (g : BitVec 2) (rdy : BitVec 31) (s : State) : Out := happens true s (burstSlot (yieldClusters s) g.toNat rdy.toNat)

/-- A deadline move that waits for its start. -/
def waitingMove (s : State) (i : Nat) : Option (Op × Nat × Nat × Form) :=
  match s.op i with
  | some o => match o.kind with
    | .move x t f false => if awaitsStart s o then some (o, x, t, f) else none
    | _ => none
  | none => none
/-- MOVE_START (R115): the first moment of a start before L. -/
def execMoveStart (i : Nat) (s : State) : Out :=
  arises s ((waitingMove s i).bind fun m => if startsEarly s m.1 ∧ (s.obj m.2.1).st = .resident then some (tryMove s m.1 m.2.1 m.2.2.1 m.2.2.2 false) else none)
/-- LATEST_START (R115, R118): L has come. -/
def execLatestStart (i : Nat) (s : State) : Out :=
  arises s ((waitingMove s i).bind fun m => if !m.1.decided ∧ m.1.lstart ≤ s.now then some (decideStart s m.1 m.2.1 m.2.2.1 m.2.2.2) else none)

/-- Where `can` holds, the effect. -/
def whenSo (can : Bool) (s : State) : Option State := if can then some s else none

/-- The completion point of an operation that runs (R190): by its kind, what completes and when; none where it has not been reached. -/
def completion (s : State) (o : Op) : Option State :=
  let x := xferDone s o
  match o.kind with
  | .move y t f _ => whenSo x (landMove s o y t f)
  | .fill y off len pat => whenSo x (fillEnd s o y off len pat (plainStatus o))
  | .cmp y z off len => whenSo x (cmpDone s o y z off len)
  | .bounce y off len host up => whenSo x (bounceEnd s o y off len host up (plainStatus o))
  | .inline a bs => whenSo x (inlineEnd s o a bs (plainStatus o))
  | .report a bs => whenSo x (reportEnd s o a bs (plainStatus o))
  | .rcpdef slot h src len => whenSo x (rcpdefDone s o slot h src len)
  | .recipe r => whenSo (r.temps ≠ [] && o.x.wr ≠ [] && x) (tempDone s o r)
  | .gather g => whenSo (gatherReady s o g) (gatherDone s o g)
  | .serve par _ _ _ => whenSo (sidesDone o.x && quiet s o.id) (serveEnd s o par)
  | .sweep g => whenSo (g.start && x) (sweepDone s o g)
  | .land l => whenSo (l.requant && x) (landDone s o l)
  | .contrib c => whenSo (c.adding && x) (contribDone s o c)
  | .tstream t => whenSo (teachReady s o t) (teachDone s o t)
  | .xsend v => whenSo (sendReady s o v) (sendRead s o v)
  | .xrecv v => whenSo (v.placed && o.x.wr ≠ [] && x) (recvDone s o v)
  | .snap y z read img => whenSo x (snapDone s o y z read img)
  | .digest h v => whenSo x (digestDone s o h v)
  | .desc ch d pos h => whenSo (descReady s o d) (descEnd s o ch d pos h (plainStatus o))
  | .onObj _ | .plan _ _ _ _ _ _ | .rngset _ _ _ _ | .heldSignal _ _ _ | .heldInline _ _ | .heldBar _ | .fence _ _ | .pushWait _ _ | .xboth _ _ _ _ | .fwCopy _ _ | .watch _ _
  | .test _ _ => none

/-- An operation that runs. -/
def runningOp (s : State) (i : Nat) : Option Op := (s.op i).bind fun o => if o.phase = .running then some o else none
/-- MOVE_DONE (R190): the completion of a move or of any other transfer. The copies of PLAN_LOAD_DONE and IMAGE_STAGED have rows of their own. -/
def execMoveDone (i : Nat) (s : State) : Out := arises s ((runningOp s i).bind (completion s))

/-- A recipe by its operation's number. -/
def recipeOf (s : State) (i : Nat) : Option (Op × Recipe) := (s.op i).bind fun o => o.recipe?.map fun r => (o, r)
/-- No recipe is ahead of an operation among those that wait for dispatch (R145 step 1). -/
def recipeFirst (s : State) (o : Op) : Bool :=
  s.ops.all fun q => q.id = o.id || match q.recipe? with
    | some r => r.dispatched || r.failed ≠ 0 || q.phase ≠ .queued || !keyBefore (recipeKey q) (recipeKey o)
    | none => true
/-- RECIPE_DISPATCH (R145, R146): at most 64 recipes are in dispatch. -/
def execRecipeDispatch (i : Nat) (s : State) : Out :=
  arises s ((recipeOf s i).bind fun e => whenSo (e.1.phase = .queued && e.2.failed = 0 && inDispatch s < 64 && recipeFirst s e.1) (dispatchRecipe s e.1 e.2))
/-- STEP_LAUNCH (R145). -/
def execStepLaunch (i : Nat) (k : BitVec 16) (s : State) : Out := arises s ((recipeOf s i).bind fun e => launchStep s e.1 e.2 k.toNat)
/-- RECIPE_DONE (R148): the read-back or the digest read of the output returns. -/
def execRecipeDone (i : Nat) (r : RdRes) (s : State) : Out :=
  arises s ((recipeOf s i).bind fun e => whenSo (e.2.reading && e.2.failed = 0 && sidesDone e.1.x && (s.tags.all fun t => t.op ≠ i || t.orphan || t.rb))
    (recipeRead { s with tags := s.tags.filter fun t => t.op ≠ i || t.orphan } e.1 e.2 r))
/-- The wait of a recipe for its inputs has lasted longer than the watchdog period of its context (R143). -/
def inputsOverdue (s : State) (o : Op) (r : Recipe) : Bool :=
  !r.dispatched && r.failed = 0 && !frozen s && match r.waitedInput with
  | some t => ctxWdog s (o.acct.getD (partyNum o.req.who)) < s.now - t
  | none => false
/-- INPUT_WAIT_TIMEOUT (R143). -/
def execInputWaitTimeout (i : Nat) (s : State) : Out :=
  arises s ((recipeOf s i).bind fun e => whenSo (inputsOverdue s e.1 e.2) (failRecipe s e.1 e.2 0x3F true))

/-- DONE (R146, R147): status 0 done, 1 errored, 2 cancelled; a message of no type that Table 5.4 lists is discarded and counted. A port that is not LIVE is not listened to. -/
def execDone (cl : BitVec 3) (tag : Byte) (status : Option Byte) (_detail : W32) (s : State) : Out :=
  happens (copUp s cl.toNat) s (match status with
    | some st => copDone s cl.toNat tag.toNat st.toNat
    | none => copProtoErr s)
/-- RNG_ACK (R147). -/
def execRngAck (cl : BitVec 3) (tag : Byte) (s : State) : Out := happens (copUp s cl.toNat) s (rngAcked s cl.toNat tag.toNat)
/-- RNG_DATA (R139). -/
def execRngData (cl : BitVec 3) (tag : Byte) (found lost : Bool) (base : W64) (s : State) : Out := happens (copUp s cl.toNat) s (rngDataIn s cl.toNat tag.toNat found lost base.toNat)

end Sys2Proof.Machine
end

