-- ==== Sys2Proof/Machine/Windows.lean ====
section
/-!
DEFINITION. The window boundary (R123 to R131, R30, R38, R21, R32): saturation, bank switches, refills, reserves, what is judged again.
-/

namespace Sys2Proof.Machine

/-- The conditions of Table 4.7 over the window that closes, by bit of PRG_SAT_STATUS. The two that depend on the occupancy of slots and queues over the window come with the command. -/
def satConds (s : State) (tpslot codecsat : Bool) : List Bool :=
  let full := fun (g : Nat) => decide (15 * groupCeil s g ≤ 16 * (s.group g).used)
  [full 2, tpslot, bitsOf (reg s 0x94188) 15 0 < s.dir.missWin, s.t0Evict, full 3, full 1, codecsat]
/-- A condition's run lengths and its bit (R129). -/
def satNext (v : Sat) (held : Bool) (setN clrN : Nat) : Sat :=
  if held then { on := v.on || setN ≤ v.setRun + 1, setRun := min setN (v.setRun + 1), clrRun := 0 }
  else { on := v.on && v.clrRun + 1 < clrN, setRun := 0, clrRun := min clrN (v.clrRun + 1) }
def judgeSat (s : State) (tpslot codecsat : Bool) : State :=
  let w := reg s 0x94188
  let conds := satConds s tpslot codecsat
  (List.range 7).foldl (fun s i => { s with sats7 := tset s.sats7 i (satNext (tget s.sats7 i {}) (conds.getD i false) (max 1 (bitsOf w 23 16)) (max 1 (bitsOf w 31 24))) })
    { s with t0Evict := false, dir := { s.dir with missWin := 0 } }

/-- Registers that take effect at a boundary are those written before it; calibration and the frequency request wait for the power-and-timing core. -/
def latch (s : State) : State :=
  if (s.core 1).up then { s with inForce := s.cfg }
  else { s with inForce := (s.inForce.filter fun e => calReg e.1).foldl (fun (t : Tbl W64) (e : Nat × W64) => tset t e.1 e.2) (s.cfg.filter fun e => !calReg e.1) }

/-- The word of a budget entry and of an optimizer bank. -/
def budOff (p b k : Nat) : Nat := 0x90000 + 0x200 * p + 0x100 * b + 8 * k
def optOff (p b i : Nat) : Nat := 0xB0100 + 0x40 * p + 0x20 * b + 8 * i
def setNew (s : State) (off v : Nat) : State := if reg s off = v then s else setReg s off v
/-- A partition's active table is clipped to its ceilings (R124). -/
def clipActive (s : State) (p : Nat) : State :=
  (List.range 12).foldl (fun s k => let off := budOff p (s.part p).budActive k; setNew s off (clipBud s p k (reg s off))) s
/-- The banks switch (R130, R131): after an EPOCH under DIRTY, or FORCE. -/
def switchDue (s : State) (p : Nat) : Bool := (s.part p).budEpoch || (s.part p).budForce
def switchBanks (s : State) (p : Nat) : State :=
  let b := 1 - (s.part p).budActive
  let s := clipActive (s.modPart p fun v => { v with budActive := b, budDirty := false, budForce := false, budEpoch := false }) p
  let s := (List.range 12).foldl (fun s k => setNew s (budOff p (1 - b) k) (reg s (budOff p b k))) s
  (List.range 4).foldl (fun s i => setNew s (optOff p (1 - b) i) (reg s (optOff p b i))) s

/-- The refill of R123. -/
def refill (bal : Int) (e : Nat × Nat) : Int := min (min (bal + e.1) (max e.2 e.1 : Nat)) (2 ^ 31 - 1)
/-- A partition at the boundary: switch or clip, balances (after a switch first clipped to the new bounds), credits issued. -/
def partBoundary (s : State) (p : Nat) : State :=
  let sw := switchDue s p
  let s := if sw then switchBanks s p else clipActive s p
  let bal := (List.range 12).foldl (fun (t : Tbl Int) k =>
    let e := budEntry s p (s.part p).budActive k
    let b := tget t k 0
    let b := if sw then min b (max e.2 e.1 : Nat) else b
    let n := refill b e
    if n = 0 then tdel t k else tset t k n) (s.part p).bal
  s.modPart p fun v => { v with bal := bal, issuedLast := v.issuedNow, issuedNow := [] }

/-- A port group opens its window (R125, R127). -/
def openGroup (s : State) (g : Nat) : State := s.setGroup g { s.group g with used := 0, resLeft := groupRes s g, closed := false }

/-- An operation that its class's budget holds (R128): it moves data for an issuer and has bursts left. -/
def heldByBudget (s : State) (o : Op) : Bool :=
  let waits := o.phase = .queued || o.phase = .waitSpace || (o.phase = .running && nextBursts o ≠ [])
  !o.x.free && o.phase ≠ .ending && o.phase ≠ .parked && match o.kind with
    | .recipe r => !r.dispatched || (unitStep s r).isSome
    | .desc _ d _ _ => d.op ≠ 4 && waits
    | .move _ _ _ _ | .fill _ _ _ _ | .cmp _ _ _ _ | .bounce _ _ _ _ _ | .inline _ _ | .report _ _ | .plan _ _ _ _ _ _ | .rcpdef _ _ _ _ | .gather _ | .sweep _ | .land _
    | .tstream _ | .xsend _ | .xrecv _ | .snap _ _ _ _ | .digest _ _ | .watch _ _ | .test _ _ => waits
    | _ => false
/-- It completes with BUDGET_DEFERRED once what it issued has finished. -/
def deferOp (s : State) (o : Op) : State :=
  match o.kind with
  | .move x _ _ _ => if o.phase = .queued ∨ o.phase = .waitSpace then dropOp s x o 0x21 false else stopMove s o x 0x21
  | .recipe r => failRecipe s o r 0x21 (!r.dispatched)
  | .digest _ _ => faultOp (dlAdd s o.req.part 3) o 0x21
  | .plan c slot h _ _ _ => if o.phase = .running ∧ !quiet s o.id then s.setOp { o with phase := .ending, endStatus := 0x21 } else planFail s o c slot h 0x21
  | _ => faultOp s o 0x21
/-- R128 at a boundary, with the contexts that such operations hold. -/
def deferBarred (s : State) : State :=
  s.ops.foldl (fun s o =>
    if classBarred s o.req.part o.cls ∧ heldByBudget s o then wakeHeld (deferOp s o) o else s) s

/-- What waits for space is tried again (R21, R32), as is everything that a boundary may have let go. -/
def retryWaits (s : State) : State :=
  let s := s.objs.foldl (fun s e => if e.2.sealWait.isSome then s.todo (.sealing e.1) else s) s
  let s := invalDone (retryOps s)
  s.ctxs.foldl (fun s e => if e.2.waitKind = 4 then s.todo (.retryCtx e.1) else s) s

/-- The decode lanes' history of 16 windows (R116). -/
def decShift (s : State) : State := { s with decRaw := (s.decNow :: s.decRaw).take 16, decNow := 0 }

/-- The settings of an image accepted under FALLBACK_EN, and a lifecycle transition, go on once every partition is DISABLED (R302, R311). -/
def coreBoundary (s : State) : State :=
  let s := fbEscalate s
  lcAdvance (if fbDue s && (s.core 2).up then emulatedReset s else s)

/-- The first ns of the next window. -/
def nextWindow (s : State) : Nat := (s.now / 1024 + 1) * 1024

/-- WINDOW_BOUNDARY: the window closes and the next opens. -/
def windowBoundary (s : State) (tpslot codecsat : Bool) : State :=
  let s := latch (decShift (judgeSat { s with now := nextWindow s } tpslot codecsat))
  let s := (List.range 4).foldl openGroup ((List.range 16).foldl partBoundary s)
  coreBoundary (retryWaits (deferBarred s))

/-- WINDOW_BOUNDARY (R123). -/
def execWindowBoundary (tpslot codecsat : Bool) (s : State) : Out := happens true s (windowBoundary s tpslot codecsat)

end Sys2Proof.Machine
end

