-- ==== Sys2Proof/Machine/ExecFirmware.lean ====
section
/-!
DEFINITION. Events of the firmware complex, of lifecycle and keys, and of self-test (11, 12).
-/

namespace Sys2Proof.Machine

/-- A firmware core that runs. -/
def coreRuns (s : State) (n : Nat) : Bool := n < coreCount && (s.core n).up
/-- HBEAT_MS in ns (Table 11.11). -/
def hbeatNs (s : State) : Nat := max 1 (bitsOf (reg s 0xE0020) 23 16) * 1000000
/-- HEARTBEAT_TIMEOUT (R296): no heartbeat of a core that has run for HBEAT_MS has come for as long (log entry 160). -/
def execHeartbeatTimeout (core : BitVec 4) (s : State) : Out := happens (coreRuns s core.toNat && (s.core core.toNat).started + hbeatNs s ≤ s.now) s (restartCore s core.toNat 1)
/-- PROTECTION_FAULT (R293, R296): what the core did does not take effect, and the core restarts. -/
def execProtectionFault (core : BitVec 4) (why : CoreFault) (s : State) : Out :=
  happens (coreRuns s core.toNat && coreFaults s core.toNat why) s (restartCore s core.toNat (if why = .memErr then 3 else 2))

/-- What waited for a core goes on at its return (Table 11.2). Queued writes wait for a scheduler core whose image is accepted (R295). -/
def rejoined (s : State) (n : Nat) : State :=
  let s := startCore s n
  match n with
  | 0 => match s.lc.rmBusy with
    | some p => lcNext (removeKey s p)
    | none => lcNext s
  | 1 => calApply s
  | 2 => retryOps (if shadow s then s else flushQueue s)
  | _ => s
/-- CORE_REJOIN (R296): a core that is held in reset runs again. -/
def execCoreRejoin (core : BitVec 4) (s : State) : Out := happens (core.toNat < coreCount && !(s.core core.toNat).up && (s.fw.st = 1 || s.fw.st = 2)) s (rejoined s core.toNat)

/-- A newly started image is judged (R301): accepted within ACCEPT_MS of its start where every condition holds, rejected where one that cannot come to hold fails, or at ACCEPT_MS. -/
def judged? (s : State) (h : BitVec 11) : Option State :=
  if s.fw.st ≠ 2 ∨ s.fw.accepted then none
  else if startable s && allBeat h && s.now ≤ s.fw.started + acceptNs s then
    let s := acceptImage s
    some (retryOps (if shadow s then s else flushQueue s))
  else if (allBeat h && !startable s) || s.fw.started + acceptNs s ≤ s.now then some (rejectImage s)
  else none
/-- ACCEPTANCE (R301): `heartbeats` are the cores heard since the image started. -/
def execAcceptance (heartbeats : BitVec 11) (s : State) : Out := arises s (judged? s heartbeats)

/-- IMAGE_STAGED (R300): the copy has ended on both sides; the signature's verdict comes with the image. -/
def staged? (s : State) (im : FwImage) : Option State := (updCopy s).bind fun e => if copyEnded s e.1 then some (imageStaged s e.1 e.2.1 e.2.2 im.sigOk) else none
/-- IMAGE_STAGED (R300). -/
def execImageStaged (im : FwImage) (s : State) : Out := arises s (staged? s im)

/-- LOCK_ACQUIRE (R298). -/
def execLockAcquire (l : BitVec 6) (cores : BitVec 11) (s : State) : Out :=
  happens true s (lockTake s l.toNat ((List.range coreCount).filter fun n => bitOf cores.toNat n && coreRuns s n))
/-- LOCK_RENEW (R298). -/
def execLockRenew (l : BitVec 6) (core : BitVec 4) (s : State) : Out := happens (coreRuns s core.toNat) s (lockAgain s l.toNat core.toNat false)
/-- LOCK_RELEASE (R298). -/
def execLockRelease (l : BitVec 6) (core : BitVec 4) (s : State) : Out := happens (coreRuns s core.toNat) s (lockAgain s l.toNat core.toNat true)
/-- LEASEEXP (R298). -/
def execLeaseexp (l : BitVec 6) (s : State) : Out := happens (leaseOver s l.toNat) s (leaseExpire s l.toNat)

/-- LOG_RECORD (R305): severities 0 to 3. -/
def execLogRecord (sev : Byte) (core : BitVec 4) (code : BitVec 16) (arg0 arg1 : W64) (s : State) : Out :=
  happens (coreRuns s core.toNat && sev.toNat < 4) s (logRecord s sev.toNat core.toNat code.toNat arg0.toNat arg1.toNat)
/-- FREQUENCY_CHECK (R306): suspended while the clock monitor is under test (Table 12.6). -/
def execFrequencyCheck (mhz : Nat) (s : State) : Out := happens (!underTest s 9 0) s (freqCheck s mhz)
/-- THROTTLE_LEVEL (R307). -/
def execThrottleLevel (sensors : List Int) (s : State) : Out := happens true s (throttle s sensors)

/-- PROVISION (R310). -/
def execProvision (ident : W64) (s : State) : Out := happens true s (lcRequest s { target := 1, sigOk := true, ident := ident })
/-- USER (R310). -/
def execUser (sigOk : Bool) (s : State) : Out := happens true s (lcRequest s { target := 2, sigOk := sigOk })
/-- RMA (R310, R312). -/
def execRma (sigOk : Bool) (ident : W64) (s : State) : Out := happens true s (lcRequest s { target := 3, sigOk := sigOk, ident := ident })
/-- SCRAP (R310, R311). -/
def execScrap (confirm : Byte) (s : State) : Out := happens true s (lcRequest s { target := 4, sigOk := confirm = 0x5A })
/-- A transition has its programming supply (R311). -/
def programming (s : State) : Bool := s.lc.busy.isSome && s.lc.vppEn
/-- VPP_TIMEOUT (R311 step 2). -/
def execVppTimeout (s : State) : Out := happens (vppLate s) s (lcEnd (lcRefuse s 3))
/-- VPP_LOSS (R311). -/
def execVppLoss (killed : Bool) (s : State) : Out := happens (programming s) s (vppLoss s killed)
/-- VPP_OK (R311 steps 3 to 5). -/
def execVppOk (eraseOk : Bool) (s : State) : Out := happens (programming s && (s.core 0).up) s (vppOk s eraseOk)
/-- SUPPLY_FAIL (R299, R310). -/
def execSupplyFail (s : State) : Out := happens true s (supplyFail s)
/-- KEY_COMMAND_DONE (R317). -/
def execKeyCommandDone (salt : W128) (s : State) : Out := arises s (if (s.core 0).up then s.lc.keyBusy.map fun p => keyDone s p salt else none)

/-- BIST_SLICE (R323). -/
def execBistSlice (s : State) : Out := arises s ((visitDue s).map fun e => bistVisit s e.1 e.2.1 e.2.2)
/-- BIST_SLICE_END (R327): the slice of a kind that is running. -/
def execBistSliceEnd (kind : BitVec 4) (pass : Bool) (rows : Nat) (row : BitVec 16) (bit : BitVec 10) (s : State) : Out :=
  arises s ((sliceOf? s kind.toNat).bind fun x => if sliceReady s x pass then some (sliceEnd s x pass rows row.toNat bit.toNat) else none)
/-- MARCH_YIELD (R325). -/
def execMarchYield (kind : BitVec 4) (s : State) : Out := arises s ((sliceOf? s kind.toNat).bind fun x => if marchNeeded s x then some (marchYield s x) else none)

end Sys2Proof.Machine
end

