-- ==== Sys2Proof/Machine/ExecKwemal.lean ====
section
/-!
DEFINITION. The Kwemal instructions (03), each as the one at the PC of a context that is on a sequencer at an instruction boundary (R72), and the exceptions and fills of 02.
-/

namespace Sys2Proof.Machine

/-- Commands that waited for the end of an instruction held by a directory miss are looked at (R77). -/
def boundary (c : Nat) (s : State) : State := if (s.ctx c).cmds = [] then s else s.todo (.ctxCheck c)

/-- The instruction of a row: the context's next instruction has the row's opcode; its checks, its body, all that it sets off. -/
def kwemal (s : State) (c op : Nat) (body : Body) : Out := arises s ((issueIf s c (fun k => k = op) body).map (boundary c))

/-- NOP (R81). -/
def execNop (c : BitVec 8) (s : State) : Out := kwemal s c.toNat 0x00 bodyNop
/-- DECL (R78). -/
def execDecl (c : BitVec 8) (s : State) : Out := kwemal s c.toNat 0x01 bodyDecl
/-- BIND (R80). -/
def execBind (c : BitVec 8) (s : State) : Out := kwemal s c.toNat 0x02 bodyBind
/-- RETIRE (R81). -/
def execRetire (c : BitVec 8) (s : State) : Out := kwemal s c.toNat 0x03 bodyRetire
/-- PIN (R81). -/
def execPin (c : BitVec 8) (s : State) : Out := kwemal s c.toNat 0x04 (pinBody true)
/-- UNPIN (R81). -/
def execUnpin (c : BitVec 8) (s : State) : Out := kwemal s c.toNat 0x05 (pinBody false)
/-- KEEP (R82). -/
def execKeep (c : BitVec 8) (s : State) : Out := kwemal s c.toNat 0x10 bodyDisp
/-- SQZ (R82). -/
def execSqz (c : BitVec 8) (s : State) : Out := kwemal s c.toNat 0x11 bodyDisp
/-- SPILL (R82). -/
def execSpill (c : BitVec 8) (s : State) : Out := kwemal s c.toNat 0x12 bodyDisp
/-- DROP (R82). -/
def execDrop (c : BitVec 8) (s : State) : Out := kwemal s c.toNat 0x13 bodyDisp
/-- STOCK (R82). -/
def execStock (c : BitVec 8) (s : State) : Out := kwemal s c.toNat 0x17 bodyDisp
/-- FETCH (R83). -/
def execFetch (c : BitVec 8) (s : State) : Out := kwemal s c.toNat 0x14 bodyFetch
/-- PROMOTE (R83). -/
def execPromote (c : BitVec 8) (s : State) : Out := kwemal s c.toNat 0x15 bodyFetch
/-- DEMOTE (R84). -/
def execDemote (c : BitVec 8) (s : State) : Out := kwemal s c.toNat 0x16 bodyDemote
/-- RCPDEF (R86). -/
def execRcpdef (c : BitVec 8) (s : State) : Out := kwemal s c.toNat 0x20 bodyRcpdef
/-- RCPRUN (R88). -/
def execRcprun (c : BitVec 8) (s : State) : Out := kwemal s c.toNat 0x21 bodyRcprun
/-- RNGCAP (R87). -/
def execRngcap (c : BitVec 8) (s : State) : Out := kwemal s c.toNat 0x22 bodyRngcap
/-- RNGSET (R87). -/
def execRngset (c : BitVec 8) (s : State) : Out := kwemal s c.toNat 0x23 bodyRngset
/-- GATHER (R89). -/
def execGather (c : BitVec 8) (s : State) : Out := kwemal s c.toNat 0x30 bodyGather
/-- SWEEP (R90). -/
def execSweep (c : BitVec 8) (s : State) : Out := kwemal s c.toNat 0x31 bodySweep
/-- LAND (R91). -/
def execLand (c : BitVec 8) (s : State) : Out := kwemal s c.toNat 0x32 bodyLand
/-- TSTREAM (R92). -/
def execTstream (c : BitVec 8) (s : State) : Out := kwemal s c.toNat 0x33 bodyTstream
/-- XCHG (R93). -/
def execXchg (c : BitVec 8) (s : State) : Out := kwemal s c.toNat 0x34 bodyXchg
/-- SNAP (R94). -/
def execSnap (c : BitVec 8) (s : State) : Out := kwemal s c.toNat 0x35 bodySnap
/-- BOUNCE (R95). -/
def execBounce (c : BitVec 8) (s : State) : Out := kwemal s c.toNat 0x36 bodyBounce
/-- FILL (R96). -/
def execFill (c : BitVec 8) (s : State) : Out := kwemal s c.toNat 0x37 bodyFill
/-- CMP (R96). -/
def execCmp (c : BitVec 8) (s : State) : Out := kwemal s c.toNat 0x38 bodyCmp
/-- INLINE (R97). -/
def execInline (c : BitVec 8) (s : State) : Out := kwemal s c.toNat 0x39 bodyInline
/-- WAIT (R98). -/
def execWait (c : BitVec 8) (s : State) : Out := kwemal s c.toNat 0x40 bodyWait
/-- SIGNAL (R98). -/
def execSignal (c : BitVec 8) (s : State) : Out := kwemal s c.toNat 0x41 bodySignal
/-- FENCE (R99). -/
def execFence (c : BitVec 8) (s : State) : Out := kwemal s c.toNat 0x42 bodyFence
/-- BAR (R100). -/
def execBar (c : BitVec 8) (s : State) : Out := kwemal s c.toNat 0x43 bodyBar
/-- MARKDEP (R101). -/
def execMarkdep (c : BitVec 8) (s : State) : Out := kwemal s c.toNat 0x44 bodyMarkdep
/-- DEADLINE (R102). -/
def execDeadline (c : BitVec 8) (s : State) : Out := kwemal s c.toNat 0x45 bodyDeadline
/-- EPOCH (R103). -/
def execEpoch (c : BitVec 8) (s : State) : Out := kwemal s c.toNat 0x50 bodyEpoch
/-- BUDGET (R104). -/
def execBudget (c : BitVec 8) (s : State) : Out := kwemal s c.toNat 0x51 bodyBudget
/-- WATCH (R105). -/
def execWatch (c : BitVec 8) (s : State) : Out := kwemal s c.toNat 0x52 bodyWatch
/-- REPORT (R106). -/
def execReport (c : BitVec 8) (s : State) : Out := kwemal s c.toNat 0x53 bodyReport
/-- JUMP (R107). -/
def execJump (c : BitVec 8) (s : State) : Out := kwemal s c.toNat 0x54 bodyJump
/-- LOOP (R108). -/
def execLoop (c : BitVec 8) (s : State) : Out := kwemal s c.toNat 0x55 bodyLoop
/-- HALT (R109). -/
def execHalt (c : BitVec 8) (s : State) : Out := kwemal s c.toNat 0x5F bodyHalt

/-- The opcode is unassigned, reserved or not in the plan's format (R65). -/
def outOfTable (s : State) (c op : Nat) : Bool := !isAssigned op || ((s.ctx c).plan.format = 1 && [0x33, 0x34, 0x35, 0x52].contains op)
/-- OPCODE_UNASSIGNED (R65): the checks of the base word find it. -/
def execOpcodeUnassigned (c : BitVec 8) (s : State) : Out := arises s (issueIf s c.toNat (outOfTable s c.toNat) bodyNop)

/-- A context at an instruction boundary on its sequencer with a failure to raise (R64). -/
def failPending (s : State) (c : Nat) : Bool := let v := s.ctx c; v.st = .active && v.seq.isSome && v.waitKind = 0 && v.miss.isNone && v.fails ≠ []
/-- UNREPORTED_FAILURE (R64, R67). -/
def execUnreportedFailure (c : BitVec 8) (s : State) : Out := happens (failPending s c.toNat) s (raiseFails s c.toNat)

/-- A line of the plan is read over a tensor port into the cache, which holds 2,048 lines, most recent first; a read that fails raises IFETCH_FAULT, with OPCODE 0 in its record (R46,
R65, R258, log entries 7 and 152). -/
def fillLine (s : State) (c k : Nat) (r : RdRes) : State :=
  let v := s.ctx c
  let o := s.obj (planObj s c)
  let s := match portFor s o.home (tqaOff o.homeaddr + k * 128) (k / 32) 0 with
    | some n => s.gadd (0x10 * n) 128
    | none => s
  match r with
  | .ok => { s with icache := (icLine s c k :: s.icache).take 2048 }
  | .checkFail => raiseExc s c { cause := 6, status := 0x12, pc := v.pc, opcode := 0 }
  | .portFault => raiseExc s c { cause := 6, status := 0x30, pc := v.pc, opcode := 0 }
/-- The line that a context's next instruction waits for. -/
def lineDue (s : State) (c : Nat) : Option Nat := if seated s c && pcOk (s.ctx c) (s.ctx c).pc then icNeed s c else none
/-- ICACHE_FILL (R46). -/
def execIcacheFill (c : BitVec 8) (r : RdRes) (s : State) : Out := arises s ((lineDue s c.toNat).map fun k => fillLine s c.toNat k r)

/-- The entry that holds the sequencer arrives (R10): it becomes the most recently used of its set, and the instruction can issue. -/
def dirFill (s : State) (c : Nat) : State :=
  match (s.ctx c).miss with
  | some x => (dirTouch s x).modCtx c fun v => { v with miss := none, filled := v.filled ++ [x] }
  | none => s
/-- DIRECTORY_MISS_FILL (R10, R77): the commands that waited for the instruction boundary wait on until it has issued. -/
def execDirectoryMissFill (c : BitVec 8) (s : State) : Out := happens ((s.ctx c.toNat).miss.isSome && (s.ctx c.toNat).st = .active) s (dirFill s c.toNat)

end Sys2Proof.Machine
end

