-- ==== Sys2Proof/Machine/ExecRegs.lean ====
section
/-!
DEFINITION. Commands that are writes of the register window (04, 06, 08, 09, 11 to 14), REGISTER_WRITE and BADACC.
-/

namespace Sys2Proof.Machine

/-- The outcome of a register write. -/
def wrote (s : State) (off width v : Nat) : Out := happens true s (hostWrite s off width v .ok)

/-- A request whose requester is not the host's root port completes as Unsupported Request, without any other effect (R280). -/
def unsupported (s : State) : State := { s with hostl := { s.hostl with unsupported := s.hostl.unsupported + 1 } }

/-- REGISTER_WRITE (R280, R354). A warm reset through PRG_RESET_CTL takes a power-up with it: RESET_CTL_WARM is its row. -/
def execRegisterWrite (off : BitVec 20) (width : Nat) (v : W64) (s : State) : Out :=
  happens (!(s.ready && off = 0x50008 && width = 32 && bitsOf v.toNat 31 24 = 0x5A && bitsOf v.toNat 1 0 = 1)) s (hostWrite s off.toNat width v.toNat .ok)
/-- BADACC (R42, R280, R351): a malformed read or write, a read of a context image whose window is closed, or a request of a requester that is not the host's root port. -/
def execBadacc (off : BitVec 20) (width : Nat) (acc : BadAcc) (s : State) : Out :=
  if acc = .foreign then .next (unsupported s)
  else
    let k := accessKind off.toNat width (acc = .write)
    happens (k ≠ 0 || acc = .read) s (if !s.ready then s else if k ≠ 0 then hrwError s k off.toNat else hostReadSets s off.toNat)

/-- FORCE (R131). -/
def execForce (p : BitVec 4) (s : State) : Out := wrote s (0x94000 + 8 * p.toNat) 64 (4 + 8 * b2n (s.part p.toNat).slackEn)
/-- BUDGET_TABLE_WRITE (R130). -/
def execBudgetTableWrite (p : BitVec 4) (b : BitVec 1) (k : BitVec 4) (v : W64) (s : State) : Out := wrote s (0x90000 + 0x200 * p.toNat + 0x100 * b.toNat + 8 * k.toNat) 64 v.toNat
/-- HSET_CLEAR (R180): CLEAR is written with the set's configuration as it stands. -/
def execHsetClear (s : State) : Out := wrote s 0x9A288 64 ((if reg s 0x9A280 = 0 then 0 else (s.hset (reg s 0x9A280)).cfg) ||| 65536)
/-- TGRP_VALIDATE (R211). -/
def execTgrpValidate (v : W64) (r : RdRes) (s : State) : Out := happens true s (hostWrite s 0xB0008 64 (v.toNat ||| 1) r)
/-- BAR_GROUP_VALID (R243). -/
def execBarGroupValid (v : W64) (s : State) : Out := wrote s 0xB3008 64 (v.toNat ||| 1)
/-- RELINK (R251). -/
def execRelink (carrier : BitVec 16) (s : State) : Out := wrote s 0xB3588 32 carrier.toNat
/-- RELINK_ALL (R251). -/
def execRelinkAll (s : State) : Out := wrote s 0xB3588 32 65536
/-- CNT_SNAP (R332). -/
def execCntSnap (v : W32) (s : State) : Out := wrote s 0x70200 32 v.toNat
/-- GCNT_SNAP (R332). -/
def execGcntSnap (v : W32) (s : State) : Out := wrote s 0x70208 32 v.toNat
/-- WATCH_SEL (R352). -/
def execWatchSel (v : W32) (s : State) : Out := wrote s 0x70900 32 v.toNat
/-- SHARE_SEL (R178). -/
def execShareSel (v : W32) (s : State) : Out := wrote s 0x9A300 32 v.toNat
/-- EVQ_HEAD_WRITE (R336). -/
def execEvqHeadWrite (q : BitVec 5) (head : W32) (s : State) : Out := wrote s (0x70000 + 8 * q.toNat) 32 head.toNat
/-- TRACE_HEAD_WRITE (R344). -/
def execTraceHeadWrite (p : BitVec 4) (head : W32) (s : State) : Out := wrote s (0x70800 + 8 * p.toNat) 32 head.toNat
/-- LOG_HEAD_WRITE (R305). -/
def execLogHeadWrite (head : W32) (s : State) : Out := wrote s 0x60100 32 head.toNat
/-- WFG_BUSY_CLEAR (R347). -/
def execWfgBusyClear (p : BitVec 4) (s : State) : Out := wrote s (0xB9500 + 8 * p.toNat) 64 1
/-- UNIT_MASK (R328). -/
def execUnitMask (word : BitVec 1) (v : W64) (s : State) : Out := wrote s (0xF0720 + 8 * word.toNat) 64 v.toNat
/-- FW_NEG_GO (R304). -/
def execFwNegGo (p : BitVec 4) (v : W64) (s : State) : Out := wrote s (0xE0100 + 8 * p.toNat) 64 (v.toNat ||| 2 ^ 48)
/-- CAL_USER_WRITE (R308). -/
def execCalUserWrite (e : BitVec 4) (v : BitVec 16) (s : State) : Out := wrote s (0xE0440 + 4 * e.toNat) 32 v.toNat

/-- A command register with a CONFIRM byte: CMD, a number in [7:4] and CONFIRM in [31:24]. -/
def cmdWord (cmd n confirm : Nat) : Nat := cmd + 16 * n + 2 ^ 24 * confirm
/-- RESTART_CORE (R296). -/
def execRestartCore (core : BitVec 4) (confirm : Byte) (s : State) : Out := wrote s 0x60008 32 (cmdWord 1 core.toNat confirm.toNat)
/-- UPDATE (R300). -/
def execUpdate (confirm : Byte) (s : State) : Out := wrote s 0x60008 32 (cmdWord 2 0 confirm.toNat)
/-- SWITCH (R300). -/
def execSwitch (confirm : Byte) (s : State) : Out := wrote s 0x60008 32 (cmdWord 3 0 confirm.toNat)
/-- DISCARD (R300). -/
def execDiscard (confirm : Byte) (s : State) : Out := wrote s 0x60008 32 (cmdWord 4 0 confirm.toNat)
/-- INSTALL (R317). -/
def execInstall (p : BitVec 4) (confirm : Byte) (s : State) : Out := wrote s 0xF0410 32 (cmdWord 1 p.toNat confirm.toNat)
/-- REMOVE (R317). -/
def execRemove (p : BitVec 4) (confirm : Byte) (s : State) : Out := wrote s 0xF0410 32 (cmdWord 2 p.toNat confirm.toNat)
/-- PARTITION_RESET: PRG_RESET_CTL KIND 2 with PART in [11:8] (R288). -/
def execPartitionReset (p : BitVec 4) (confirm : Byte) (s : State) : Out := wrote s 0x50008 32 (2 + 256 * p.toNat + 2 ^ 24 * confirm.toNat)

/-- A graph waits to be built and the scheduler core can build it (R347). -/
def buildDue (s : State) (p c : Nat) : Bool := (s.part p).wfgPending = some c && (s.core 2).up && !(s.part p).wfgBusy
/-- WFG_BUILD (R347). -/
def execWfgBuild (p : BitVec 4) (c : BitVec 8) (s : State) : Out := happens (buildDue s p.toNat c.toNat) s (buildGraph s p.toNat c.toNat false)

/-- The read of a tap's sample is complete (R339). -/
def sampleDue (s : State) (t : Nat) : Option Op := (sampleOp s t).bind fun o => if o.phase = .running ∧ xferDone s o then some o else none
/-- WATCH_SAMPLE (R340). -/
def execWatchSample (tap : BitVec 9) (r : RdRes) (s : State) : Out :=
  arises s ((sampleDue s tap.toNat).map fun o => if r = .ok then sampleTap s o tap.toNat else watchSkip s o tap.toNat)

end Sys2Proof.Machine
end

