-- ==== Sys2Proof/Machine/Dispatch.lean ====
section
/-!
DEFINITION. The effect of each command on everything but the queue: one arm per constructor of Instr.
-/

namespace Sys2Proof.Machine

def exec (i : Instr) (s : State) : Host.Outcome State Fault Refusal :=
  match i with
  | .nop c => Sys2Proof.Machine.execNop c s
  | .decl c => Sys2Proof.Machine.execDecl c s
  | .bind c => Sys2Proof.Machine.execBind c s
  | .retire c => Sys2Proof.Machine.execRetire c s
  | .pin c => Sys2Proof.Machine.execPin c s
  | .unpin c => Sys2Proof.Machine.execUnpin c s
  | .keep c => Sys2Proof.Machine.execKeep c s
  | .sqz c => Sys2Proof.Machine.execSqz c s
  | .spill c => Sys2Proof.Machine.execSpill c s
  | .drop c => Sys2Proof.Machine.execDrop c s
  | .stock c => Sys2Proof.Machine.execStock c s
  | .fetch c => Sys2Proof.Machine.execFetch c s
  | .promote c => Sys2Proof.Machine.execPromote c s
  | .demote c => Sys2Proof.Machine.execDemote c s
  | .rcpdef c => Sys2Proof.Machine.execRcpdef c s
  | .rcprun c => Sys2Proof.Machine.execRcprun c s
  | .rngcap c => Sys2Proof.Machine.execRngcap c s
  | .rngset c => Sys2Proof.Machine.execRngset c s
  | .gather c => Sys2Proof.Machine.execGather c s
  | .sweep c => Sys2Proof.Machine.execSweep c s
  | .land c => Sys2Proof.Machine.execLand c s
  | .tstream c => Sys2Proof.Machine.execTstream c s
  | .xchg c => Sys2Proof.Machine.execXchg c s
  | .snap c => Sys2Proof.Machine.execSnap c s
  | .bounce c => Sys2Proof.Machine.execBounce c s
  | .fill c => Sys2Proof.Machine.execFill c s
  | .cmp c => Sys2Proof.Machine.execCmp c s
  | .inline c => Sys2Proof.Machine.execInline c s
  | .wait c => Sys2Proof.Machine.execWait c s
  | .signal c => Sys2Proof.Machine.execSignal c s
  | .fence c => Sys2Proof.Machine.execFence c s
  | .bar c => Sys2Proof.Machine.execBar c s
  | .markdep c => Sys2Proof.Machine.execMarkdep c s
  | .deadline c => Sys2Proof.Machine.execDeadline c s
  | .epoch c => Sys2Proof.Machine.execEpoch c s
  | .budget c => Sys2Proof.Machine.execBudget c s
  | .watch c => Sys2Proof.Machine.execWatch c s
  | .report c => Sys2Proof.Machine.execReport c s
  | .jump c => Sys2Proof.Machine.execJump c s
  | .loop c => Sys2Proof.Machine.execLoop c s
  | .halt c => Sys2Proof.Machine.execHalt c s
  | .opcodeUnassigned c => Sys2Proof.Machine.execOpcodeUnassigned c s
  | .unreportedFailure c => Sys2Proof.Machine.execUnreportedFailure c s
  | .icacheFill c r => Sys2Proof.Machine.execIcacheFill c r s
  | .directoryMissFill c => Sys2Proof.Machine.execDirectoryMissFill c s
  | .load c slot tag => Sys2Proof.Machine.execLoad c slot tag s
  | .planLoadDone c slot => Sys2Proof.Machine.execPlanLoadDone c slot s
  | .start c slot tag => Sys2Proof.Machine.execStart c slot tag s
  | .stopDrain c slot tag => Sys2Proof.Machine.execStopDrain c slot tag s
  | .stopAbort c slot tag => Sys2Proof.Machine.execStopAbort c slot tag s
  | .resume c slot tag => Sys2Proof.Machine.execResume c slot tag s
  | .reset c slot tag => Sys2Proof.Machine.execReset c slot tag s
  | .unload c slot tag => Sys2Proof.Machine.execUnload c slot tag s
  | .contextSwitch q => Sys2Proof.Machine.execContextSwitch q s
  | .ladleIssue c => Sys2Proof.Machine.execLadleIssue c s
  | .watchdog c => Sys2Proof.Machine.execWatchdog c s
  | .wfgBuild p c => Sys2Proof.Machine.execWfgBuild p c s
  | .windowBoundary tpslot codecsat => Sys2Proof.Machine.execWindowBoundary tpslot codecsat s
  | .sealWatchdog x => Sys2Proof.Machine.execSealWatchdog x s
  | .agerVisit x => Sys2Proof.Machine.execAgerVisit x s
  | .burstSlot g ready => Sys2Proof.Machine.execBurstSlot g ready s
  | .moveStart o => Sys2Proof.Machine.execMoveStart o s
  | .latestStart o => Sys2Proof.Machine.execLatestStart o s
  | .moveDone o => Sys2Proof.Machine.execMoveDone o s
  | .recipeDispatch o => Sys2Proof.Machine.execRecipeDispatch o s
  | .stepLaunch o k => Sys2Proof.Machine.execStepLaunch o k s
  | .recipeDone o r => Sys2Proof.Machine.execRecipeDone o r s
  | .inputWaitTimeout o => Sys2Proof.Machine.execInputWaitTimeout o s
  | .done cl tag status detail => Sys2Proof.Machine.execDone cl tag status detail s
  | .rngAck cl tag => Sys2Proof.Machine.execRngAck cl tag s
  | .rngData cl tag found lost base => Sys2Proof.Machine.execRngData cl tag found lost base s
  | .stepTimeout cl tag => Sys2Proof.Machine.execStepTimeout cl tag s
  | .chanDoorbell ch head => Sys2Proof.Machine.execChanDoorbell ch head s
  | .descriptorFetch ch r => Sys2Proof.Machine.execDescriptorFetch ch r s
  | .copy ch => Sys2Proof.Machine.execCopy ch s
  | .descFill ch => Sys2Proof.Machine.execDescFill ch s
  | .descCmp ch => Sys2Proof.Machine.execDescCmp ch s
  | .igather ch => Sys2Proof.Machine.execIgather ch s
  | .descNop ch => Sys2Proof.Machine.execDescNop ch s
  | .chanEnable ch => Sys2Proof.Machine.execChanEnable ch s
  | .chanDisableDrain ch => Sys2Proof.Machine.execChanDisableDrain ch s
  | .chanDisableAbort ch => Sys2Proof.Machine.execChanDisableAbort ch s
  | .partEnable p => Sys2Proof.Machine.execPartEnable p s
  | .partDisableDrain p => Sys2Proof.Machine.execPartDisableDrain p s
  | .partDisableAbort p => Sys2Proof.Machine.execPartDisableAbort p s
  | .cqHeadWrite q head => Sys2Proof.Machine.execCqHeadWrite q head s
  | .pacingRequest l => Sys2Proof.Machine.execPacingRequest l s
  | .overrun l => Sys2Proof.Machine.execOverrun l s
  | .plStuck l => Sys2Proof.Machine.execPlStuck l s
  | .pairCheck l => Sys2Proof.Machine.execPairCheck l s
  | .stuckClear l => Sys2Proof.Machine.execStuckClear l s
  | .clusterHung k => Sys2Proof.Machine.execClusterHung k s
  | .orphanTags k => Sys2Proof.Machine.execOrphanTags k s
  | .semWrite n v hw => Sys2Proof.Machine.execSemWrite n v hw s
  | .semAdd n v => Sys2Proof.Machine.execSemAdd n v s
  | .hello h maxVer ncarr jobtag => Sys2Proof.Machine.execHello h maxVer ncarr jobtag s
  | .ack h => Sys2Proof.Machine.execAck h s
  | .nak h => Sys2Proof.Machine.execNak h s
  | .token h t => Sys2Proof.Machine.execToken h t s
  | .verify h t => Sys2Proof.Machine.execVerify h t s
  | .vreply h t => Sys2Proof.Machine.execVreply h t s
  | .release h t => Sys2Proof.Machine.execRelease h t s
  | .decline h => Sys2Proof.Machine.execDecline h s
  | .shardreq h shard sequence rows => Sys2Proof.Machine.execShardreq h shard sequence rows s
  | .xnotice h index rawlen encoded prot => Sys2Proof.Machine.execXnotice h index rawlen encoded prot s
  | .cnotice h step length => Sys2Proof.Machine.execCnotice h step length s
  | .data h payload => Sys2Proof.Machine.execData h payload s
  | .rdone h => Sys2Proof.Machine.execRdone h s
  | .replayTimeout dst cls => Sys2Proof.Machine.execReplayTimeout dst cls s
  | .relink carrier => Sys2Proof.Machine.execRelink carrier s
  | .relinkAll => Sys2Proof.Machine.execRelinkAll s
  | .landCutoff o => Sys2Proof.Machine.execLandCutoff o s
  | .readResponse port tag status poison last => Sys2Proof.Machine.execReadResponse port tag status poison last s
  | .writeResponse port tag status => Sys2Proof.Machine.execWriteResponse port tag status s
  | .targetRequest port src tag wr addr len beats poison last => Sys2Proof.Machine.execTargetRequest port src tag wr addr len beats poison last s
  | .sourceReset port src => Sys2Proof.Machine.execSourceReset port src s
  | .portTimeout port response => Sys2Proof.Machine.execPortTimeout port response s
  | .portRetire port => Sys2Proof.Machine.execPortRetire port s
  | .portReset port => Sys2Proof.Machine.execPortReset port s
  | .restore port => Sys2Proof.Machine.execRestore port s
  | .portResetAck port rise => Sys2Proof.Machine.execPortResetAck port rise s
  | .portResetTimeout port => Sys2Proof.Machine.execPortResetTimeout port s
  | .backLaneCheck sat => Sys2Proof.Machine.execBackLaneCheck sat s
  | .satTrainingTimeout sat => Sys2Proof.Machine.execSatTrainingTimeout sat s
  | .atsCompletion p page perm => Sys2Proof.Machine.execAtsCompletion p page perm s
  | .pageResponse p page code => Sys2Proof.Machine.execPageResponse p page code s
  | .invalidationRequest p page pages => Sys2Proof.Machine.execInvalidationRequest p page pages s
  | .snoop line inv => Sys2Proof.Machine.execSnoop line inv s
  | .hostLinkDown hp => Sys2Proof.Machine.execHostLinkDown hp s
  | .hotReset => Sys2Proof.Machine.execHotReset s
  | .hostResponseTimeout => Sys2Proof.Machine.execHostResponseTimeout s
  | .hostTagOrphan => Sys2Proof.Machine.execHostTagOrphan s
  | .reattach v modes => Sys2Proof.Machine.execReattach v modes s
  | .droop => Sys2Proof.Machine.execDroop s
  | .droopHoldEnd => Sys2Proof.Machine.execDroopHoldEnd s
  | .coldReset u => Sys2Proof.Machine.execColdReset u s
  | .warmReset u => Sys2Proof.Machine.execWarmReset u s
  | .resetCtlWarm confirm u => Sys2Proof.Machine.execResetCtlWarm confirm u s
  | .partitionReset p confirm => Sys2Proof.Machine.execPartitionReset p confirm s
  | .heartbeatTimeout core => Sys2Proof.Machine.execHeartbeatTimeout core s
  | .protectionFault core why => Sys2Proof.Machine.execProtectionFault core why s
  | .restartCore core confirm => Sys2Proof.Machine.execRestartCore core confirm s
  | .coreRejoin core => Sys2Proof.Machine.execCoreRejoin core s
  | .update confirm => Sys2Proof.Machine.execUpdate confirm s
  | .imageStaged im => Sys2Proof.Machine.execImageStaged im s
  | .switch confirm => Sys2Proof.Machine.execSwitch confirm s
  | .discard confirm => Sys2Proof.Machine.execDiscard confirm s
  | .acceptance heartbeats => Sys2Proof.Machine.execAcceptance heartbeats s
  | .imageInstrumentWrite im u => Sys2Proof.Machine.execImageInstrumentWrite im u s
  | .lockAcquire l cores => Sys2Proof.Machine.execLockAcquire l cores s
  | .lockRenew l core => Sys2Proof.Machine.execLockRenew l core s
  | .leaseexp l => Sys2Proof.Machine.execLeaseexp l s
  | .fwNegGo p v => Sys2Proof.Machine.execFwNegGo p v s
  | .logRecord sev core code arg0 arg1 => Sys2Proof.Machine.execLogRecord sev core code arg0 arg1 s
  | .logHeadWrite head => Sys2Proof.Machine.execLogHeadWrite head s
  | .frequencyCheck mhz => Sys2Proof.Machine.execFrequencyCheck mhz s
  | .throttleLevel sensors => Sys2Proof.Machine.execThrottleLevel sensors s
  | .calUserWrite e v => Sys2Proof.Machine.execCalUserWrite e v s
  | .provision ident => Sys2Proof.Machine.execProvision ident s
  | .user sigOk => Sys2Proof.Machine.execUser sigOk s
  | .rma sigOk ident => Sys2Proof.Machine.execRma sigOk ident s
  | .scrap confirm => Sys2Proof.Machine.execScrap confirm s
  | .vppTimeout => Sys2Proof.Machine.execVppTimeout s
  | .vppLoss killed => Sys2Proof.Machine.execVppLoss killed s
  | .install p confirm => Sys2Proof.Machine.execInstall p confirm s
  | .remove p confirm => Sys2Proof.Machine.execRemove p confirm s
  | .bistSlice => Sys2Proof.Machine.execBistSlice s
  | .bistSliceEnd kind pass rows row bit => Sys2Proof.Machine.execBistSliceEnd kind pass rows row bit s
  | .marchYield kind => Sys2Proof.Machine.execMarchYield kind s
  | .unitMask word v => Sys2Proof.Machine.execUnitMask word v s
  | .force p => Sys2Proof.Machine.execForce p s
  | .budgetTableWrite p b k v => Sys2Proof.Machine.execBudgetTableWrite p b k v s
  | .hsetClear => Sys2Proof.Machine.execHsetClear s
  | .tgrpValidate v r => Sys2Proof.Machine.execTgrpValidate v r s
  | .barGroupValid v => Sys2Proof.Machine.execBarGroupValid v s
  | .cntSnap v => Sys2Proof.Machine.execCntSnap v s
  | .gcntSnap v => Sys2Proof.Machine.execGcntSnap v s
  | .watchSel v => Sys2Proof.Machine.execWatchSel v s
  | .shareSel v => Sys2Proof.Machine.execShareSel v s
  | .watchSample tap r => Sys2Proof.Machine.execWatchSample tap r s
  | .evqHeadWrite q head => Sys2Proof.Machine.execEvqHeadWrite q head s
  | .traceHeadWrite p head => Sys2Proof.Machine.execTraceHeadWrite p head s
  | .wfgBusyClear p => Sys2Proof.Machine.execWfgBusyClear p s
  | .badacc off width acc => Sys2Proof.Machine.execBadacc off width acc s
  | .registerWrite off width v => Sys2Proof.Machine.execRegisterWrite off width v s
  | .h2dResponse hp slot poison => Sys2Proof.Machine.execH2dResponse hp slot poison s
  | .backLaneCredits sat credits crcErr => Sys2Proof.Machine.execBackLaneCredits sat credits crcErr s
  | .sourceResetEnd port src => Sys2Proof.Machine.execSourceResetEnd port src s
  | .controllerResetDone => Sys2Proof.Machine.execControllerResetDone s
  | .vppOk eraseOk => Sys2Proof.Machine.execVppOk eraseOk s
  | .supplyFail => Sys2Proof.Machine.execSupplyFail s
  | .lockRelease l core => Sys2Proof.Machine.execLockRelease l core s
  | .keyCommandDone salt => Sys2Proof.Machine.execKeyCommandDone salt s

end Sys2Proof.Machine
end

