-- ==== Sys2Proof/Machine/Idle.lean ====
section
/-!
DEFINITION. What the block does when no command waits: the timestamp counts on.
-/

namespace Sys2Proof.Machine

/-- One count of the timestamp, which counts in steps of 2 ns (R346). The last count of a window waits for WINDOW_BOUNDARY, which does the work of the boundary (log entry 10). -/
def idle (s : State) : State := if (s.now + 2) % 1024 = 0 then s else { s with now := s.now + 2 }

end Sys2Proof.Machine
end

