-- ==== Sys2Proof/Safety.lean ====
section
/-!
DEFINITION. What claims about the block speak of: an instruction that is about to take effect, a state that keeps memory's canonical form, runs, and a run that stops nowhere.
-/

namespace Sys2Proof.Machine

/-- The instruction at a context's PC. -/
def insOf (s : State) (c : Nat) : Ins := insAt s c (s.ctx c).pc

/-- A context on a sequencer at an instruction boundary stands at an instruction of an opcode whose words pass steps 1 to 3 of R72; its CQ and CSEM pass R58; the instruction cache holds its words (R46); the limits of R75,
R128 and R185 let it issue; every handle it names is held by the directory cache (R10); it is no FETCH that the Ladle has issued (R85). -/
def atIssue (s : State) (c op : Nat) : Bool :=
  let pc := (s.ctx c).pc
  let i := insOf s c
  seated s c && pcOk (s.ctx c) pc && (icNeed s c).isNone && i.b.opcode = op && (baseBad s c pc).isEmpty && !nextBad s c pc && (extBad s c pc).isEmpty &&
    !(op = 0x14 && (s.ctx c).ahead.any fun a => a.slot = (s.ctx c).aslot && a.pc = pc) && i.cqOk s && !(isAsync s i && 4096 ≤ (s.ctx c).live.length) &&
    !(takesChan i && (pickChan s).isNone) && heldOps s c < 64 && (named s i).all fun h => hIdx h = 0 || dirHeld s (hIdx h)

/-- The state in which the instruction's own checks and its effect start (R72 step 4): its request has its number, its directory accesses are made and counted. -/
def atBody (s : State) (c : Nat) : State :=
  let i := insOf s c
  let got := (s.ctx c).filled
  let t := ((named s i).filter fun h => hIdx h ≠ 0).foldl (fun t h => if got.contains (hIdx h) then dirTouch t (hIdx h) else dirHit t (hIdx h)) s
  ({ t with nextOp := t.nextOp + 1 }.modCtx c fun v => { v with filled := [] }).cadd c 0 1

/-- The request that the instruction makes (R73). -/
def rqOf (s : State) (c : Nat) : Req := (insOf s c).req s

/-- A doorbell command finds the context at an instruction boundary with no command waiting (R50): it is applied at once, failures being raised first (R67). -/
def canRing (s : State) (c : Nat) : Bool := s.ready && (s.ctx c).cmds = [] && !midInstr s c

/-- A write of the register window that takes effect now: well formed, without a 1 in a reserved bit, after READY, and outside the emulated region while SHADOW is set. -/
def writeOk (s : State) (off width v : Nat) : Bool := s.ready && accessKind off width true = 0 && !rsvBits off width v && !(0x80000 ≤ off && shadow s)
/-- After a write of the emulated region the settings tables carry the running image's tag (R302). -/
def stampVer (s : State) : State :=
  match runImage s with
  | some im => if s.fw.accepted then { s with fw := { s.fw with setver := im.setWrite.toNat } } else s
  | none => s

/-- A peer packet that is taken: its check value is right, its JOBTAG names a partition of this carrier, its class is the one its type has (R250). -/
def packetOk (s : State) (h : Hdr) (typ p : Nat) : Bool :=
  peerUp s && h.crcOk && h.known && tagPart s h.jobtag.toNat = some p && h.dst.toNat = myCarrier s p &&
    (if typ ≤ pNak then h.cls.toNat ≠ 3 && (typ ≠ pHello || h.cls.toNat = 0) else h.cls.toNat = pktClass typ)
/-- The state once the header is done with: counters, the trace, the acknowledgement it carries (R249, R250). -/
def headed (s : State) (h : Hdr) (typ bytes p : Nat) : State :=
  let s := traceRecv ((s.gadd 0x248 1).gadd 0x160 (pktBytes bytes)) p h.src.toNat typ h.cls.toNat h.seq.toNat
  if h.ackv then ackStream s h.src.toNat h.cls.toNat h.ack.toNat else s
/-- A sequenced packet comes in its turn, and the rendezvous store has room for a request (R250, R252). -/
def inTurn (s : State) (h : Hdr) (typ bytes p : Nat) : Bool :=
  let t := headed s h typ bytes p
  t.fw.level ≠ 3 && h.seq.toNat = (t.stream h.src.toNat h.cls.toNat).rxExp && !(h.cls.toNat = 1 && rdvFull t)
/-- The state once such a packet is taken: its number is used up, it is acknowledged where that is due (R249). -/
def taken (s : State) (h : Hdr) (typ bytes p : Nat) : State :=
  let t := headed s h typ bytes p
  let v := t.stream h.src.toNat h.cls.toNat
  sendAck (t.setStream h.src.toNat h.cls.toNat { v with rxExp := (h.seq.toNat + 1) % 2 ^ 24, nakSent := false, busyNak := false }) p h.src.toNat h.cls.toNat

/-- Entry 0 is not on the free list (R9, R12). -/
def freeListOk (s : State) : Prop := 1 ≤ s.dir.fresh ∧ 0 ∉ s.dir.freed

/-- What a waiter of a semaphore asks for (R237). -/
def waiterAmt : SemWaiter → Nat
  | .ctx _ a => a
  | .sealing _ a => a

/-- Memory has its canonical form. -/
def memOk (s : State) : Prop := Memory.wf s.mem = true

/-- The state after n steps; none where one stops. -/
def runSteps : Nat → State → Option State
  | 0, s => some s
  | n + 1, s =>
    match step s with
    | .next t => runSteps n t
    | _ => none

/-- A run of n steps stops nowhere. -/
def safeFor (n : Nat) (s : State) : Prop := (runSteps n s).isSome = true

end Sys2Proof.Machine
end

