-- ==== Sys2Proof/Certificates/Slice0/Obligations.lean ====
section
/-!
DEFINITION. The statements for the provers. A statement about a command concludes what exec answers: `.next (settle t)`, where t is the state with the command's own effect
and settle runs everything that effect sets off within the same step (Machine/Engine.lean).
-/

open Sys2Proof Sys2Proof.Machine

/-- A step takes the command at the front of the queue and runs it on the state with the queue's rest (log entry 10). -/
def Obligations.StepRunsTheFrontCommand : Prop :=
  ∀ (s : State) (i : Instr) (rest : List Instr), s.pending = i :: rest → step s = exec i { s with pending := rest }

/-- With an empty queue a step idles: it answers a next state, at most two nanoseconds on, and nothing but the time differs (log entry 10, the model's choice). -/
def Obligations.StepIdlesOnAnEmptyQueue : Prop :=
  ∀ s : State, s.pending = [] → ∃ t, step s = .next t ∧ s.now ≤ t.now ∧ t.now ≤ s.now + 2 ∧ t = { s with now := t.now }

/-- NOP, DECL, BIND, RETIRE, PIN and UNPIN take effect where the rules of 03 let them. -/
def Obligations.ObjectInstructionsTakeEffect : Prop :=
  (∀ (c : BitVec 8) (s : State), atIssue s c.toNat 0x00 = true →
    exec (.nop c) s = .next (settle (boundary c.toNat (doneI (atBody s c.toNat) (insOf s c.toNat) (rqOf s c.toNat) {})))) ∧
  (∀ (c : BitVec 8) (s : State) (x : Nat),
    let i := insOf s c.toNat
    let b := atBody s c.toNat
    let t := dirAlloc (dirLeave b (.retryCtx i.c)) x (declObj b i)
    atIssue s c.toNat 0x01 = true → declOk b i = true → quotaOk b i.p = true → dirTurn b (.retryCtx i.c) = true → dirFree b = some x →
    exec (.decl c) s = .next (settle (boundary c.toNat
      (doneI (setG t i.c (i.aux 15 12) (handleOf t x)) i (rqOf s c.toNat) { handle := handleOf t x, result := i.e 0 47 0 })))) ∧
  (∀ (c : BitVec 8) (s : State) (a : Nat),
    let i := insOf s c.toNat
    let r := rqOf s c.toNat
    let b := atBody s c.toNat
    let h := hdlA b i
    let x := hIdx h
    let o := b.obj x
    let n := semBase b i.p + i.b.opb
    let got := getSpace b i.p (i.aux 1 0) o.rawlen false .none (some i.c) (.retryCtx i.c)
    atIssue s c.toNat 0x02 = true → operandOk b i.p h false = true → i.b.opb < semCount b i.p → i.e 0 15 0 ≠ 0 → bindTierOk o (i.aux 1 0) = true → o.st = .declared →
    o.holds = 0 → storeWaits b i.c = false → got.1 = some a →
    exec (.bind c) s = .next (settle (boundary c.toNat
      (joinSem (go (setG (touch ((bindAt (storeLeave got.2 i.c) x (i.aux 1 0) a o.rawlen).modObj x fun v => { v with sealAt := some (n, i.e 0 15 0), sealReq := some { r with handle := h } }) x)
        i.c (i.aux 7 4) (tqa (i.aux 1 0) a)) i r) n (.sealing x (i.e 0 15 0)))))) ∧
  (∀ (c : BitVec 8) (s : State),
    let i := insOf s c.toNat
    let r := rqOf s c.toNat
    let b := atBody s c.toNat
    let h := hdlA b i
    let x := hIdx h
    atIssue s c.toNat 0x03 = true → operandOk b i.p h true = true → (b.obj x).holds = 0 →
    ((b.obj x).st = .declared ∨ (b.obj x).st = .resident ∨ (b.obj x).st = .dropped ∨ (b.obj x).st = .poisoned) →
    exec (.retire c) s = .next (settle (boundary c.toNat (objFree (go b i r) x (some { r with handle := h }))))) ∧
  (∀ (c : BitVec 8) (s : State),
    let i := insOf s c.toNat
    let b := atBody s c.toNat
    let x := hIdx (hdlA b i)
    atIssue s c.toNat 0x04 = true → operandOk b i.p (hdlA b i) false = true →
    exec (.pin c) s = .next (settle (boundary c.toNat (doneI (touch (b.modObj x fun o => { o with pinned := true }) x) i (rqOf s c.toNat) {})))) ∧
  (∀ (c : BitVec 8) (s : State),
    let i := insOf s c.toNat
    let b := atBody s c.toNat
    let x := hIdx (hdlA b i)
    atIssue s c.toNat 0x05 = true → operandOk b i.p (hdlA b i) false = true →
    exec (.unpin c) s = .next (settle (boundary c.toNat (doneI (touch (b.modObj x fun o => { o with pinned := false }) x) i (rqOf s c.toNat) {}))))

/-- The five disposition instructions: on a DECLARED or BOUND object the disposition is fixed for its SEAL, and one fixed before it ends ABORTED; on a RESIDENT object it is the
event its target makes it (R82).
FETCH, PROMOTE and DEMOTE take effect: a promotion of a RESIDENT object, the regeneration of a DROPPED one, a demotion of a RESIDENT one; and a FETCH that the Ladle has issued
only retires. -/
def Obligations.DispositionsAndMovesTakeEffect : Prop :=
  (∀ (c : BitVec 8) (s : State) (k : Instr) (op d : Nat),
    (k, op, d) ∈ [(Instr.keep c, 0x10, 1), (Instr.sqz c, 0x11, 2), (Instr.spill c, 0x12, 3), (Instr.drop c, 0x13, 4), (Instr.stock c, 0x17, 5)] →
    let i := insOf s c.toNat
    let r := { rqOf s c.toNat with handle := hdlA (atBody s c.toNat) i }
    let b := atBody s c.toNat
    let x := hIdx (hdlA b i)
    let o := b.obj x
    atIssue s c.toNat op = true → operandOk b i.p (hdlA b i) false = true → dispOk b x d = true → o.holds = 0 →
    (o.st = .declared ∨ o.st = .bound →
      exec k s = .next (settle (boundary c.toNat ((endFixed (touch (go b i r) x) x 0x10 false).modObj x fun v => { v with fixed := some (d, r) })))) ∧
    (o.st = .resident → exec k s = .next (settle (boundary c.toNat (dispEv (touch (go b i r) x) x r))))) ∧
  ((∀ (c : BitVec 8) (s : State) (d : Dl) (k : Instr) (op : Nat), (k, op) ∈ [(Instr.fetch c, 0x14), (Instr.promote c, 0x15)] →
    let i := insOf s c.toNat
    let b := atBody s c.toNat
    let h := hdlA b i
    let x := hIdx h
    let o := b.obj x
    let r := { rqOf s c.toNat with dl := d, handle := h }
    atIssue s c.toNat op = true → dlOf b i (b.ctx i.c).dlbase = some d → fetchOk b i h = true → o.holds = 0 →
    (o.st = .resident → exec k s = .next (settle (boundary c.toNat (promoteResident (touch (go b i r) x) x (i.aux 1 0) (i.aux 2 2 = 1) r)))) ∧
    (o.st = .dropped → slotFor b x = true → maskUp b (b.slot o.recipe).clmask = true → classBarred b i.p 2 = false →
      exec k s = .next (settle (boundary c.toNat (regenFor (touch (go b i r) x) x r false 1 false))))) ∧
  (∀ (c : BitVec 8) (s : State) (t : Nat) (f : Form),
    let i := insOf s c.toNat
    let auto : Bool := i.aux 2 2 = 1
    let h := hdlA (atBody s c.toNat) i
    let x := hIdx h
    let b := if auto then demoteCount (atBody s c.toNat) x else atBody s c.toNat
    let o := b.obj x
    let r := { rqOf s c.toNat with handle := h, auto := auto }
    let u := go b i (rqOf s c.toNat)
    atIssue s c.toNat 0x16 = true → operandOk (atBody s c.toNat) i.p h false = true → ((atBody s c.toNat).obj x).st = .resident → demoteTo b x (i.aux 1 0) auto = some (.tier t f) →
    o.st = .resident → o.holds = 0 → o.snapHold = 0 → o.pinned = false → o.home < t → classBarred u i.p 1 = false →
    exec (.demote c) s = .next (settle (boundary c.toNat ((accept u { id := 0, req := r, kind := .move x t f true, cls := 1 } true).todo (.tryOp (nextId u)))))) ∧
  (∀ (c : BitVec 8) (s : State),
    let v := s.ctx c.toNat
    let i := insOf s c.toNat
    seated s c.toNat = true → pcOk v v.pc = true → icNeed s c.toNat = none → i.b.opcode = 0x14 → baseBad s c.toNat v.pc = [] → nextBad s c.toNat v.pc = false → extBad s c.toNat v.pc = [] →
    (v.ahead.any fun a => a.slot = v.aslot && a.pc = v.pc) = true →
    exec (.fetch c) s = .next (settle (boundary c.toNat (retire ((s.cadd c.toNat 0 1).modCtx c.toNat fun v => { v with ahead := v.ahead.filter fun a => !(a.slot = v.aslot && a.pc = i.pc) }) i)))))

/-- RCPDEF, RCPRUN, RNGCAP and RNGSET take effect (R86 to R88). -/
def Obligations.RecomputeInstructionsTakeEffect : Prop :=
  (∀ (c : BitVec 8) (s : State),
    let i := insOf s c.toNat
    let r := rqOf s c.toNat
    let b := atBody s c.toNat
    let n := rcpBase b i.p + i.b.opa
    atIssue s c.toNat 0x20 = true → i.b.opa < rcpCount b i.p → slotRefs b n = 0 →
    (i.aux 0 0 = 1 → exec (.rcpdef c) s = .next (settle (boundary c.toNat (rcpInval (go b i r) r n)))) ∧
    (i.aux 0 0 = 0 → inWindow b i.p (i.e 0 63 0) (i.e 0 95 64) = true → i.e 0 95 64 % 16 = 0 → 64 ≤ i.e 0 95 64 → i.e 0 95 64 ≤ 65536 → tqaTier (i.e 0 63 0) = 1 →
      quotaOk b i.p = true → classBarred b i.p 11 = false →
      exec (.rcpdef c) s = .next (settle (boundary c.toNat (rcpdefBegin (go b i r) r n (i.e 0 63 0) (i.e 0 95 64)))))) ∧
  (∀ (c : BitVec 8) (s : State) (d : Dl) (a : Nat),
    let i := insOf s c.toNat
    let b := atBody s c.toNat
    let h := hdlA b i
    let x := hIdx h
    let o := b.obj x
    let t := i.aux 1 0
    let n := rcpBase b i.p + i.b.opb
    let r := { rqOf s c.toNat with dl := d, handle := h }
    let got := getSpace b i.p t o.rawlen false .none (some i.c) (.retryCtx i.c)
    atIssue s c.toNat 0x21 = true → dlOf b i (b.ctx i.c).dlbase = some d → operandOk b i.p h false = true →
    (o.st = .dropped → i.b.opb = 0 → i.aux 7 4 = 0 → t = 1 → slotFor b x = true →
      exec (.rcprun c) s = .next (settle (boundary c.toNat (promoteEv (touch (go b i r) x) x 1 false r)))) ∧
    (o.st = .declared → o.clsP = false → o.holds = 0 → t < 2 → i.b.opb < rcpCount b i.p → (b.slot n).valid = true → (b.slot n).outlen = o.rawlen →
      maskUp b (b.slot n).clmask = true → classBarred b i.p 2 = false → got.1 = some a →
      exec (.rcprun c) s = .next (settle (boundary c.toNat (runInto got.2 i r x h t a n))))) ∧
  (∀ (c : BitVec 8) (s : State),
    let i := insOf s c.toNat
    let b := atBody s c.toNat
    let h := hdlA b i
    let x := hIdx h
    atIssue s c.toNat 0x22 = true → operandOk b i.p h false = true → (b.obj x).clsP = false → ((b.obj x).st = .declared ∨ (b.obj x).st = .bound) → i.aux 7 0 ≠ 0 →
    maskUp b (i.aux 7 0) = true →
    exec (.rngcap c) s = .next (settle (boundary c.toNat (doneI ((touch b x).modObj x fun v => { v with clmask := i.aux 7 0 }) i (rqOf s c.toNat) {})))) ∧
  (∀ (c : BitVec 8) (s : State),
    let i := insOf s c.toNat
    let r := rqOf s c.toNat
    let b := atBody s c.toNat
    let h := hdlA b i
    let x := hIdx h
    let m := i.aux 7 0
    let cap := (b.slot (b.obj x).recipe).capmask
    let u := touch (go b i r) x
    atIssue s c.toNat 0x23 = true → operandOk b i.p h false = true → (b.obj x).rngcap = true → m ≠ 0 → m ||| cap = cap → maskUp b m = true →
    exec (.rngset c) s = .next (settle (boundary c.toNat
      ((accept u { id := 0, req := { r with handle := h }, kind := .rngset x m 0 0, cls := 2, phase := .running } false).todo (.tryOp (nextId u))))))

/-- GATHER, SWEEP, LAND and TSTREAM begin their operations (R89 to R92).
XCHG in its three directions and SNAP begin their operations (R93, R94). -/
def Obligations.TrainingInstructionsTakeEffect : Prop :=
  ((∀ (c : BitVec 8) (s : State) (d : Dl) (a : Nat),
    let i := insOf s c.toNat
    let b := atBody s c.toNat
    let m := hIdx (hdlA b i)
    let w := hIdx (hdlB b i)
    let got := getSpace b i.p (i.aux 1 0) (b.obj w).rawlen false .none (some i.c) (.retryCtx i.c)
    let rows := match gatherIdx i with
      | some (h, n, rb) => (some (hIdx h, rb), fp32s n (objBytes got.2 (hIdx h) 0 (4 * n)))
      | none => (none, [])
    atIssue s c.toNat 0x30 = true → dlOf b i (b.ctx i.c).dlbase = some d → gatherOk b i = true → classBarred b i.p 3 = false → got.1 = some a →
    exec (.gather c) s = .next (settle (boundary c.toNat
      (gatherBegin (touchAll (go got.2 i (rqOf s c.toNat)) (named got.2 i)) { rqOf s c.toNat with dl := d } m w (i.aux 1 0) a (i.aux 5 2) (i.e 0 15 0) rows.1 rows.2)))) ∧
  (∀ (c : BitVec 8) (s : State),
    let i := insOf s c.toNat
    let b := atBody s c.toNat
    atIssue s c.toNat 0x31 = true → sweepOk b i = true → classBarred b i.p 4 = false →
    exec (.sweep c) s = .next (settle (boundary c.toNat
      (sweepBegin (touchAll (go b i (rqOf s c.toNat)) (named b i)) (rqOf s c.toNat) (hIdx (hdlA b i)) (hIdx (hdlB b i)) (hIdx (i.e 0 31 0)) (hIdx (i.e 0 63 32)) (i.e 0 79 64)
        (i.aux 0 0 = 1))))) ∧
  (∀ (c : BitVec 8) (s : State) (d : Dl),
    let i := insOf s c.toNat
    let b := atBody s c.toNat
    atIssue s c.toNat 0x32 = true → dlOf b i (b.ctx i.c).dlbase = some d → landOk b i = true → classBarred b i.p 5 = false →
    exec (.land c) s = .next (settle (boundary c.toNat
      (landBegin (touchAll (go b i (rqOf s c.toNat)) (named b i)) { rqOf s c.toNat with dl := d } (hIdx (hdlA b i)) (hIdx (hdlB b i)) (i.e 0 31 16) (i.e 0 15 0) (i.aux 0 0 = 1)
        (i.aux 1 1))))) ∧
  (∀ (c : BitVec 8) (s : State) (d : Dl),
    let i := insOf s c.toNat
    let b := atBody s c.toNat
    atIssue s c.toNat 0x33 = true → dlOf b i (b.ctx i.c).dlbase = some d → teachOk b i = true → teachUp b i = true → classBarred b i.p 3 = false →
    exec (.tstream c) s = .next (settle (boundary c.toNat
      (teachBegin (touchAll (go b i (rqOf s c.toNat)) (named b i)) { rqOf s c.toNat with dl := d } (hIdx (hdlA b i)) (i.aux 1 0) (i.e 0 7 0) (i.e 0 31 16) (hIdx (i.e 0 63 32))
        (hIdx (hdlB b i))))))) ∧
  ((∀ (c : BitVec 8) (s : State) (d : Dl),
    let i := insOf s c.toNat
    let b := atBody s c.toNat
    let r := { rqOf s c.toNat with dl := d }
    let u := touchAll (go b i (rqOf s c.toNat)) (named b i)
    let x := hIdx (hdlA b i)
    let y := hIdx (hdlB b i)
    atIssue s c.toNat 0x34 = true → dlOf b i (b.ctx i.c).dlbase = some d → xchgOk b i = true → classBarred b i.p 6 = false →
    (i.e 0 17 16 = 0 → exec (.xchg c) s = .next (settle (boundary c.toNat (sendBegin u r x (i.e 0 15 0) (i.e 0 47 32) none)))) ∧
    (i.e 0 17 16 = 1 → exec (.xchg c) s = .next (settle (boundary c.toNat (recvBegin u r y (i.e 0 15 0) (i.e 0 47 32) (i.aux 1 0) none)))) ∧
    (i.e 0 17 16 = 2 →
      exec (.xchg c) s = .next (settle (boundary c.toNat (bothBegin u r x y (i.e 0 15 0) (i.e 0 47 32) (i.aux 1 0)))))) ∧
  (∀ (c : BitVec 8) (s : State) (a : Nat),
    let i := insOf s c.toNat
    let r := rqOf s c.toNat
    let b := atBody s c.toNat
    let h := hdlA b i
    let o := b.obj (hIdx h)
    atIssue s c.toNat 0x35 = true → residentP b i.p h = true → quotaOk b i.p = true → b.hostl.detached = false →
    (o.prot = true → aesUsable b ≠ [] ∧ (b.part i.p).nonce ≠ 2 ^ 64 - 1) → classBarred b i.p 8 = false → place b i.p 3 (formSize o (if o.prot then .prot else .raw)) false = some a →
    exec (.snap c) s = .next (settle (boundary c.toNat (snapBegin (touch (go b i r) (hIdx h)) { r with gdst := i.aux 3 0 } (hIdx h) a)))))

/-- BOUNCE, FILL, CMP and INLINE begin their operations (R95 to R97). -/
def Obligations.ByteInstructionsTakeEffect : Prop :=
  (∀ (c : BitVec 8) (s : State),
    let i := insOf s c.toNat
    let r := rqOf s c.toNat
    let b := atBody s c.toNat
    let h := hdlA b i
    let o := b.obj (hIdx h)
    atIssue s c.toNat 0x36 = true → inWindow b i.p (i.e 0 63 0) (i.e 1 95 48) = true → tqaTier (i.e 0 63 0) = 3 → operandOk b i.p h false = true →
    rangeOk o 64 (i.e 1 47 0) (i.e 1 95 48) = true → o.prot = false → o.home < 3 → writable o = true → (i.aux 0 0 = 1 → o.st = .resident) → b.hostl.detached = false →
    classBarred b i.p 7 = false →
    exec (.bounce c) s = .next (settle (boundary c.toNat
      (bounceBegin (touch (go b i r) (hIdx h)) { r with handle := h } (hIdx h) (i.e 1 47 0) (i.e 1 95 48) (i.e 0 63 0) (i.aux 0 0 = 1))))) ∧
  (∀ (c : BitVec 8) (s : State),
    let i := insOf s c.toNat
    let r := rqOf s c.toNat
    let b := atBody s c.toNat
    let h := hdlA b i
    let o := b.obj (hIdx h)
    atIssue s c.toNat 0x37 = true → operandOk b i.p h false = true → rangeOk o 8 (i.e 0 47 0) (i.e 0 95 48) = true → writable o = true → ¬(o.home = 3 ∧ b.hostl.detached = true) →
    classBarred b i.p 11 = false →
    exec (.fill c) s = .next (settle (boundary c.toNat
      (fillBegin (touch (go b i r) (hIdx h)) { r with handle := h } (hIdx h) (i.e 0 47 0) (i.e 0 95 48) (i.e 1 63 0))))) ∧
  (∀ (c : BitVec 8) (s : State),
    let i := insOf s c.toNat
    let r := rqOf s c.toNat
    let b := atBody s c.toNat
    let o := b.obj (hIdx (hdlA b i))
    let q := b.obj (hIdx (hdlB b i))
    atIssue s c.toNat 0x38 = true → operandOk b i.p (hdlA b i) false = true → operandOk b i.p (hdlB b i) false = true → o.st = .resident → q.st = .resident →
    rangeOk o 8 (i.e 0 47 0) (i.e 0 95 48) = true → rangeOk q 8 (i.e 0 47 0) (i.e 0 95 48) = true → ¬((o.home = 3 ∨ q.home = 3) ∧ b.hostl.detached = true) →
    (o.form = .enc ∨ q.form = .enc → decUsable b = true) → classBarred b i.p 11 = false →
    exec (.cmp c) s = .next (settle (boundary c.toNat
      (cmpBegin (touchAll (go b i r) (named b i)) { r with handle := hdlA b i } (hIdx (hdlA b i)) (hIdx (hdlB b i)) (i.e 0 47 0) (i.e 0 95 48))))) ∧
  (∀ (c : BitVec 8) (s : State),
    let i := insOf s c.toNat
    let r := rqOf s c.toNat
    let b := atBody s c.toNat
    let a := (b.ctx i.c).gr (i.b.opa % 16)
    let n := i.aux 6 0
    atIssue s c.toNat 0x39 = true → i.b.areg = 1 → n ≠ 0 → n ≤ 16 * nextMax (b.ctx i.c).plan.format → a % 4096 + n ≤ 4096 → inWindow b i.p a n = true → t3Away b a = false →
    classBarred b i.p 11 = false → isHeld (go b i r) i.c = false →
    exec (.inline c) s = .next (settle (boundary c.toNat (inlineBegin (go b i r) r a ((i.ext.flatMap (leBytes 16)).take n)))))

/-- WAIT, SIGNAL, FENCE, BAR and MARKDEP take effect (R98 to R101): an amount that is there is taken at once, a wait that cannot be served blocks the context. -/
def Obligations.SyncInstructionsTakeEffect : Prop :=
  (∀ (c : BitVec 8) (s : State),
    let i := insOf s c.toNat
    let r := rqOf s c.toNat
    let b := atBody s c.toNat
    let n := semBase b i.p + i.b.opa
    let m := b.sem n
    atIssue s c.toNat 0x40 = true → i.aux 0 0 = 0 → i.b.opa < semCount b i.p →
    (m.q = [] → i.b.opb ≤ m.val →
      exec (.wait c) s = .next (settle (boundary c.toNat (doneI (b.setSem n { m with val := m.val - i.b.opb }) i r { result := m.val - i.b.opb })))) ∧
    (i.b.opb ≠ 0 → m.q ≠ [] ∨ m.val < i.b.opb → storeWaits b i.c = false →
      exec (.wait c) s = .next (settle (boundary c.toNat (joinSem (traceBegin (block b i.c 1 n r) i.c) n (.ctx i.c i.b.opb)))))) ∧
  (∀ (c : BitVec 8) (s : State),
    let i := insOf s c.toNat
    let r := rqOf s c.toNat
    let b := atBody s c.toNat
    let n := ringBase b i.p + i.b.opa
    atIssue s c.toNat 0x40 = true → i.aux 0 0 = 1 → ringOkFor b i.p i.b.opa = true →
    (∀ h, (ringPop b n (.ctx i.c)).1 = some h →
      exec (.wait c) s = .next (settle (boundary c.toNat
        (doneI (setG (ringPop b n (.ctx i.c)).2 i.c (i.aux 7 4) h) i r { handle := h, result := ringCount' ((ringPop b n (.ctx i.c)).2.ring n) })))) ∧
    (ringCount' (b.ring n) = 0 →
      exec (.wait c) s = .next (settle (boundary c.toNat (traceBegin (block (ringPop b n (.ctx i.c)).2 i.c 5 n { r with gdst := i.aux 7 4 }) i.c))))) ∧
  (∀ (c : BitVec 8) (s : State),
    let i := insOf s c.toNat
    let r := rqOf s c.toNat
    let b := atBody s c.toNat
    let n := semBase b i.p + i.b.opa
    atIssue s c.toNat 0x41 = true → i.aux 0 0 = 0 → i.b.opa < semCount b i.p → isHeld b i.c = false →
    exec (.signal c) s = .next (settle (boundary c.toNat (doneI (semAddTo b n i.b.opb (.ctx i.c)) i r { result := min ((b.sem n).val + i.b.opb) 0xFFFF })))) ∧
  (∀ (c : BitVec 8) (s : State),
    let i := insOf s c.toNat
    let r := rqOf s c.toNat
    let b := atBody s c.toNat
    let h := hdlB b i
    let n := ringBase b i.p + i.b.opa
    let got := ringPush (touch b (hIdx h)) n h (.ctx i.c) none
    atIssue s c.toNat 0x41 = true → i.aux 0 0 = 1 → ringOkFor b i.p i.b.opa = true → operandOk b i.p h false = true → isHeld (touch b (hIdx h)) i.c = false →
    (got.2 = true → exec (.signal c) s = .next (settle (boundary c.toNat (doneI got.1 i r { result := ringCount' (got.1.ring n) })))) ∧
    (got.2 = false → exec (.signal c) s = .next (settle (boundary c.toNat (traceBegin (block got.1 i.c 5 n r) i.c))))) ∧
  (∀ (c : BitVec 8) (s : State),
    let i := insOf s c.toNat
    let r := rqOf s c.toNat
    let b := atBody s c.toNat
    atIssue s c.toNat 0x42 = true →
    exec (.fence c) s = .next (settle (boundary c.toNat ((holdOp (go b i r) r (.fence r.id (b.ctx i.c).live.length)).todo (.fences i.c))))) ∧
  (∀ (c : BitVec 8) (s : State) (g : Nat),
    let i := insOf s c.toNat
    let r := rqOf s c.toNat
    let b := atBody s c.toNat
    atIssue s c.toNat 0x43 = true → barFor b i.p (i.b.opa % 256) = some g → barChild b g i.c = true → ((b.bar g).latched.find? fun l => l.1 = i.c) = none →
    (b.node (barLeaf b g)).arrived.any (fun e => e.1 = i.c) = false → b.ops.any (fun o => o.req.who = .ctx i.c && o.kind = .heldBar g) = false → isHeld b i.c = false →
    exec (.bar c) s = .next (settle (boundary c.toNat (arriveCtx (block b i.c 2 g r) g i.c)))) ∧
  (∀ (c : BitVec 8) (s : State),
    let i := insOf s c.toNat
    let b := atBody s c.toNat
    atIssue s c.toNat 0x44 = true → i.b.opa < semCount b i.p →
    exec (.markdep c) s = .next (settle (boundary c.toNat (doneI b i (rqOf s c.toNat) {}))))

/-- DEADLINE sets DLBASE as MODE says, a sum above 2^64 - 1 saturating; mode 3, and operands that the mode does not have, complete with PERMISSION; RESULT is the new DLBASE; no operation in flight
is touched, so each keeps its latest start (R102). -/
def Obligations.DeadlineSetsDlbase : Prop :=
  ∀ (c : BitVec 8) (s : State),
    let i := insOf s c.toNat
    let r := rqOf s c.toNat
    let b := atBody s c.toNat
    let off := i.b.opa + i.b.opb * 2 ^ 32
    let set := fun (v : Nat) => doneI (b.modCtx i.c fun k => { k with dlbase := v }) i r { result := v }
    atIssue s c.toNat 0x45 = true →
    (i.aux 1 0 = 0 → i.b.areg = 0 → exec (.deadline c) s = .next (settle (boundary c.toNat (set (min (b.now + off) (2 ^ 64 - 1)))))) ∧
    (i.aux 1 0 = 1 → i.b.areg = 1 → i.b.opb = 0 → exec (.deadline c) s = .next (settle (boundary c.toNat (set ((b.ctx i.c).gr (i.b.opa % 16)))))) ∧
    (i.aux 1 0 = 2 → i.b.areg = 0 → exec (.deadline c) s = .next (settle (boundary c.toNat (set (min ((b.ctx i.c).dlbase + off) (2 ^ 64 - 1)))))) ∧
    (i.aux 1 0 = 3 ∨ (i.aux 1 0 = 1 ∧ (i.b.areg ≠ 1 ∨ i.b.opb ≠ 0)) ∨ (i.aux 1 0 ≠ 1 ∧ i.b.areg = 1) →
      exec (.deadline c) s = .next (settle (boundary c.toNat (failI b i r 0x20)))) ∧ ∀ v, (set v).ops = b.ops

/-- EPOCH, BUDGET, WATCH and REPORT take effect (R103 to R106).
LOOP enters its body with its count, leaves it out at a count of 0, and with END goes round or ends (R108). -/
def Obligations.ControlInstructionsTakeEffect : Prop :=
  ((∀ (c : BitVec 8) (s : State),
    let i := insOf s c.toNat
    let r := rqOf s c.toNat
    let b := retireTransient (epochStep (atBody s c.toNat) i.c i.p) i.c i.p
    let v := b.ctx i.c
    let next := v.slotAt (1 - v.aslot)
    atIssue s c.toNat 0x50 = true →
    (next.loading = none → exec (.epoch c) s = .next (settle (boundary c.toNat (epochGo b i r true)))) ∧
    (next.loading.isSome = true → exec (.epoch c) s = .next (settle (boundary c.toNat (block b i.c 6 0 r))))) ∧
  (∀ (c : BitVec 8) (s : State),
    let i := insOf s c.toNat
    let b := atBody s c.toNat
    let k := i.aux 3 0
    let ceil := reg b (0x92000 + 0x100 * i.p + 8 * k)
    let w := min (opA b i) (bitsOf ceil 31 0) + min (opB b i) (bitsOf ceil 63 32) * 2 ^ 32
    atIssue s c.toNat 0x51 = true → k < 12 →
    exec (.budget c) s = .next (settle (boundary c.toNat
      (doneI ((setReg b (0x90000 + 0x200 * i.p + 0x100 * (1 - (b.part i.p).budActive) + 8 * k) w).modPart i.p fun v => { v with budDirty := true }) i (rqOf s c.toNat) { result := w })))) ∧
  (∀ (c : BitVec 8) (s : State),
    let i := insOf s c.toNat
    let r := rqOf s c.toNat
    let b := atBody s c.toNat
    let t := i.b.opb
    let h := hdlA b i
    atIssue s c.toNat 0x52 = true →
    (i.aux 5 5 = 1 → (b.tapOf t).armed = true → (b.tapOf t).part = i.p → i.b.opa = 0 → i.aux 3 0 = 0 →
      exec (.watch c) s = .next (settle (boundary c.toNat (doneI (disarmTap b t) i r { result := t })))) ∧
    (∀ n, i.aux 5 5 = 0 → freeTap b i.p = some n → operandOk b i.p h false = true → (b.obj (hIdx h)).st = .resident → t = 0 → i.aux 3 0 ≤ 4 → (i.aux 3 0 ≠ 0 ∨ i.aux 4 4 = 1) →
      exec (.watch c) s = .next (settle (boundary c.toNat (doneI (armTap b n i.p h (i.aux 3 0) (i.aux 4 4 = 1)) i r { result := n }))))) ∧
  (∀ (c : BitVec 8) (s : State),
    let i := insOf s c.toNat
    let r := rqOf s c.toNat
    let b := atBody s c.toNat
    let a := i.e 0 63 0
    let bs := if i.aux 1 0 = 1 then leBytes 64 (entryWord b (hIdx (hdlA b i))) else if i.aux 1 0 = 2 then cntBlock b i.c else poolBlock b i.p
    atIssue s c.toNat 0x53 = true →
    (i.aux 1 0 = 0 → exec (.report c) s = .next (settle (boundary c.toNat (doneI b i r { detail := i.b.opb, result := opA b i })))) ∧
    (i.aux 1 0 ≠ 0 → inWindow b i.p a bs.length = true → (i.aux 1 0 = 1 → operandOk b i.p (hdlA b i) true = true) → a % 64 = 0 → (tqaTier a = 1 ∨ tqaTier a = 3) →
      t3Away b a = false → classBarred b i.p 11 = false →
      exec (.report c) s = .next (settle (boundary c.toNat (reportBegin (go b i r) { r with detail := i.b.opb } a bs)))))) ∧
  ((∀ (c : BitVec 8) (s : State),
    let i := insOf s c.toNat
    let r := rqOf s c.toNat
    let b := atBody s c.toNat
    let n := opA b i % 2 ^ 32
    atIssue s c.toNat 0x55 = true → i.aux 0 0 = 0 → (b.ctx i.c).loops.length < 4 →
    (n ≠ 0 → exec (.loop c) s = .next (settle (boundary c.toNat ((doneI b i r {}).modCtx i.c fun v => { v with loops := (n, i.pc + i.len) :: v.loops })))) ∧
    (n = 0 → pcOk (b.ctx i.c) i.b.opb = true →
      exec (.loop c) s = .next (settle (boundary c.toNat ((doneI b i r {}).modCtx i.c fun v => { v with pc := i.b.opb, ladlePos := 0 }))))) ∧
  (∀ (c : BitVec 8) (s : State) (n body : Nat) (l : List (Nat × Nat)),
    let i := insOf s c.toNat
    let r := rqOf s c.toNat
    let b := atBody s c.toNat
    atIssue s c.toNat 0x55 = true → i.aux 0 0 = 1 → (b.ctx i.c).loops = (n, body) :: l → i.b.opa = 0 → i.b.opb = 0 → i.b.areg = 0 →
    (n = 1 → exec (.loop c) s = .next (settle (boundary c.toNat ((doneI b i r {}).modCtx i.c fun v => { v with loops := l })))) ∧
    (n ≠ 1 → exec (.loop c) s = .next (settle (boundary c.toNat ((doneI b i r {}).modCtx i.c fun v => { v with loops := (n - 1, body) :: l, pc := body, ladlePos := 0 }))))))

/-- JUMP sets PC to OPA, or to bits [31:0] of G[OPA[3:0]] where AREG is 1, when its COND holds; a taken target that breaks R65 raises PC_RANGE (cause 5); an untaken JUMP does not
check its target (R107). -/
def Obligations.JumpGoesWhereItsConditionSays : Prop :=
  ∀ (c : BitVec 8) (s : State),
    let i := insOf s c.toNat
    let r := rqOf s c.toNat
    let b := atBody s c.toNat
    let g := (b.ctx i.c).gr (i.aux 7 4) % 2 ^ 32
    let dst := if i.b.areg = 1 then (b.ctx i.c).gr (i.b.opa % 16) % 2 ^ 32 else i.b.opa % 2 ^ 32
    let taken : Bool := i.aux 1 0 = 0 || (i.aux 1 0 = 1 && g = 0) || (i.aux 1 0 = 2 && g ≠ 0) || (i.aux 1 0 = 3 && bitOf (b.part i.p).nf ((b.ctx i.c).step % 4))
    atIssue s c.toNat 0x54 = true →
    (taken = true → pcOk (b.ctx i.c) dst = true →
      exec (.jump c) s = .next (settle (boundary c.toNat ((doneI b i r {}).modCtx i.c fun v => { v with pc := dst, ladlePos := 0 })))) ∧
    (taken = true → pcOk (b.ctx i.c) dst = false → exec (.jump c) s = .next (settle (boundary c.toNat (raiseBad b i.c i.pc 0x54 [⟨5, 0, 0⟩])))) ∧
    (taken = false → exec (.jump c) s = .next (settle (boundary c.toNat (doneI b i r {}))))

/-- HALT writes its record at issue with RESULT = CODE and then applies the HALT event of Table 2.4: the context goes through STOPPING to HALTED (R109). -/
def Obligations.HaltWritesItsRecordAndStops : Prop :=
  ∀ (c : BitVec 8) (s : State),
    let i := insOf s c.toNat
    let t := enterStopping (doneI (atBody s c.toNat) i (rqOf s c.toNat) { result := i.b.aux }) c.toNat .halted false
    atIssue s c.toNat 0x5F = true →
    exec (.halt c) s = .next (settle (boundary c.toNat t)) ∧ (t.ctx c.toNat).st = .stopping ∧ (t.ctx c.toNat).target = .halted

/-- The rows of the Kwemal instructions with their opcodes (Table 2.6). -/
def kwemalRows (c : BitVec 8) : List (Instr × Nat) :=
  [(.nop c, 0x00), (.decl c, 0x01), (.bind c, 0x02), (.retire c, 0x03), (.pin c, 0x04), (.unpin c, 0x05), (.keep c, 0x10), (.sqz c, 0x11), (.spill c, 0x12), (.drop c, 0x13),
   (.stock c, 0x17), (.fetch c, 0x14), (.promote c, 0x15), (.demote c, 0x16), (.rcpdef c, 0x20), (.rcprun c, 0x21), (.rngcap c, 0x22), (.rngset c, 0x23), (.gather c, 0x30),
   (.sweep c, 0x31), (.land c, 0x32), (.tstream c, 0x33), (.xchg c, 0x34), (.snap c, 0x35), (.bounce c, 0x36), (.fill c, 0x37), (.cmp c, 0x38), (.inline c, 0x39), (.wait c, 0x40),
   (.signal c, 0x41), (.fence c, 0x42), (.bar c, 0x43), (.markdep c, 0x44), (.deadline c, 0x45), (.epoch c, 0x50), (.budget c, 0x51), (.watch c, 0x52), (.report c, 0x53),
   (.jump c, 0x54), (.loop c, 0x55), (.halt c, 0x5F)]

/-- OPCODE_UNASSIGNED raises the exceptions that the checks of the base word find, one for each, in ascending order of their causes. UNREPORTED_FAILURE raises every failure noted
and notes them no more. ICACHE_FILL counts the 128 bytes at the port that R258 chooses; its line becomes the first of the 2,048 that the cache holds, or, where its read failed,
IFETCH_FAULT (cause 6) is raised with the status of the failure; the line is the one of the base word where that is missing, else the last one of the instruction.
DIRECTORY_MISS_FILL makes the entry the most recently used of its set and ends the miss that held the instruction (R10, R46, R64, R65, R258; OPCODE 0 in the record of IFETCH_FAULT is
the model's choice, log entry 152).
Whichever instruction it is: a failed check of a word raises its exceptions and nothing of the instruction happens; a word that is sound but whose NEXT does not fit its encoding
completes with PERMISSION (R65, R71, R72). -/
def Obligations.ExceptionsAndFillsTakeEffect : Prop :=
  ((∀ (c : BitVec 8) (s : State),
    let v := s.ctx c.toNat
    let op := (decodeBase (planWord s c.toNat v.pc)).opcode
    seated s c.toNat = true → pcOk v v.pc = true → icNeed s c.toNat = none → outOfTable s c.toNat op = true → baseBad s c.toNat v.pc ≠ [] →
    exec (.opcodeUnassigned c) s = .next (settle (raiseBad s c.toNat v.pc op (baseBad s c.toNat v.pc)))) ∧
  (∀ (c : BitVec 8) (s : State),
    let v := s.ctx c.toNat
    let raise := fun (t : State) (f : Fail) => raiseExc t c.toNat { cause := 7, status := f.status, pc := f.pc, opcode := f.opcode, handle := f.handle, detail := f.detail }
    v.st = .active → v.seq.isSome = true → v.waitKind = 0 → v.miss = none → v.fails ≠ [] →
    exec (.unreportedFailure c) s = .next (settle (v.fails.foldl raise (s.modCtx c.toNat fun v => { v with fails := [] })))) ∧
  (∀ (c : BitVec 8) (s : State) (k : Nat),
    let v := s.ctx c.toNat
    let o := s.obj (planObj s c.toNat)
    let held := fun (n : Nat) => s.icache.contains (v.plan.handle, n)
    let last := (v.pc + 16 * (wordsAt s c.toNat v.pc).2.length) / 128
    let t := match portFor s o.home (tqaOff o.homeaddr + k * 128) (k / 32) 0 with
      | some n => s.gadd (0x10 * n) 128
      | none => s
    seated s c.toNat = true → pcOk v v.pc = true → (held (v.pc / 128) = false ∧ k = v.pc / 128) ∨ (held (v.pc / 128) = true ∧ held last = false ∧ k = last) →
    exec (.icacheFill c .ok) s = .next (settle { t with icache := ((v.plan.handle, k) :: t.icache).take 2048 }) ∧
    exec (.icacheFill c .checkFail) s = .next (settle (raiseExc t c.toNat { cause := 6, status := 0x12, pc := v.pc, opcode := 0 })) ∧
    exec (.icacheFill c .portFault) s = .next (settle (raiseExc t c.toNat { cause := 6, status := 0x30, pc := v.pc, opcode := 0 }))) ∧
  (∀ (c : BitVec 8) (s : State) (x : Nat),
    (s.ctx c.toNat).st = .active → (s.ctx c.toNat).miss = some x →
    exec (.directoryMissFill c) s = .next (settle ((dirTouch s x).modCtx c.toNat fun v => { v with miss := none, filled := v.filled ++ [x] })))) ∧
  (∀ (c : BitVec 8) (s : State) (e : Instr × Nat), e ∈ kwemalRows c →
    let v := s.ctx c.toNat
    let i := insOf s c.toNat
    seated s c.toNat = true → pcOk v v.pc = true → icNeed s c.toNat = none → i.b.opcode = e.2 →
    (baseBad s c.toNat v.pc ≠ [] → exec e.1 s = .next (settle (boundary c.toNat (raiseBad s c.toNat v.pc e.2 (baseBad s c.toNat v.pc))))) ∧
    (baseBad s c.toNat v.pc = [] → nextBad s c.toNat v.pc = true → exec e.1 s = .next (settle (boundary c.toNat (failI (s.cadd c.toNat 0 1) i (rqOf s c.toNat) 0x20)))) ∧
    (baseBad s c.toNat v.pc = [] → nextBad s c.toNat v.pc = false → extBad s c.toNat v.pc ≠ [] →
      exec e.1 s = .next (settle (boundary c.toNat (raiseBad s c.toNat v.pc e.2 (extBad s c.toNat v.pc))))))

/-- The doorbell commands take effect at an instruction boundary (R44, R47, R48, R50 to R53).
A fifth command that finds four waiting is dropped: DBERR is set and DBDROP counts it (R50). -/
def Obligations.DoorbellCommandsTakeEffect : Prop :=
  ((∀ (c : BitVec 8) (slot : BitVec 1) (tag : BitVec 24) (s : State),
    let t := raiseFails s c.toNat
    let p := ctxPart t c.toNat
    let src := reg t (0x88008 + 0x40 * c.toNat + 8 * slot.toNat)
    let hdr := rdNumP t p src 64
    canRing s c.toNat = true → t.bist.fatal = false → t.lc.held = false → loadRej (t.ctx c.toNat) slot.toNat = false → t.hostl.detached = false → tqaTier src = 3 → tqaRsv src = 0 →
    headerBad t p src hdr = 0 →
    exec (.load c slot tag) s = .next (settle
      (((accept t { id := 0, req := { part := p }, kind := .plan c.toNat slot.toNat 0 src (bitsOf hdr 95 64) hdr, cls := 11 } true).modCtx c.toNat fun v =>
        v.setSlot slot.toNat { v.slotAt slot.toNat with loading := some (nextId t), tag := tag.toNat }).todo (.tryOp (nextId t))))) ∧
  (∀ (c : BitVec 8) (slot : BitVec 1) (tag : BitVec 24) (s : State),
    let k : Cmd := ⟨2, slot.toNat, tag.toNat⟩
    let t := raiseFails s c.toNat
    let v := t.ctx c.toNat
    let p := v.slotAt slot.toNat
    canRing s c.toNat = true → t.bist.fatal = false → mayStart t = true → (v.st = .loaded ∨ v.st = .stopped ∨ v.st = .halted ∨ v.st = .faulted) → p.valid = true → p.loading = none →
    (t.part (ctxPart t c.toNat)).st = 0 →
    ∃ u : State, exec (.start c slot tag) s = .next (settle (cmdRecord u c.toNat k 0 0 0)) ∧ (u.ctx c.toNat).st = .active ∧ (u.ctx c.toNat).aslot = slot.toNat ∧
      (u.ctx c.toNat).pc = p.entry ∧ (u.ctx c.toNat).loops = [] ∧ (u.ctx c.toNat).lastexc = 0 ∧ (u.ctx c.toNat).instret = 0 ∧ (u.ctx c.toNat).g = v.g ∧
      (u.ctx c.toNat).dlbase = v.dlbase ∧ (u.ctx c.toNat).step = v.step ∧ ∀ d, d ≠ c.toNat → u.ctx d = t.ctx d) ∧
  (∀ (c : BitVec 8) (slot : BitVec 1) (tag : BitVec 24) (s : State) (abort : Bool),
    let k : Cmd := ⟨if abort then 4 else 3, slot.toNat, tag.toNat⟩
    let t := raiseFails s c.toNat
    canRing s c.toNat = true → (t.ctx c.toNat).st = .active →
    exec (if abort then .stopAbort c slot tag else .stopDrain c slot tag) s = .next (settle
      (cmdRecord (if abort then abortCtx (enterStopping (unlineCtx t c.toNat) c.toNat .stopped true) c.toNat else enterStopping (unlineCtx t c.toNat) c.toNat .stopped false)
        c.toNat k 0 0 0))) ∧
  (∀ (c : BitVec 8) (slot : BitVec 1) (tag : BitVec 24) (s : State),
    let k : Cmd := ⟨5, slot.toNat, tag.toNat⟩
    let t := raiseFails s c.toNat
    canRing s c.toNat = true → ((t.ctx c.toNat).st = .stopped ∨ (t.ctx c.toNat).st = .faulted) → (t.ctx c.toNat).saved = true →
    exec (.resume c slot tag) s = .next (settle
      (cmdRecord (t.modCtx c.toNat fun v => { v with st := .active, excSince := false, left := (0, 0, 0), aborting := false }) c.toNat k 0 0 0))) ∧
  (∀ (c : BitVec 8) (slot : BitVec 1) (tag : BitVec 24) (s : State),
    let k : Cmd := ⟨6, slot.toNat, tag.toNat⟩
    let t := raiseFails s c.toNat
    let u := cancelLoad (cancelLoad ((t.ctx c.toNat).cmds.foldl (fun s q => cmdRecord s c.toNat q 0x10 0 0) (t.modCtx c.toNat fun v => { v with cmds := [] })) c.toNat 0) c.toNat 1
    canRing s c.toNat = true → (t.ctx c.toNat).resetting = none →
    ((t.ctx c.toNat).st = .active → exec (.reset c slot tag) s = .next (settle
      (abortCtx ((enterStopping (unlineCtx u c.toNat) c.toNat .empty true).modCtx c.toNat fun v => { v with resetting := some k }) c.toNat))) ∧
    ((t.ctx c.toNat).st ≠ .active → (t.ctx c.toNat).st ≠ .stopping → exec (.reset c slot tag) s = .next (settle (finishReset u c.toNat k)))) ∧
  (∀ (c : BitVec 8) (slot : BitVec 1) (tag : BitVec 24) (s : State),
    let k : Cmd := ⟨7, slot.toNat, tag.toNat⟩
    let t := raiseFails s c.toNat
    canRing s c.toNat = true → ((t.ctx c.toNat).slotAt slot.toNat).loading.isSome = true →
    exec (.unload c slot tag) s = .next (settle (cmdRecord (cancelLoad t c.toNat slot.toNat) c.toNat k 0 0 0))) ∧
  (∀ (c : BitVec 8) (slot : BitVec 1) (tag : BitVec 24) (s : State),
    let k : Cmd := ⟨7, slot.toNat, tag.toNat⟩
    let t := raiseFails s c.toNat
    let u := dropPlan t c.toNat slot.toNat
    canRing s c.toNat = true → (t.ctx c.toNat).st = .loaded → ((t.ctx c.toNat).slotAt slot.toNat).loading = none →
    (u.ctx c.toNat).st = .loaded → (u.ctx c.toNat).slot0.valid = true ∨ (u.ctx c.toNat).slot1.valid = true →
    ∃ w, exec (.unload c slot tag) s = .next (settle (cmdRecord w c.toNat k 0 0 0)) ∧ w.ctx c.toNat = u.ctx c.toNat ∧ w = { u with ctxs := w.ctxs })) ∧
  (∀ (c : BitVec 8) (slot : BitVec 1) (tag : BitVec 24) (s : State) (k : Instr),
    k ∈ [Instr.load c slot tag, .start c slot tag, .stopDrain c slot tag, .stopAbort c slot tag, .resume c slot tag, .reset c slot tag, .unload c slot tag] →
    s.ready = true → 4 ≤ (s.ctx c.toNat).cmds.length →
    exec k s = .next (settle (s.modCtx c.toNat fun v => { v with dberr := true, dbdrop := min (v.dbdrop + 1) 0xFFFF })))

/-- PLAN_LOAD_DONE makes the slot valid and writes the LOAD's record; CONTEXT_SWITCH seats the context that pick(q) names, and lets
one go that may not stay; LADLE_ISSUE walks ahead; WATCHDOG raises its exception and
asks for a graph; WFG_BUILD builds it (R39, R44, R66, R85, R113, R347).
WINDOW_BOUNDARY closes a window and opens the next at a multiple of 1,024 ns; SEAL_WATCHDOG ends the seal with WATCHDOG (R21, R123).
The ager sets AGE_SAT on an allocated entry whose age has reached 65,535 and leaves every other entry as it is (R28). -/
def Obligations.ContextEventsTakeEffect : Prop :=
  ((∀ (c : BitVec 8) (slot : BitVec 1) (s : State) (o : Op) (h src len hdr : Nat),
    planOp s c.toNat slot.toNat = some o → o.kind = .plan c.toNat slot.toNat h src len hdr → o.phase = .running → xferDone s o = true →
    exec (.planLoadDone c slot) s = .next (settle (planDone s o c.toNat slot.toNat h src len hdr))) ∧
  (∀ (q : BitVec 4) (s : State) (c : Nat),
    frozen s = false → seqFree s q.toNat = true →
    (pick s q.toNat = some c → (s.seq q.toNat).ctx = none → exec (.contextSwitch q) s = .next (settle (enterSeq s q.toNat c))) ∧
    (∀ d, pick s q.toNat = some c → (s.seq q.toNat).ctx = some d →
      exec (.contextSwitch q) s = .next (settle (enterSeq (if mayStay s q.toNat d then s else letGo s q.toNat) q.toNat c))) ∧
    (pick s q.toNat = none → (s.seq q.toNat).ctx = some c → mayStay s q.toNat c = false → exec (.contextSwitch q) s = .next (settle (letGo s q.toNat)))) ∧
  (∀ (c : BitVec 8) (s : State),
    (s.ctx c.toNat).st = .active → lookahead s (ctxPart s c.toNat) ≠ 0 → (s.ctx c.toNat).ahead.length < 256 →
    exec (.ladleIssue c) s = .next (settle (ladleRun s c.toNat))) ∧
  (∀ (c : BitVec 8) (s : State),
    let v := s.ctx c.toNat
    v.st = .active → v.waitKind ≠ 0 → frozen s = false →
    (if bitsOf (ctxCfg s c.toNat) 47 32 = 0 then 100 else bitsOf (ctxCfg s c.toNat) 47 32) * 1000000 < s.now - v.wstart - v.wfrozen →
    exec (.watchdog c) s = .next (settle (watchdogFires s c.toNat))) ∧
  (∀ (p : BitVec 4) (c : BitVec 8) (s : State),
    (s.part p.toNat).wfgPending = some c.toNat → (s.core 2).up = true → (s.part p.toNat).wfgBusy = false →
    exec (.wfgBuild p c) s = .next (settle (buildGraph s p.toNat c.toNat false)))) ∧
  ((∀ (tp cs : Bool) (s : State), exec (.windowBoundary tp cs) s = .next (settle (windowBoundary s tp cs))) ∧
  (∀ s : State, nextWindow s % 1024 = 0 ∧ s.now < nextWindow s ∧ nextWindow s ≤ s.now + 1024) ∧
  (∀ (x : BitVec 21) (s : State) (t : Nat),
    frozen s = false → (s.obj x.toNat).sealWait = some t → ctxWdog s (sealCtx s x.toNat) < s.now - t →
    exec (.sealWatchdog x) s = .next (settle (failSeal s x.toNat 0x3F)))) ∧
  (∀ (x : BitVec 21) (s : State), (s.obj x.toNat).st ≠ .free →
    let o := s.obj x.toNat
    let age := if o.ageSat then 65535 else min 65535 ((wNow s + 2 ^ 32 - o.stamp) % 2 ^ 32)
    exec (.agerVisit x) s = .next (settle (if age = 65535 then s.setObj x.toNat { o with ageSat := true } else s)))

/-- BURST_SLOT offers a slot; MOVE_START and LATEST_START start or decide a move that waits for its start (R115, R118, R127).
MOVE_DONE ends a transfer at its completion point (R190): of whatever kind, with the effect of its completion; of moves, fills, comparisons, bounces, inline writes, reports and
descriptors' copies that point is where every burst is answered and every read-back has returned. -/
def Obligations.TransfersTakeEffect : Prop :=
  ((∀ (g : BitVec 2) (rdy : BitVec 31) (s : State), exec (.burstSlot g rdy) s = .next (settle (burstSlot (yieldClusters s) g.toNat rdy.toNat))) ∧
  (∀ (i : Nat) (s : State) (o : Op) (x t : Nat) (f : Form),
    s.op i = some o → o.kind = .move x t f false → awaitsStart s o = true → startsEarly s o = true → (s.obj x).st = .resident →
    exec (.moveStart i) s = .next (settle (tryMove s o x t f false))) ∧
  (∀ (i : Nat) (s : State) (o : Op) (x t : Nat) (f : Form),
    s.op i = some o → o.kind = .move x t f false → awaitsStart s o = true → o.decided = false → o.lstart ≤ s.now →
    exec (.latestStart i) s = .next (settle (decideStart s o x t f)))) ∧
  ((∀ (i : Nat) (s t : State) (o : Op), s.op i = some o → o.phase = .running → completion s o = some t → exec (.moveDone i) s = .next (settle t)) ∧
  ∀ (i : Nat) (s : State) (o : Op), s.op i = some o → o.phase = .running → xferDone s o = true →
    (∀ x t f ev, o.kind = .move x t f ev → exec (.moveDone i) s = .next (settle (landMove s o x t f))) ∧
    (∀ x off len pat, o.kind = .fill x off len pat → exec (.moveDone i) s = .next (settle (fillEnd s o x off len pat (plainStatus o)))) ∧
    (∀ x y off len, o.kind = .cmp x y off len → exec (.moveDone i) s = .next (settle (cmpDone s o x y off len))) ∧
    (∀ x off len a up, o.kind = .bounce x off len a up → exec (.moveDone i) s = .next (settle (bounceEnd s o x off len a up (plainStatus o)))) ∧
    (∀ a bs, o.kind = .inline a bs → exec (.moveDone i) s = .next (settle (inlineEnd s o a bs (plainStatus o)))) ∧
    (∀ a bs, o.kind = .report a bs → exec (.moveDone i) s = .next (settle (reportEnd s o a bs (plainStatus o)))) ∧
    (∀ ch d pos h, o.kind = .desc ch d pos h → descReady s o d = true → exec (.moveDone i) s = .next (settle (descEnd s o ch d pos h (plainStatus o)))))

/-- Recipes: dispatch in their order, the launch of a step or the RNG_SET that it needs first, the end, the input wait that runs out (R143, R145, R148).
The answers of the clusters take effect: DONE with the launch it answers, RNG_ACK, RNG_DATA; one that answers no request, or is of no type of Table 5.4, is counted and nothing
else; a request without an answer for STEP_TMO_MS retires the command port with CAUSE 2
(R139, R147, R264). -/
def Obligations.RecipesTakeEffect : Prop :=
  ((∀ (i : Nat) (s : State) (o : Op) (r : Recipe),
    s.op i = some o → o.kind = .recipe r → o.phase = .queued → r.failed = 0 → inDispatch s < 64 → recipeFirst s o = true →
    exec (.recipeDispatch i) s = .next (settle (dispatchRecipe s o r))) ∧
  (∀ (i : Nat) (k : BitVec 16) (s : State) (o : Op) (r : Recipe) (t : Nat),
    let c := (stepAt r k.toNat).cl
    s.op i = some o → o.kind = .recipe r → r.dispatched = true → r.failed = 0 → k.toNat = nextStep r → k.toNat < r.body.steps.length → r.temps = [] → copUp s c = true →
    cqTagFree s c = some t → needsRng s r k.toNat = false → stepReady s r k.toNat = true →
    ((stepAt r k.toNat).outunits = 0 ∨ 0 < (RProg.at r.prog k.toNat).drawn) →
    exec (.stepLaunch i k) s = .next (settle (setRecipe (sendCq s c t (.launch o.id k.toNat) (launchWords s r k.toNat t)) o
      (progSet { r with firstLaunch := if k.toNat = 0 then (sendCq s c t (.launch o.id k.toNat) (launchWords s r k.toNat t)).now else r.firstLaunch } k.toNat
        { RProg.at r.prog k.toNat with launched := true })))) ∧
  (∀ (i : Nat) (k : BitVec 16) (s : State) (o : Op) (r : Recipe) (t : Nat),
    let c := (stepAt r k.toNat).cl
    s.op i = some o → o.kind = .recipe r → r.dispatched = true → r.failed = 0 → k.toNat = nextStep r → k.toNat < r.body.steps.length → r.temps = [] → copUp s c = true →
    cqTagFree s c = some t → needsRng s r k.toNat = true → tget s.baseHeld c 0 = 0 → baseWanted s o c = false →
    exec (.stepLaunch i k) s = .next (settle (sendRngSet s o r c t))) ∧
  (∀ (i : Nat) (s : State) (o : Op) (r : Recipe),
    let t : State := { s with tags := s.tags.filter fun t => t.op ≠ i || t.orphan }
    s.op i = some o → o.kind = .recipe r → r.reading = true → r.failed = 0 → sidesDone o.x = true → (s.tags.all fun t => t.op ≠ i || t.orphan || t.rb) = true →
    o.x.srcBad = false → o.x.bad = 0 → (r.declared = true ∨ checksDigest t r.obj = false) →
    exec (.recipeDone i .ok) s = .next (settle (recipeEnd t o r)) ∧ exec (.recipeDone i .checkFail) s = .next (settle (failRecipe t o r 0x12 false)) ∧
      exec (.recipeDone i .portFault) s = .next (settle (failRecipe t o r 0x30 false))) ∧
  (∀ (i : Nat) (s : State) (o : Op) (r : Recipe) (t : Nat),
    s.op i = some o → o.kind = .recipe r → r.dispatched = false → r.failed = 0 → frozen s = false → r.waitedInput = some t →
    ctxWdog s (o.acct.getD (partyNum o.req.who)) < s.now - t →
    exec (.inputWaitTimeout i) s = .next (settle (failRecipe s o r 0x3F true)))) ∧
  ((∀ (cl : BitVec 3) (tag st : Byte) (d : W32) (s : State), copUp s cl.toNat = true →
    exec (.done cl tag (some st) d) s = .next (settle (copDone s cl.toNat tag.toNat st.toNat)) ∧ exec (.done cl tag none d) s = .next (settle (copProtoErr s))) ∧
  (∀ (cl : BitVec 3) (tag st : Byte) (d : W32) (s : State), copUp s cl.toNat = true →
    32 ≤ tag.toNat ∨ (s.cqTags.find? fun e => e.1 = 32 * cl.toNat + tag.toNat) = none →
    exec (.done cl tag (some st) d) s = .next (settle (copProtoErr (s.gadd (0x170 + 0x10 * cl.toNat) 16)))) ∧
  (∀ (cl : BitVec 3) (tag : Byte) (s : State), copUp s cl.toNat = true → exec (.rngAck cl tag) s = .next (settle (rngAcked s cl.toNat tag.toNat))) ∧
  (∀ (cl : BitVec 3) (tag : Byte) (found lost : Bool) (base : W64) (s : State), copUp s cl.toNat = true →
    exec (.rngData cl tag found lost base) s = .next (settle (rngDataIn s cl.toNat tag.toNat found lost base.toNat))) ∧
  (∀ (cl : BitVec 3) (tag : Byte) (s : State) (e : Nat × CqTag × Nat),
    tag.toNat < 32 → copUp s cl.toNat = true → frozen s = false → (s.cqTags.find? fun e => e.1 = 32 * cl.toNat + tag.toNat) = some e → e.2.2 + stepTmo s ≤ s.now →
    exec (.stepTimeout cl tag) s = .next (settle
      (retirePort ((countTimeout s cl.toNat tag.toNat).modPort (23 + cl.toNat) fun v => { v with tmo := min (v.tmo + 1) 0xFFFF }) (23 + cl.toNat) 2))))

/-- Channels: a doorbell's chain joins the queue; a descriptor is read and made ready; a ready descriptor that passes its checks starts (R187 to R189, R199). -/
def Obligations.ChannelsTakeEffect : Prop :=
  (∀ (ch : BitVec 8) (head : W64) (s : State),
    let v := s.chan ch.toNat
    s.ready = true → v.hostq = true → (v.st = 0 ∨ v.st = 1 ∨ v.st = 2) → v.chains.length < 16 → head.toNat % 64 = 0 → (s.part v.part).st = 0 →
    exec (.chanDoorbell ch head) s = .next (settle ((s.setChan ch.toNat { v with chains := v.chains ++ [head.toNat] }).todo (.chanCheck ch.toNat)))) ∧
  (∀ (ch : BitVec 8) (s : State) (a : Nat),
    let v := s.chan ch.toNat
    let t := chargeFetch s ch.toNat a
    let d := { parseDesc (rdNumP t v.part a 64) with place := a }
    canFetch s ch.toNat = true → frozen s = false → v.next = some a → classBarred s v.part 11 = false → descAddrOk s v.part a = true →
    exec (.descriptorFetch ch .ok) s = .next (settle
      (haltAway (t.setChan ch.toNat { v with ready := v.ready ++ [(v.pos, d)], pos := v.pos + 1, next := if d.chain then some d.next else none }) ch.toNat))) ∧
  (∀ (ch : BitVec 8) (s : State) (k : Instr) (op pos : Nat) (d : Desc),
    (k, op) ∈ [(Instr.copy ch, 0), (Instr.descFill ch, 1), (Instr.descCmp ch, 2), (Instr.igather ch, 3), (Instr.descNop ch, 4)] →
    canStart s ch.toNat (fun n => n = op) = some (pos, d) → descOk s ch.toNat d = true →
    (d.rpop = false → exec k s = .next (settle (startDesc s ch.toNat pos d 0))) ∧
    (∀ h, d.rpop = true → (s.chan ch.toNat).popped = some h → exec k s = .next (settle (startDesc s ch.toNat pos d h))))

/-- CHAN_ENABLE and CHAN_DISABLE, PART_ENABLE and PART_DISABLE in both modes (R203, R204). -/
def Obligations.EnablingAndDisablingTakeEffect : Prop :=
  (∀ (ch : BitVec 8) (s : State), s.ready = true → (s.chan ch.toNat).st = 6 →
    exec (.chanEnable ch) s = .next (settle (s.setChan ch.toNat { s.chan ch.toNat with st := 0 }))) ∧
  (∀ (ch : BitVec 8) (s : State), s.ready = true → (s.chan ch.toNat).st < 5 →
    exec (.chanDisableDrain ch) s = .next (settle ((s.setChan ch.toNat { s.chan ch.toNat with st := 4 }).todo (.chanCheck ch.toNat)))) ∧
  (∀ (ch : BitVec 8) (s : State), s.ready = true → (s.chan ch.toNat).hostq = true → (s.chan ch.toNat).st < 5 →
    exec (.chanDisableAbort ch) s = .next (settle (abortChan (s.setChan ch.toNat { s.chan ch.toNat with st := 5 }) ch.toNat))) ∧
  (∀ (p : BitVec 4) (s : State), s.ready = true → (s.part p.toNat).st = 3 → (s.part p.toNat).resetting = false →
    exec (.partEnable p) s = .next (settle ((partChans s p.toNat).foldl chanEnable (s.modPart p.toNat fun v => { v with st := 0 })))) ∧
  (∀ (p : BitVec 4) (s : State) (abort : Bool), s.ready = true → (s.part p.toNat).st = 0 →
    let t := s.setPart p.toNat { s.part p.toNat with st := if abort then 2 else 1 }
    let u := (partCtxs t p.toNat).foldl (fun s c => stopCtx s c abort) t
    exec (if abort then .partDisableAbort p else .partDisableDrain p) s = .next (settle
      (((partChans u p.toNat).foldl (fun s ch => chanDisable s ch abort) u).todo (.partCheck p.toNat))))

/-- A write of a completion queue's HEAD that goes forward and not past TAIL is taken and pending records go out; any other is counted (R192, R194).
HEAD of an event queue, of a trace ring and of the log ring goes forward and not past TAIL (R305, R336, R344). -/
def Obligations.QueueHeadsTakeEffect : Prop :=
  (∀ (q : BitVec 12) (head : W32) (s : State),
    let c := s.cq q.toNat
    let ok := (head.toNat + 2 ^ 32 - c.head) % 2 ^ 32 ≤ (c.tail + 2 ^ 32 - c.head) % 2 ^ 32
    s.ready = true →
    (ok → exec (.cqHeadWrite q head) s = .next (settle (cqDrainAll (s.setCq q.toNat { c with head := head.toNat })))) ∧
    (∀ p, ¬ok → cqOwner s q.toNat = some p → exec (.cqHeadWrite q head) s = .next (settle (movAdd s p 2 1)))) ∧
  ((∀ (q : BitVec 5) (head : W32) (s : State), s.ready = true → q.toNat < 17 → headOk (s.evq q.toNat).head (s.evq q.toNat).tail head.toNat = true →
    exec (.evqHeadWrite q head) s = .next (settle (evDrain 128 (s.setEvq q.toNat { s.evq q.toNat with head := head.toNat }) q.toNat))) ∧
  (∀ (p : BitVec 4) (head : W32) (s : State),
    let t := (s.part p.toNat).traceRing
    s.ready = true → headOk t.head t.tail head.toNat = true →
    exec (.traceHeadWrite p head) s = .next (settle (s.modPart p.toNat fun v => { v with traceRing := { t with head := head.toNat } }))) ∧
  (∀ (head : W32) (s : State),
    let t := s.fw.logPtr
    s.ready = true → headOk t.head t.tail head.toNat = true →
    exec (.logHeadWrite head) s = .next (settle (logDrain logBufSize { s with fw := { s.fw with logPtr := { t with head := head.toNat } } }))))

/-- While the line is disarmed, each rise of its level increments OVERRUN and is merged: no request is counted (R197). -/
def Obligations.ARiseWhileDisarmedIsAnOverrun : Prop :=
  ∀ (l : Byte) (s : State), (plOwner s l.toNat).isSome = true → (s.line l.toNat).stuck = false → (s.line l.toNat).armed = false → (s.line l.toNat).level = false →
    exec (.overrun l) s = .next (settle (s.setLine l.toNat
      { s.line l.toNat with level := true, overrun := min ((s.line l.toNat).overrun + 1) 0xFFFF, since := s.now }))

/-- A rise while the line is armed is a counted request; a level held for STUCK_US with no paced burst waiting, or a pair that disagrees, masks the line; a write of STUCK clears it
(R196, R198, R271).
A hung cluster is quiesced, its tags orphaned and its items ended, and it goes to its self-test, or out of use where it may take none (R207). -/
def Obligations.LinesAndClustersTakeEffect : Prop :=
  ((∀ (l : Byte) (s : State), (plOwner s l.toNat).isSome = true → (s.line l.toNat).stuck = false → (s.line l.toNat).armed = true →
    exec (.pacingRequest l) s = .next (settle (pacingRequest s l.toNat))) ∧
  (∀ (l : Byte) (s : State) (p : Nat), plOwner s l.toNat = some p → (s.line l.toNat).stuck = false →
    exec (.pairCheck l) s = .next (settle (maskLine s l.toNat p 1)) ∧
    ((s.line l.toNat).level = true → pacedOn s l.toNat = [] → stuckNs s ≤ s.now - (s.line l.toNat).since → frozen s = false →
      exec (.plStuck l) s = .next (settle (maskLine s l.toNat p 0)))) ∧
  (∀ (l : Byte) (s : State), s.ready = true → (s.line l.toNat).stuck = true →
    exec (.stuckClear l) s = .next (settle (s.setLine l.toNat { s.line l.toNat with stuck := false, armed := true, level := false, since := s.now })))) ∧
  ((∀ (k : BitVec 3) (s : State), clusterHung s k.toNat = true →
    exec (.clusterHung k) s = .next (settle (s.setCluster k.toNat { st := 2, since := s.now }))) ∧
  (∀ (k : BitVec 3) (s : State), (s.cluster k.toNat).st = 2 → underTest s 2 k.toNat = false → frozen s = false → (s.cluster k.toNat).since + clusterTmo s ≤ s.now →
    exec (.orphanTags k) s = .next (settle (orphanCluster s k.toNat))))

/-- SEM_ADD adds, the value stopping at 65,535 with SAT set on an overflow; SEM_WRITE sets value and flags; both then serve the queue (R236, R238). -/
def Obligations.SemaphoreRegistersTakeEffect : Prop :=
  (∀ (n : BitVec 13) (v : W32) (s : State), s.ready = true → 0 < v.toNat → v.toNat < 65536 →
    exec (.semAdd n v) s = .next (settle (semAddTo s n.toNat v.toNat .none))) ∧
  (∀ (n : BitVec 13) (s : State) (amt : Nat) (who : Party),
    let m := s.sem n.toNat
    m.q = [] → 0 < amt → (semAddTo s n.toNat amt who).sem n.toNat =
      { m with val := min (m.val + amt) 0xFFFF, sat := m.sat || decide (0xFFFF < m.val + amt), sig := lastFour m.sig who }) ∧
  (∀ (n : BitVec 13) (v : W32) (s : State), s.ready = true → v.toNat < 2 ^ 20 →
    let m := s.sem n.toNat
    let u := { m with val := v.toNat % 65536, sat := m.sat && !v.toNat.testBit 16, hol := m.hol && !v.toNat.testBit 17, lost := m.lost && !v.toNat.testBit 18 }
    m.q = [] → exec (.semWrite n v 0) s = .next (settle (semWrite s n.toNat v.toNat 0)) ∧ (semWrite s n.toNat v.toNat 0).sem n.toNat = u)

/-- Packets that need no turn: HELLO opens the streams in the lower of the two highest versions, is answered where it is no answer itself, and opens streams that are open afresh; what
was not acknowledged goes out again. ACK acknowledges. NAK has the stream sent again from the number it expects, or, with BUSY set, after a wait (R249, R251 to R253).
A packet whose CRC field does not agree with its bytes has no effect of its own: it is counted and answered with a NAK (R250).
REPLAY_TIMEOUT sends a stream again, RELINK and RELINK_ALL open the streams of carriers that are down again, LAND_CUTOFF cuts a LAND off at its deadline (R223, R251). -/
def Obligations.StreamsTakeEffect : Prop :=
  ((∀ (h : Hdr) (mv : Byte) (nc : W32) (jt : BitVec 16) (s : State) (p : Nat),
    let t := headed s h pHello 64 p
    let k := h.src.toNat
    let again := fun (u : State) => [0, 1, 2].foldl (fun s c => ((s.stream k c).unacked).foldl (fun s q => txPkt s p k q.typ c q.seq (outBytes q)) s) u
    let up := fun (u : State) => u.setPeer k { t.peer k with opened := true, refused := false, down := false, ver := min mv.toNat 2 }
    packetOk s h pHello p = true → nc.toNat = jobSize t p → jt.toNat = jobTag t p → mv ≠ 0 →
    ((t.peer k).opened = false → bitOf h.arg.toNat 0 = false → exec (.hello h mv nc jt) s = .next (settle (again (sendHello (up t) p k)))) ∧
    ((t.peer k).opened = false → bitOf h.arg.toNat 0 = true → exec (.hello h mv nc jt) s = .next (settle (again (up t)))) ∧
    ((t.peer k).opened = true → bitOf h.arg.toNat 0 = false → exec (.hello h mv nc jt) s = .next (settle (again (sendHello (up (reopen t k)) p k))))) ∧
  (∀ (h : Hdr) (s : State) (p : Nat), packetOk s h pAck p = true → exec (.ack h) s = .next (settle (headed s h pAck 0 p))) ∧
  (∀ (h : Hdr) (s : State) (p : Nat),
    let t := ackStream (headed s h pNak 0 p) h.src.toNat h.cls.toNat (bitsOf h.arg.toNat 23 0)
    packetOk s h pNak p = true →
    (bitOf h.arg.toNat 32 = false → exec (.nak h) s = .next (settle (resend t h.src.toNat h.cls.toNat (bitsOf h.arg.toNat 23 0)))) ∧
    (bitOf h.arg.toNat 32 = true → exec (.nak h) s = .next (settle
      ((peerCount t 4 1).setStream h.src.toNat h.cls.toNat { t.stream h.src.toNat h.cls.toNat with txBusy := true, progress := t.now }))))) ∧
  (∀ (h : Hdr) (s : State) (k : Instr),
    k ∈ [Instr.ack h, .nak h, .decline h, .rdone h] → peerUp s = true → h.crcOk = false →
    let t := (s.gadd 0x248 1).gadd 0x160 32
    exec k s = .next (settle (sendNak (peerCount t 1 1) ((tagPart t h.jobtag.toNat).getD 0) h.src.toNat h.cls.toNat false))) ∧
  ((∀ (dst : BitVec 16) (cls : BitVec 2) (s : State) (q : OutPkt) (l : List OutPkt),
    let t := s.stream dst.toNat cls.toNat
    t.unacked = q :: l → (s.peer dst.toNat).down = false → (s.peer dst.toNat).refused = false → t.progress + replayNs s ≤ s.now → frozen s = false → t.txBusy = false →
    t.resends < retryMax s →
    exec (.replayTimeout dst cls) s = .next (settle
      (resend (s.setStream dst.toNat cls.toNat { t with resends := t.resends + 1, progress := s.now }) dst.toNat cls.toNat q.seq))) ∧
  (∀ (k : BitVec 16) (s : State), writeOk s 0xB3588 32 k.toNat = true →
    exec (.relink k) s = .next (settle (stampVer (relinkOne s k.toNat)))) ∧
  (∀ s : State, writeOk s 0xB3588 32 65536 = true → exec .relinkAll s = .next (settle (stampVer ((downPeers s).foldl relinkOne s)))) ∧
  (∀ (i : Nat) (s : State) (o : Op) (l : LandOp) (d : Nat),
    s.op i = some o → o.kind = .land l → l.cutD = true → l.cut = false → o.phase ≠ .ending → o.due = some d → d ≤ s.now →
    exec (.landCutoff i) s = .next (settle ((setLand s o { l with cut := true }).todo (.tryOp o.id)))))

/-- Hawthorn packets that come in their turn reach the node that their ID names (R244, R245). -/
def Obligations.HawthornPacketsTakeEffect : Prop :=
  ∀ (h : Hdr) (t : HawPay) (s : State) (p : Nat),
    let n := bitsOf h.id.toNat 5 0
    let slot := bitsOf h.id.toNat 11 8
    let g := h.arg.toNat
    (packetOk s h pToken p = true → inTurn s h pToken 64 p = true →
      let u := taken s h pToken 64 p
      genOk u n g = true → nodeLeaf u n = false → (kidSlots u n).contains slot = true → ((u.node n).arrived.any fun e => e.1 = slot) = false →
      exec (.token h t) s = .next (settle (arriveNode 8 u n slot (tupleOf t)))) ∧
    (packetOk s h pVerify p = true → inTurn s h pVerify 64 p = true →
      let u := taken s h pVerify 64 p
      genOk u n g = true → exec (.verify h t) s = .next (settle (verifyNode 8 u n g (tupleOf t)))) ∧
    (packetOk s h pVreply p = true → inTurn s h pVreply 64 p = true →
      let u := taken s h pVreply 64 p
      let replies := (u.node n).replies ++ [(slot, t.ndis.toNat, t.carr.toNat)]
      let w := u.setNode n { u.node n with replies := replies }
      genOk u n g = true → (u.node n).verifying = true → (kidSlots u n).contains slot = true → ((u.node n).replies.any fun r => r.1 = slot) = false →
      exec (.vreply h t) s = .next (settle
        (if replies.length = (kidSlots w n).length then replyUp 8 w n g (replies.foldl (fun a r => addDis a (r.2.1, r.2.2)) (0, 0)) else w))) ∧
    (packetOk s h pRelease p = true → inTurn s h pRelease 64 p = true →
      let u := taken s h pRelease 64 p
      nodeValid u n = true → barValid u (nodeGrp u n) = true → ((u.bar (nodeGrp u n)).gen = g ∨ (u.bar (nodeGrp u n)).gen = (g + 1) % 2 ^ 32) → (u.node n).arrived ≠ [] →
      exec (.release h t) s = .next (settle (releaseNode 8 u n g h.src.toNat t.mismatch t.carr.toNat t.ndis.toNat)))

/-- Traffic packets that come in their turn: a shard request, an exchange notice, a contribution notice, data, the end of a transfer and a refusal of one (R214, R221, R222, R225,
R231, R232). -/
def Obligations.TrafficPacketsTakeEffect : Prop :=
  (∀ (h : Hdr) (shard : BitVec 16) (sq : W32) (rows : List W32) (s : State) (p : Nat),
    let u := taken s h pShardreq (8 + 4 * (rows.map fun r => r.toNat).length) p
    let i := h.id.toNat
    packetOk s h pShardreq p = true → inTurn s h pShardreq (8 + 4 * (rows.map fun r => r.toNat).length) p = true →
    (idIsChan i = true → exec (.shardreq h shard sq rows) s = .next (settle (sendAsked u p h.src.toNat (idCh i) (idKey i)))) ∧
    (idIsChan i = false →
      exec (.shardreq h shard sq rows) s = .next (settle (shardReq u p h.src.toNat (idCh i) shard.toNat sq.toNat (rows.map fun r => r.toNat))))) ∧
  (∀ (h : Hdr) (ix : W32) (rl : W64) (e pr : Bool) (s : State) (p : Nat),
    let u := addRdv (taken s h pXnotice 64 p) (.xnotice p h.src.toNat (idCh h.id.toNat) ix.toNat rl.toNat e pr)
    packetOk s h pXnotice p = true → inTurn s h pXnotice 64 p = true →
    exec (.xnotice h ix rl e pr) s = .next (settle (match recvFor u p h.src.toNat (idCh h.id.toNat) (ix.toNat % 32768) with
      | some (o, _) => u.todo (.tryOp o.id)
      | none => u))) ∧
  (∀ (h : Hdr) (st ln : W64) (s : State) (p : Nat),
    let i := h.id.toNat
    packetOk s h pCnotice p = true → inTurn s h pCnotice 64 p = true → 0x8000 ≤ idCh i → idCh i < 0x8400 →
    exec (.cnotice h st ln) s = .next (settle (contribNotice (taken s h pCnotice 64 p) p h.src.toNat (idCh i - 0x8000) (idKey i) st.toNat ln.toNat false))) ∧
  (∀ (h : Hdr) (bs : List Byte) (s : State) (p : Nat),
    let i := h.id.toNat
    let u := taken s h pData bs.length p
    packetOk s h pData p = true → inTurn s h pData bs.length p = true →
    (idIsChan i = false → exec (.data h bs) s = .next (settle (gatherData u p h.src.toNat (idCh i) h.arg.toNat bs))) ∧
    (∀ o v, idIsChan i = true → idCh i < 0x8000 → recvFor u p h.src.toNat (idCh i) (idKey i) = some (o, v) →
      exec (.data h bs) s = .next (settle (recvData u o v h.arg.toNat bs))) ∧
    (∀ o c, idIsChan i = true → 0x8000 ≤ idCh i → contribFor u p h.src.toNat (idCh i - 0x8000) (idKey i) = some (o, c) → o.phase ≠ .ending → h.arg.toNat = c.buf.length →
      exec (.data h bs) s = .next (settle (contribData (chargeIn u p 5 bs.length o.acct) o c h.arg.toNat bs)))) ∧
  (∀ (h : Hdr) (s : State) (p : Nat),
    packetOk s h pRdone p = true → inTurn s h pRdone 0 p = true →
    exec (.rdone h) s = .next (settle (sendOver (taken s h pRdone 0 p) p h.src.toNat (idCh h.id.toNat) (idKey h.id.toNat) 0 1))) ∧
  (∀ (h : Hdr) (s : State) (p : Nat),
    let st := h.arg.toNat % 256
    packetOk s h pDecline p = true → inTurn s h pDecline 0 p = true →
    exec (.decline h) s = .next (settle
      (sendOver (taken s h pDecline 0 p) p h.src.toNat (idCh h.id.toNat) (idKey h.id.toNat) (if assigned st then st else 0x20) 0)))

/-- A response beat of a split-protocol port that takes responses. One to a tag in use: status 3 counts in PROTO and is treated as ERR; the first beat of the tag that is not OK
increments ERRRESP; the beat marks what the tag's operation has lost; the last beat frees the tag. What it marks: a read with ERR, or with a poisoned beat of a revision 1 port, lost its
data at the source (CHECK_FAIL; a read-back ends its operation with CHECK_FAIL), a write with ERR and anything with DECERR is a PORT_FAULT, and the lowest burst that failed is kept.
A response to an orphaned tag marks nothing, one to no tag counts in PROTO (R260, R262). A response of a host port frees its slot, a poisoned read loses its data (R274, R277). -/
def Obligations.ResponsesTakeEffect : Prop :=
  (∀ (port : BitVec 5) (tag : BitVec 12) (st : BitVec 2) (poison last : Bool) (s : State) (t : Tag),
    let n := port.toNat
    let u := if st = 3 then protoCount s n else s
    let u := if st ≠ 0 ∧ t.err = false then errCount u n else u
    let v := markBad u t (if st = 3 then 1 else st.toNat) (poison && (s.port n).rev = 1)
    deaf s n = false → (s.tags.find? fun t => t.port = n && t.tag = tag.toNat && t.wr = false) = some t →
    (t.orphan = false → last = true → exec (.readResponse port tag st poison last) s = .next (settle (tagEnds v t))) ∧
    (t.orphan = false → last = false → exec (.readResponse port tag st poison last) s = .next (settle
      { v with tags := v.tags.map fun w => if w = t then { t with err := t.err || st ≠ 0 } else w })) ∧
    (t.orphan = true → exec (.readResponse port tag st poison last) s = .next (settle (if last then tagEnds u t else u)))) ∧
  (∀ (port : BitVec 5) (tag : BitVec 12) (st : BitVec 2) (s : State) (t : Tag),
    let n := port.toNat
    let u := if st = 3 then protoCount s n else s
    let u := if st ≠ 0 ∧ t.err = false then errCount u n else u
    deaf s n = false → (s.tags.find? fun t => t.port = n && t.tag = tag.toNat && t.wr = true) = some t →
    (t.orphan = false → exec (.writeResponse port tag st) s = .next (settle (tagEnds (markBad u t (if st = 3 then 1 else st.toNat) false) t))) ∧
    (t.orphan = true → exec (.writeResponse port tag st) s = .next (settle (tagEnds u t)))) ∧
  (∀ (port : BitVec 5) (tag : BitVec 12) (poison last : Bool) (s : State), deaf s port.toNat = false →
    ((s.tags.find? fun t => t.port = port.toNat && t.tag = tag.toNat && t.wr = false) = none →
      exec (.readResponse port tag 0 poison last) s = .next (settle (protoCount s port.toNat))) ∧
    ((s.tags.find? fun t => t.port = port.toNat && t.tag = tag.toNat && t.wr = true) = none → exec (.writeResponse port tag 0) s = .next (settle (protoCount s port.toNat)))) ∧
  (∀ (s : State) (n : Nat), protoCount s n = s.modPort n (fun v => { v with proto := min (v.proto + 1) 0xFF }) ∧
    errCount s n = s.modPort n fun v => { v with err := min (v.err + 1) 0xFFFF }) ∧
  (∀ (s : State) (t : Tag), t.port ≠ 22 → (tagEnds s t).tags = s.tags.erase t) ∧
  (∀ (s : State) (t : Tag) (o : Op) (k : Nat), s.op t.op = some o → t.port ≠ 22 → t.pos = some k →
    let x : Xfer := if t.rb = true ∨ t.ax = true then o.x else { o.x with fault := some (min (o.x.fault.getD k) k) }
    (t.wr = false → t.rb = false → markBad s t 1 false = s.setOp { o with x := { x with srcBad := true } } ∧ markBad s t 0 true = s.setOp { o with x := { x with srcBad := true } }) ∧
    (t.wr = false → t.rb = true → markBad s t 1 false = s.setOp { o with x := { x with bad := 0x12 } }) ∧
    (t.wr = true → markBad s t 1 false = s.setOp { o with x := { x with bad := 0x30 } }) ∧
    (∀ p, markBad s t 2 p = s.setOp { o with x := { x with bad := 0x30 } }) ∧ markBad s t 0 false = s) ∧
  (∀ (hp : BitVec 1) (slot : BitVec 11) (poison : Bool) (s : State) (t : Tag),
    let u : State := { s with hostl := { s.hostl with lastRsp := s.now } }
    deaf s (20 + hp.toNat) = false → (s.tags.find? fun t => t.port = 20 + hp.toNat && t.tag = slot.toNat) = some t →
    exec (.h2dResponse hp slot poison) s = .next (settle (invalDone (tagEnds (if t.orphan then u else markBad u t 0 (poison && !t.wr)) t)))) ∧
  (∀ (hp : BitVec 1) (slot : BitVec 11) (poison : Bool) (s : State),
    deaf s (20 + hp.toNat) = false → (s.tags.find? fun t => t.port = 20 + hp.toNat && t.tag = slot.toNat) = none →
    exec (.h2dResponse hp slot poison) s = .next (settle (invalDone (protoCount { s with hostl := { s.hostl with lastRsp := s.now } } (20 + hp.toNat)))))

/-- Target requests: a read of T0 bytes allocated to an object that is BOUND or RESIDENT there is answered with the bytes, a write of such bytes stores them, any other request is
answered with DECERR (status 2); a poisoned write is answered with ERR (status 1) and stores nothing (R263, R266, R267). -/
def Obligations.TargetRequestsTakeEffect : Prop :=
  (∀ (port : BitVec 5) (src : BitVec 6) (tag : BitVec 12) (a : BitVec 56) (len : Byte) (bs : List Byte) (po la : Bool) (s : State),
    let n := 32 * (len.toNat + 1)
    port.toNat < 16 → s.srcRst.contains (port.toNat, src.toNat) = false → deaf s port.toNat = false →
    (t0Allocated s a.toNat n = true →
      exec (.targetRequest port src tag false a len bs po la) s = .next (settle (tAnswer s port.toNat ⟨src.toNat, tag.toNat, false, 0, rdBytes s.mem (tqa 0 a.toNat) n⟩))) ∧
    (t0Allocated s a.toNat n = false →
      exec (.targetRequest port src tag false a len bs po la) s = .next (settle (tAnswer s port.toNat ⟨src.toNat, tag.toNat, false, 2, []⟩)))) ∧
  (∀ (port : BitVec 5) (src : BitVec 6) (tag : BitVec 12) (a : BitVec 56) (len : Byte) (bs : List Byte) (po : Bool) (s : State),
    let n := 32 * (len.toNat + 1)
    let u : State := { s with partials := s.partials.filter fun p => !(p.port = port.toNat && p.src = src.toNat && p.tag = tag.toNat) }
    port.toNat < 16 → s.srcRst.contains (port.toNat, src.toNat) = false → deaf s port.toNat = false →
    (s.partials.find? fun p => p.port = port.toNat && p.src = src.toNat && p.tag = tag.toNat) = none →
    (t0Allocated u a.toNat n = true → (po && (s.port port.toNat).rev = 1) = false →
      exec (.targetRequest port src tag true a len bs po true) s = .next (settle
        (tAnswer (u.store (tqa 0 a.toNat) (bs.take n)) port.toNat ⟨src.toNat, tag.toNat, true, 0, []⟩))) ∧
    (t0Allocated u a.toNat n = true → po = true → (s.port port.toNat).rev = 1 →
      exec (.targetRequest port src tag true a len bs po true) s = .next (settle (tAnswer u port.toNat ⟨src.toNat, tag.toNat, true, 1, []⟩))) ∧
    (t0Allocated u a.toNat n = false →
      exec (.targetRequest port src tag true a len bs po true) s = .next (settle (tAnswer u port.toNat ⟨src.toNat, tag.toNat, true, 2, []⟩)))) ∧
  (∀ (port : BitVec 5) (src : BitVec 6) (s : State), port.toNat < 16 ∨ port.toNat = 22 →
    exec (.sourceReset port src) s = .next (settle { s with
      partials := s.partials.filter fun p => !(p.port = port.toNat && p.src = src.toNat), srcRst := (port.toNat, src.toNat) :: s.srcRst.filter fun e => e ≠ (port.toNat, src.toNat),
      trsp := s.trsp.filter fun e => !(e.1 = port.toNat && e.2.src = src.toNat) })) ∧
  (∀ (port : BitVec 5) (src : BitVec 6) (s : State), s.srcRst.contains (port.toNat, src.toNat) = true →
    exec (.sourceResetEnd port src) s = .next (settle { s with srcRst := s.srcRst.filter fun e => e ≠ (port.toNat, src.toNat) }))

/-- Ports. A timeout counts and retires, CAUSE 1 for a request and 2 for a response; PRG_PORT_CTL retires (CAUSE 3) and resets a live port and restores a RETIRED one. Of the reset
handshake, x_rst_ack rises and the request falls; when it falls the port is LIVE with its cause cleared, or RETIRED, and its tags and partial target writes are gone; what waited is tried
again. A handshake that is late counts once (R264, R265).
Satellite links: one that fails in operation is absent; a present one's back lane frees flits, at most 1,536, and a block that its check value refused counts in SATCRC and raises
event 0x16; one that does not train in time is absent (R168 to R170, R270). -/
def Obligations.PortsAndSatellitesTakeEffect : Prop :=
  ((∀ (port : BitVec 5) (s : State), isLive s port.toNat = true → frozen s = false →
    exec (.portTimeout port false) s = .next (settle (retirePort (s.modPort port.toNat fun v => { v with tmo := min (v.tmo + 1) 0xFFFF }) port.toNat 1)) ∧
    (∀ t, t ∈ s.tags → t.port = port.toNat → port.toNat < 23 → t.time + portTmo s ≤ s.now →
      exec (.portTimeout port true) s = .next (settle (retirePort (s.modPort port.toNat fun v => { v with tmo := min (v.tmo + 1) 0xFFFF }) port.toNat 2)))) ∧
  (∀ (port : BitVec 5) (s : State), s.ready = true → port.toNat < 31 → (s.port port.toNat).st = 0 →
    exec (.portRetire port) s = .next (settle (retirePort s port.toNat 3)) ∧ exec (.portReset port) s = .next (settle (resetPort s port.toNat))) ∧
  (∀ (n cause : Nat) (s : State), (s.port n).st = 0 →
    retirePort s n cause = retryOps (portGone (evGP (s.setPort n { s.port n with st := 1, toLive := false, cause := cause, req := true, since := some s.now }) 4 n 3 cause) n) ∧
    resetPort s n = retryOps
      (let u := s.modPort n fun v => { v with st := 1, toLive := true, req := true, since := some s.now }
       if 23 ≤ n then copLost u (n - 23) else (openTags u n).foldl reissue u)) ∧
  (∀ (port : BitVec 5) (s : State), s.ready = true → port.toNat < 31 → (s.port port.toNat).st = 2 →
    exec (.restore port) s = .next (settle (s.setPort port.toNat { s.port port.toNat with st := 1, toLive := true, req := true, since := some s.now }))) ∧
  (∀ (port : BitVec 5) (s : State), (s.port port.toNat).req = true → (s.port port.toNat).ack = false →
    exec (.portResetAck port true) s = .next (settle (s.modPort port.toNat fun v => { v with ack := true, req := false, since := none })) ∧
    (∀ t, (s.port port.toNat).since = some t → t + portTmo s ≤ s.now →
      exec (.portResetTimeout port) s = .next (settle (s.modPort port.toNat fun v => { v with rsttmo := min (v.rsttmo + 1) 0xFF, since := none })))) ∧
  (∀ (port : BitVec 5) (s : State),
    let n := port.toNat
    let u := s.modPort n fun v => { v with ack := false, st := if v.toLive then 0 else 2, cause := if v.toLive then 0 else v.cause }
    let u : State := { u with tags := u.tags.filter (fun t => t.port ≠ n), partials := u.partials.filter fun q => q.port ≠ n }
    (s.port n).ack = true →
    (n < 22 → exec (.portResetAck port false) s = .next (settle (retryOps (stockpotMark u)))) ∧
    (n = 22 → exec (.portResetAck port false) s = .next (settle (retryOps (stockpotMark (drainTx u.txq u))))) ∧
    (23 ≤ n → exec (.portResetAck port false) s = .next (settle (retryOps (stockpotMark (copFreed u (n - 23)))))))) ∧
  ((∀ (n : BitVec 6) (s : State), bitOf s.sat.present n.toNat = true →
    exec (.backLaneCheck n) s = .next (settle (teachLost (evGP { s with sat := { s.sat with present := s.sat.present - 2 ^ n.toNat } } 12 n.toNat 0x15 0) n.toNat))) ∧
  (∀ (n : BitVec 6) (cr : BitVec 4) (s : State), bitOf s.sat.present n.toNat = true →
    let t : State := { s with sat := { s.sat with credits := tset s.sat.credits n.toNat (min 1536 (satCredits s n.toNat + cr.toNat)) } }
    let w : State := evG { t with sat := { t.sat with satcrc := min (s.sat.satcrc + 1) (2 ^ 32 - 1) } } 12 n.toNat 0x16 0
    exec (.backLaneCredits n cr false) s = .next (settle ((flitsDue t n.toNat).foldl (fun s o => s.todo (.tryOp o)) t)) ∧
    exec (.backLaneCredits n cr true) s = .next (settle ((flitsDue w n.toNat).foldl (fun s o => s.todo (.tryOp o)) w))) ∧
  (∀ (n : BitVec 6) (s : State), bitOf s.sat.training n.toNat = true →
    exec (.satTrainingTimeout n) s = .next (settle { s with sat := { s.sat with training := s.sat.training - 2 ^ n.toNat } })))

/-- The host's translations and page requests, its snoops and invalidations (R205, R275, R276): a translation granted enters the cache, one refused asks for the page; a page response
resumes or ends what is parked on the page; an invalidation drops the translations that meet its range and stops new uses of it, and is completed once no burst in flight uses it; a
snoop that invalidates drops the copy of the line.
The host link. The I/O port's link going down, a hot reset and an overdue response detach the block, with DETACH_CAUSE 0, 1 and 3 where it was attached, and a detached block keeps
its first cause; the other port's link going down retires that port. Tags still open 1 ms after the loss are orphaned, and the controller's reset frees them; REATTACH,
with which links that were down are as the controllers report them, brings the block back where the I/O link is up, and sets REATTERR where it is not (R282 to R284). -/
def Obligations.HostEventsTakeEffect : Prop :=
  ((∀ (p : BitVec 5) (page : BitVec 44) (log : BitVec 5) (s : State), s.hostl.ats.asked.contains (p.toNat, page.toNat) = true →
    exec (.atsCompletion p page (some log)) s = .next (settle { s with hostl := { s.hostl with ats := { s.hostl.ats with
      asked := s.hostl.ats.asked.filter fun e => e ≠ (p.toNat, page.toNat), cache := atsAdd s.hostl.ats.cache (p.toNat, page.toNat, min log.toNat 18) } } }) ∧
    (let a := s.hostl.ats
     exec (.atsCompletion p page none) s = .next (settle ((s.ops.filter (needsPage s p.toNat page.toNat)).foldl (haltPage · page.toNat ·)
      { s with hostl := { s.hostl with ats := { a with
        asked := a.asked.filter (fun e => e ≠ (p.toNat, page.toNat)), pri := a.pri ++ [(p.toNat, page.toNat)],
        pageReqs := if a.pri.length < 256 then min (a.pageReqs + 1) (2 ^ 64 - 1) else a.pageReqs } } })))) ∧
  (∀ (p : BitVec 5) (page : BitVec 44) (code : BitVec 4) (s : State), (s.hostl.ats.pri.take 256).contains (p.toNat, page.toNat) = true →
    let a := s.hostl.ats
    let t : State := { s with hostl := { s.hostl with ats := { a with
      pri := a.pri.filter (fun e => e ≠ (p.toNat, page.toNat)), pageReqs := if 256 < a.pri.length then min (a.pageReqs + 1) (2 ^ 64 - 1) else a.pageReqs,
      failures := if code = 0 then a.failures else min (a.failures + 1) (2 ^ 64 - 1) } } }
    (code = 0 → exec (.pageResponse p page code) s = .next (settle ((parkedOn s p.toNat page.toNat).foldl resumeOp (askPage t p.toNat (page.toNat * 4096))))) ∧
    (code ≠ 0 → exec (.pageResponse p page code) s = .next (settle ((parkedOn s p.toNat page.toNat).foldl pageGone (chanPageGone t p.toNat page.toNat))))) ∧
  (∀ (p : BitVec 5) (page : BitVec 44) (n : W32) (s : State),
    let a := s.hostl.ats
    let t : State := { s with hostl := { s.hostl with ats := { a with
      cache := a.cache.filter (fun e => !(e.1 = p.toNat && e.2.1 / 2 ^ e.2.2 * 2 ^ e.2.2 < page.toNat + n.toNat && page.toNat < (e.2.1 / 2 ^ e.2.2 + 1) * 2 ^ e.2.2)),
      inval := a.inval ++ [(p.toNat, page.toNat, n.toNat)], invals := min (a.invals + 1) (2 ^ 64 - 1) } } }
    exec (.invalidationRequest p page n) s = .next (settle { t with hostl := { t.hostl with ats := { t.hostl.ats with
      inval := t.hostl.ats.inval.filter fun e => inRange s e.1 e.2.1 e.2.2 } } })) ∧
  (∀ (p : BitVec 4) (line : BitVec 50) (s : State),
    exec (.snoop (p, line) true) s = .next (settle (dropHostLines s p.toNat (line.toNat * 64) 64)) ∧ exec (.snoop (p, line) false) s = .next (settle s))) ∧
  ((∀ (hp : BitVec 1) (s : State), (if hp = 0 then s.hostl.hp0mode else s.hostl.hp1mode) ≠ 0 →
    let t : State := { s with hostl := if hp.toNat = 0 then { s.hostl with hp0mode := 0 } else { s.hostl with hp1mode := 0 } }
    (hp.toNat = s.hostl.ioPort → exec (.hostLinkDown hp) s = .next (settle (retryOps (detach t 0)))) ∧
    (hp.toNat ≠ s.hostl.ioPort → exec (.hostLinkDown hp) s = .next (settle (retirePort t (20 + hp.toNat) 0)))) ∧
  (∀ s : State, exec .hotReset s = .next (settle (retryOps (detach s 1)))) ∧
  (∀ s : State, hostOverdue s = true → exec .hostResponseTimeout s = .next (settle (retryOps (detach s 3)))) ∧
  (∀ (s : State) (cause : Nat),
    (s.hostl.detached = false → (detach s cause).hostl.detached = true ∧ (detach s cause).hostl.detachCause = cause ∧ (detach s cause).hostl.detaches = min (s.hostl.detaches + 1) 0xFFFF) ∧
    (s.hostl.detached = true → detach s cause = s)) ∧
  (∀ s : State, orphanDue s = true → exec .hostTagOrphan s = .next (settle (retryOps (orphanHost s))) ∧ ∀ t ∈ (orphanHost s).tags, t.port = 20 ∨ t.port = 21 → t.orphan = true) ∧
  (∀ s : State, exec .controllerResetDone s = .next (settle (retryOps (stockpotMark { s with
    tags := s.tags.filter fun t => !((t.port = 20 ∨ t.port = 21) ∧ t.orphan) })))) ∧
  (∀ (m0 m1 : BitVec 2) (s : State),
    let h := s.hostl
    let t : State := { s with hostl := { h with hp0mode := if h.hp0mode = 0 then m0.toNat else h.hp0mode, hp1mode := if h.hp1mode = 0 then m1.toNat else h.hp1mode } }
    s.ready = true →
    (ioUp t = true → h.detached = true → exec (.reattach 1 (m0, m1)) s = .next (settle (reattach t))) ∧
    (ioUp t = false → exec (.reattach 1 (m0, m1)) s = .next (settle { t with hostl := { t.hostl with reatterr := true } }))))

/-- The resets: cold, warm, warm through PRG_RESET_CTL with CONFIRM 0x5A, and of a partition (R287 to R289). -/
def Obligations.ResetsTakeEffect : Prop :=
  (∀ (u : PowerUp) (s : State), exec (.coldReset u) s = .next (settle (coldReset s u))) ∧
  (∀ (u : PowerUp) (s : State), exec (.warmReset u) s = .next (settle (warmReset s u))) ∧
  (∀ (u : PowerUp) (s : State), s.ready = true → exec (.resetCtlWarm 0x5A u) s = .next (settle (warmReset s u))) ∧
  (∀ (confirm : Byte) (u : PowerUp) (s : State), confirm ≠ 0x5A → exec (.resetCtlWarm confirm u) s = .next (settle s)) ∧
  (∀ (p : BitVec 4) (s : State), writeOk s 0x50008 32 (2 + 256 * p.toNat + 2 ^ 24 * 0x5A) = true →
    exec (.partitionReset p 0x5A) s = .next (settle (partReset s p.toNat)))

/-- A cold or warm reset keeps the queue of commands, the image store and the memory outside the Stockpot and the directory region, and leaves no object, no context, no operation and
no tag (R287, Table 12.3). -/
def Obligations.ResetsKeepAndWipe : Prop :=
  ∀ (u : PowerUp) (s : State) (t : State), (t = coldReset s u ∨ t = warmReset s u) → s.fw.imgA = none → s.fw.imgB = none →
    t.pending = s.pending ∧ t.objs = [] ∧ t.ctxs = [] ∧ t.ops = [] ∧ t.tags = [] ∧ t.ready = false ∧
    (∀ a, Config.t0Size ≤ a → (a < tqa 1 0 ∨ tqa 1 0 + Config.dirRegion ≤ a) → rdByte t.mem a = rdByte s.mem a) ∧ (∀ a, a < Config.t0Size → rdByte t.mem a = 0)

/-- The firmware's cores: HBEAT_MS without a heartbeat (cause 1), an access or a fetch outside a core's regions (2), an error of its memory (3), and RESTART_CORE (4) hold the core in
reset, and restart it; a core that is held and rejoins runs (R293, R296).
UPDATE, IMAGE_STAGED, SWITCH, DISCARD, ACCEPTANCE and the image instrument (R299 to R301): an update empties the other slot and copies; a copy that has ended with a good image
fills that slot and is staged, one that has not raises UPDERR; a switch restarts the complex on it, a discard empties it; an image for which every core is heard within ACCEPT_MS and every condition
holds is accepted, one that cannot be is rejected; an instrument's image starts a block that awaits one. -/
def Obligations.CoresAndImagesTakeEffect : Prop :=
  ((∀ (n : BitVec 4) (s : State), n.toNat < 11 → (s.core n.toNat).up = true →
    ((s.core n.toNat).started + hbeatNs s ≤ s.now → exec (.heartbeatTimeout n) s = .next (settle (restartCore s n.toNat 1))) ∧
    (∀ why, coreFaults s n.toNat why = true → why ≠ .memErr → exec (.protectionFault n why) s = .next (settle (restartCore s n.toNat 2))) ∧
    exec (.protectionFault n .memErr) s = .next (settle (restartCore s n.toNat 3)) ∧
    (writeOk s 0x60008 32 (cmdWord 1 n.toNat 0x5A) = true → exec (.restartCore n 0x5A) s = .next (settle (restartCore s n.toNat 4)))) ∧
  (∀ (n : BitVec 4) (s : State), n.toNat < 11 → (s.core n.toNat).up = false → (s.fw.st = 1 ∨ s.fw.st = 2) →
    exec (.coreRejoin n) s = .next (settle (rejoined s n.toNat)) ∧ ((startCore s n.toNat).core n.toNat).up = true) ∧
  (∀ (n cause : Nat) (s : State) (recent : List Nat), n < 11 → ((coreDown s n cause recent).core n).up = false)) ∧
  ((∀ s : State, writeOk s 0x60008 32 (cmdWord 2 0 0x5A) = true → (s.core 0).up = true → s.fw.copying = false →
    exec (.update 0x5A) s = .next (settle (update s))) ∧
  (∀ (im : FwImage) (s : State) (o : Op) (a len : Nat), updCopy s = some (o, a, len) → copyEnded s o = true →
    let w := readImage s o.req.part a len im.sigOk
    let t : State := { s.delOp o.id with fw := { s.fw with copying := false } }
    (o.phase ≠ .ending → plainStatus o = 0 → imageOk w = true →
      exec (.imageStaged im) s = .next (settle { setImage t (otherSlot t) (some w) with fw := { (setImage t (otherSlot t) (some w)).fw with staged := true } })) ∧
    ((o.phase = .ending ∨ plainStatus o ≠ 0 ∨ imageOk w = false) → exec (.imageStaged im) s = .next (settle (updErr t)))) ∧
  (∀ s : State, writeOk s 0x60008 32 (cmdWord 3 0 0x5A) = true → (s.core 0).up = true → s.fw.staged = true →
    exec (.switch 0x5A) s = .next (settle (complexRestart s (otherSlot s) false))) ∧
  (∀ s : State, writeOk s 0x60008 32 (cmdWord 4 0 0x5A) = true → s.fw.staged = true →
    exec (.discard 0x5A) s = .next (settle { setImage s (otherSlot s) none with fw := { (setImage s (otherSlot s) none).fw with staged := false } })) ∧
  (∀ s : State, s.fw.st = 2 → s.fw.accepted = false →
    (startable s = true → s.now ≤ s.fw.started + acceptNs s → exec (.acceptance 0x7FF) s = .next (settle (retryOps (if shadow (acceptImage s) then acceptImage s else flushQueue (acceptImage s))))) ∧
    (startable s = false → exec (.acceptance 0x7FF) s = .next (settle (rejectImage s)))) ∧
  (∀ (im : FwImage) (u : PowerUp) (s : State), awaitsImage s = true → s.lc.inForce ≠ 4 →
    exec (.imageInstrumentWrite im u) s = .next (settle (powerUp { s with fw := { s.fw with imgA := some im } } u))))

/-- Locks: a free one goes to the lowest core of those that ask, with a lease of 10 ms; its holder renews or releases it; a core that is not the holder is told it has lost it; a lease
that has run out frees the lock with an event (R298).
A core's write to a lock that another core holds in a lease that lasts leaves the lock as it is: an acquire changes nothing, a renewal and a release only tell the core that it does
not hold it (R298).
Log records, the frequency check and the throttle level (R305 to R307): a record that is wanted takes the next sequence number and, where the buffer has room, its place in it, and
is dropped and counted where it has none; a frequency above the limit raises event 0x27 once; the level follows the hottest sensor, an onset of throttling counts, and level 3 is a hard
stop with event 1.
Each fall of mp_droop_n increments DROOPS, saturating at 65,535, and sets THROTTLE; its rise starts the hold, and DROOP_HOLD_US after it THROTTLE is cleared (R285). -/
def Obligations.LocksLogsAndLimitsTakeEffect : Prop :=
  ((∀ (l : BitVec 6) (cores : BitVec 11) (n : Nat) (s : State), ((List.range 11).filter fun k => bitOf cores.toNat k && (s.core k).up).head? = some n → (s.lock l.toNat).holder = none →
    exec (.lockAcquire l cores) s = .next (settle (s.setLock l.toNat { s.lock l.toNat with holder := some n, expires := s.now + 10000000 }))) ∧
  (∀ (l : BitVec 6) (n : BitVec 4) (s : State), n.toNat < 11 → (s.core n.toNat).up = true → (s.lock l.toNat).holder = some n.toNat → s.now < (s.lock l.toNat).expires →
    let t := s.setCore n.toNat { s.core n.toNat with lost := none }
    exec (.lockRenew l n) s = .next (settle (t.setLock l.toNat { s.lock l.toNat with expires := s.now + 10000000 })) ∧
    exec (.lockRelease l n) s = .next (settle (t.setLock l.toNat { s.lock l.toNat with holder := none }))) ∧
  (∀ (l : BitVec 6) (s : State) (n : Nat), (s.lock l.toNat).holder = some n → (s.lock l.toNat).expires ≤ s.now →
    exec (.leaseexp l) s = .next (settle (fwFlag (s.setLock l.toNat { s.lock l.toNat with holder := none, expiries := min ((s.lock l.toNat).expiries + 1) (2 ^ 32 - 1) })
      3 0x25 13 l.toNat n)))) ∧
  (∀ (l : BitVec 6) (m : Nat) (s : State), (s.lock l.toNat).holder = some m → s.now < (s.lock l.toNat).expires →
    (∀ cores : BitVec 11, exec (.lockAcquire l cores) s = .next (settle s)) ∧
    (∀ n : BitVec 4, n.toNat < 11 → (s.core n.toNat).up = true → m ≠ n.toNat →
      exec (.lockRenew l n) s = .next (settle (s.setCore n.toNat { s.core n.toNat with lost := some l.toNat })) ∧
      exec (.lockRelease l n) s = .next (settle (s.setCore n.toNat { s.core n.toNat with lost := some l.toNat })))) ∧
  ((∀ (sev : Byte) (n : BitVec 4) (code : BitVec 16) (a0 a1 : W64) (s : State), n.toNat < 11 → (s.core n.toNat).up = true → sev.toNat < 4 →
    logWanted s sev.toNat code.toNat = true → s.fw.logBuf.length < logBufSize →
    let r := pack [(0, 8, sev.toNat), (8, 8, n.toNat), (16, 16, code.toNat), (32, 32, s.fw.logSeq), (64, 64, s.now), (128, 64, a0.toNat), (192, 64, a1.toNat)]
    exec (.logRecord sev n code a0 a1) s = .next (settle
      (logDrain logBufSize { s with fw := { s.fw with logSeq := (s.fw.logSeq + 1) % 2 ^ 32, logBuf := s.fw.logBuf ++ [r] } }))) ∧
  (∀ (sev : Byte) (n : BitVec 4) (code : BitVec 16) (a0 a1 : W64) (s : State), n.toNat < 11 → (s.core n.toNat).up = true → sev.toNat < 4 →
    (logWanted s sev.toNat code.toNat = true → logBufSize ≤ s.fw.logBuf.length →
      exec (.logRecord sev n code a0 a1) s = .next (settle { s with fw := { s.fw with logSeq := (s.fw.logSeq + 1) % 2 ^ 32, logDrop := min (s.fw.logDrop + 1) (2 ^ 32 - 1) } })) ∧
    (logWanted s sev.toNat code.toNat = false → exec (.logRecord sev n code a0 a1) s = .next (settle s))) ∧
  (∀ (mhz : Nat) (s : State),
    let ppm := 1000000 + (calNow s 11).toNat
    let fast := (if s.bist.clk then clkCeil s else (Config.calFactory 10).toNat * 95 / 100) * 1005 * 1000000 < mhz * ppm * 1000
    let t : State := { s with fw := { s.fw with mhz := mhz * ppm / 1000000, overclk := fast } }
    underTest s 9 0 = false →
    ((¬ fast ∨ (s.fw.overclk = true ∧ bitOf s.fw.event 5 = true)) → exec (.frequencyCheck mhz) s = .next (settle t)) ∧
    (fast → (s.fw.overclk = false ∨ bitOf s.fw.event 5 = false) → exec (.frequencyCheck mhz) s = .next (settle (fwFlag t 5 0x27 0 0 (mhz * ppm / 1000000))))) ∧
  (∀ (l : List Int) (s : State), levelFor s (hottest s l) ≠ 3 → s.fw.level ≠ 3 →
    exec (.throttleLevel l) s = .next (settle { s with fw := { s.fw with temp := hottest s l, level := levelFor s (hottest s l), onsets := if s.fw.level = 0 ∧ levelFor s (hottest s l) ≠ 0 then min (s.fw.onsets + 1) 0xFFFF else s.fw.onsets } })) ∧
  (∀ (l : List Int) (s : State), levelFor s (hottest s l) = 3 → s.fw.level ≠ 3 →
    exec (.throttleLevel l) s = .next (settle (fwFlag { s with fw := { s.fw with
      temp := hottest s l, level := 3, onsets := if s.fw.level = 0 then min (s.fw.onsets + 1) 0xFFFF else s.fw.onsets, stops := min (s.fw.stops + 1) 0xFFFF, stopAt := s.now } }
      6 1 0 0 (hottest s l % 2 ^ 32).toNat)))) ∧
  ((∀ s : State, s.droopLow = false → exec .droop s = .next (settle { s with droops := min (s.droops + 1) 0xFFFF, droopOn := true, droopLow := true })) ∧
  (∀ s : State, s.droopLow = true → exec .droop s = .next (settle { s with droopLow := false, droopAt := s.now })) ∧
  (∀ s : State, s.droopOn = true → s.droopLow = false → s.droopAt + droopHoldNs s ≤ s.now → exec .droopHoldEnd s = .next (settle { s with droopOn := false })))

/-- A lifecycle request that Table 12.1 permits, with its signature or CONFIRM right, holds every START and LOAD and disables every partition in ABORT mode; one that it does not permit
sets LCERR with cause 1, a wrong signature with cause 2 (R310, R311).
A transition's programming supply: in time and good, late, or lost; a loss of power leaves fuses only (R299, R310, R311).
INSTALL makes the key store busy until KEY_COMMAND_DONE, which stores the key that unwraps, under its salt, with nonce 0 and a new KEYGEN; REMOVE removes a key (R317). -/
def Obligations.LifecycleAndKeysTakeEffect : Prop :=
  ((∀ (k : Instr) (target : Nat) (id : W64) (s : State),
    (k, target, id) ∈ [(Instr.provision id, 1, id), (.user true, 2, 0), (.scrap 0x5A, 4, 0)] →
    s.lc.inForce ≠ 4 → (s.core 0).up = true → s.lc.busy = none → lcPermits s.lc.inForce target = true →
    exec k s = .next (settle ((List.range 16).foldl (fun s p => partDisable s p true) { s with lc := { s.lc with held := true, busy := some target, newIdent := id } }))) ∧
  (∀ s : State, s.lc.inForce ≠ 4 → (s.core 0).up = true → s.lc.busy = none → lcPermits s.lc.inForce 3 = true →
    exec (.rma true s.lc.ident) s = .next (settle
      ((List.range 16).foldl (fun s p => partDisable s p true) { s with lc := { s.lc with held := true, busy := some 3, newIdent := s.lc.ident } }))) ∧
  (∀ s : State, s.lc.inForce ≠ 4 → (s.core 0).up = true → s.lc.busy = none →
    (lcPermits s.lc.inForce 2 = false → exec (.user true) s = .next (settle { s with lc := { s.lc with lcerr := true, cause := 1 } })) ∧
    (lcPermits s.lc.inForce 2 = true → exec (.user false) s = .next (settle { s with lc := { s.lc with lcerr := true, cause := 2 } })))) ∧
  ((∀ (e : Bool) (s : State) (t : Nat), s.lc.busy = some t → t ≠ 3 → s.lc.vppEn = true → (s.core 0).up = true → exec (.vppOk e) s = .next (settle (lcBlow s t))) ∧
  (∀ (e : Bool) (s : State), s.lc.busy = some 3 → s.lc.vppEn = true → (s.core 0).up = true → exec (.vppOk e) s = .next (settle (vppOk s e))) ∧
  (∀ (s : State) (t : Nat), s.lc.busy = some t → s.lc.vppEn = true → s.lc.vppAt + 100000 ≤ s.now →
    exec .vppTimeout s = .next (settle (lcEnd { s with lc := { s.lc with lcerr := true, cause := 3 } }))) ∧
  (∀ (s : State) (t : Nat) (killed : Bool), s.lc.busy = some t → s.lc.vppEn = true →
    exec (.vppLoss killed) s = .next (settle (vppLoss s killed))) ∧
  (∀ s : State, exec .supplyFail s = .next (settle (supplyFail s)))) ∧
  ((∀ (p : BitVec 4) (s : State), writeOk s 0xF0410 32 (cmdWord 1 p.toNat 0x5A) = true → keyCause s p.toNat = 0 →
    exec (.install p 0x5A) s = .next (settle (stampVer { s with lc := { s.lc with keyBusy := some p.toNat } }))) ∧
  (∀ (p : BitVec 4) (s : State), writeOk s 0xF0410 32 (cmdWord 2 p.toNat 0x5A) = true → keyCause s p.toNat = 0 → (s.core 0).up = true →
    exec (.remove p 0x5A) s = .next (settle (stampVer (removeKey s p.toNat)))) ∧
  (∀ (salt : W128) (s : State) (p : Nat), (s.core 0).up = true → s.lc.keyBusy = some p →
    ∃ t, exec (.keyCommandDone salt) s = .next (settle t) ∧ t.lc.keyBusy = none ∧
      (∀ k, Config.keyUnwrap (dukNow s) s.lc.ident p (xferWords s 0 12) (xferWords s 12 5) = some k →
        (t.part p).key = k ∧ (t.part p).keyValid = true ∧ (t.part p).salt = salt ∧ (t.part p).nonce = 0 ∧ (t.part p).keygen = ((s.part p).keygen + 1) % 65536) ∧
      (Config.keyUnwrap (dukNow s) s.lc.ident p (xferWords s 0 12) (xferWords s 12 5) = none → t.lc.keyerr = true ∧ t.lc.keyCause = 3 ∧ t.parts = s.parts)))

/-- BIST visits a unit: its slice starts, or it is skipped and counted; a slice ends with its verdict, or yields (R323 to R328).
A sample of a tap whose read is complete is taken; one whose read failed, or whose object is gone or lost by now, is skipped; a tap with a digest and no statistic takes the CRC-64 of
the raw bytes, the time and its count (R339, R340). -/
def Obligations.SelfTestTakesEffect : Prop :=
  ((∀ (s : State) (i kind u : Nat),
    let t : State := { s with bist := { s.bist with pos := (i + 1) % roundUnits.length } }
    visitDue s = some (i, kind, u) →
    (sliceSkip t kind u = false → exec .bistSlice s = .next (settle (sliceStart { t with bist := { t.bist with lastStart := t.now } } kind u))) ∧
    (sliceSkip t kind u = true → exec .bistSlice s = .next (settle (bistDefer t)))) ∧
  (∀ (kind : BitVec 4) (pass : Bool) (rows : Nat) (row : BitVec 16) (bit : BitVec 10) (s : State) (x : Nat × Nat × Nat), sliceOf? s kind.toNat = some x → sliceReady s x pass = true →
    exec (.bistSliceEnd kind pass rows row bit) s = .next (settle (sliceEnd s x pass rows row.toNat bit.toNat))) ∧
  (∀ (kind : BitVec 4) (s : State) (x : Nat × Nat × Nat), sliceOf? s kind.toNat = some x → marchNeeded s x = true →
    exec (.marchYield kind) s = .next (settle (marchYield s x)))) ∧
  ((∀ (t : BitVec 9) (o : Op) (s : State), sampleOp s t.toNat = some o → o.phase = .running → xferDone s o = true →
    exec (.watchSample t .ok) s = .next (settle (sampleTap s o t.toNat)) ∧ exec (.watchSample t .checkFail) s = .next (settle (watchSkip s o t.toNat)) ∧
      exec (.watchSample t .portFault) s = .next (settle (watchSkip s o t.toNat))) ∧
  (∀ (t : Nat) (o : Op) (s : State),
    let x := hIdx (s.tapOf t).hdl
    let failed := o.x.srcBad = true ∨ o.x.bad ≠ 0 ∨ ((s.obj x).st ≠ .resident ∧ (s.obj x).st ≠ .inTransit)
    (failed → sampleTap s o t = watchSkip s o t) ∧
    (∀ bs, ¬ failed → rawBytes s x = some bs → (s.tapOf t).stat = 0 → (s.tapOf t).digest = true →
      let w := decodeNow (s.delOp o.id) none x
      sampleTap s o t = watchGo (raiseEv ((w.ticks 1).setTap t { s.tapOf t with samples := min ((s.tapOf t).samples + 1) (2 ^ 32 - 1), time := w.now, crc := crc64 bs })
        (s.tapOf t).part 3 t []) t)))

/-- A write that the window takes: REGISTER_WRITE applies it; a malformed access is only noted; a read of a context image whose window is closed sets IMGBUSY; a request that is not the
host's root port's completes as Unsupported Request and does nothing else (R42, R280, R349 to R351, R354).
While SHADOW is set, a write to the emulated region waits in the write queue and changes nothing else (R295); a second GO for a partition while one waits only sets CTLERR (R304). -/
def Obligations.RegisterWritesTakeEffect : Prop :=
  ((∀ (off : BitVec 20) (width : Nat) (v : W64) (s : State), writeOk s off.toNat width v.toNat = true →
    ¬ (off = 0x50008 ∧ width = 32 ∧ bitsOf v.toNat 31 24 = 0x5A ∧ bitsOf v.toNat 1 0 = 1) →
    exec (.registerWrite off width v) s = .next (settle (applyWrite s off.toNat width v.toNat .ok))) ∧
  (∀ (off : BitVec 20) (width : Nat) (wr : Bool) (s : State), s.ready = true → accessKind off.toNat width wr ≠ 0 →
    exec (.badacc off width (if wr then .write else .read)) s = .next (settle { s with
      badacc := true, errCount := min (s.errCount + 1) 0xFFFF, errKind := if s.badacc = false ∧ s.rsvwr = false then accessKind off.toNat width wr else s.errKind,
      errOff := if s.badacc = false ∧ s.rsvwr = false then off.toNat else s.errOff })) ∧
  (∀ (off : BitVec 20) (width : Nat) (p : Place) (s : State), s.ready = true → accessKind off.toNat width false = 0 → locate off.toNat = some p → p.d.reg = .ctxImage →
    imageOpen s p.i = false → exec (.badacc off width .read) s = .next (settle (s.modCtx p.i fun v => { v with imgbusy := true }))) ∧
  (∀ (off : BitVec 20) (width : Nat) (s : State),
    exec (.badacc off width .foreign) s = .next { s with hostl := { s.hostl with unsupported := s.hostl.unsupported + 1 } })) ∧
  (∀ (off : BitVec 20) (width : Nat) (v : W64) (s : State), s.ready = true → accessKind off.toNat width true = 0 → rsvBits off.toNat width v.toNat = false → 0x80000 ≤ off.toNat →
    shadow s = true →
    (goAgain s off.toNat v.toNat = false → s.fw.wrq.length < wrqSize →
      exec (.registerWrite off width v) s = .next (settle { s with fw := { s.fw with wrq := s.fw.wrq ++ [(off.toNat, width, v)] } })) ∧
    (goAgain s off.toNat v.toNat = true → exec (.registerWrite off width v) s = .next (settle (ctlErr s))))

/-- FORCE asks for a switch of the budget banks; a write of a budget entry goes to the bank that is not active, clipped to its ceilings, and sets DIRTY; CLEAR empties a history set
(R124, R130, R131, R180).
A traffic group is validated, and a barrier group is made VALID with GEN 0 (R211, R243).
The capture registers take their snapshots (R178, R332, R352).
Clearing BUSY of the wait-for graph, the masking of units, negotiation and user calibration (R304, R308, R328, R347). -/
def Obligations.ConfigurationWritesTakeEffect : Prop :=
  ((∀ (p : BitVec 4) (s : State), writeOk s (0x94000 + 8 * p.toNat) 64 (4 + 8 * b2n (s.part p.toNat).slackEn) = true →
    exec (.force p) s = .next (settle (stampVer (s.modPart p.toNat fun v => { v with budForce := true })))) ∧
  (∀ (p : BitVec 4) (b : BitVec 1) (k : BitVec 4) (v : W64) (s : State),
    let off := 0x90000 + 0x200 * p.toNat + 0x100 * b.toNat + 8 * k.toNat
    writeOk s off 64 v.toNat = true → k.toNat < 12 → (s.part p.toNat).budActive ≠ b.toNat →
    exec (.budgetTableWrite p b k v) s = .next (settle (stampVer ((setReg s off (clipBud s p.toNat k.toNat v.toNat)).modPart p.toNat fun q => { q with budDirty := true })))) ∧
  (∀ s : State,
    let h := reg s 0x9A280
    let m := s.hset h
    writeOk s 0x9A288 64 (m.cfg ||| 65536) = true → 0 < h → (bitOf m.cfg 0 = false ∨ bitsOf m.cfg 11 8 = 2 ∨ bitsOf m.cfg 11 8 = 3) → hsetBusy s h = false →
    exec .hsetClear s = .next (settle (stampVer (s.setHset h (clearHset { m with cfg := wipe1 (m.cfg ||| 65536) 65536 })))))) ∧
  ((∀ (v : W64) (r : RdRes) (s : State),
    let g := reg s 0xB0000
    let t := s.tgrp g
    let w := v.toNat ||| 1
    let body := w - bitsOf w 23 20 * 2 ^ 20
    let u : TGrp := { t with w0 := body }
    writeOk s 0xB0008 64 w = true → t.valid = false → grpErr s u (r ≠ .ok) = 0 →
    exec (.tgrpValidate v r) s = .next (settle (stampVer (s.setTgrp g { w0 := body, w1 := t.w1, w2 := t.w2, w3 := t.w3 })))) ∧
  (∀ (v : W64) (s : State),
    let g := reg s 0xB3000
    let w := v.toNat ||| 1
    let leaf := bitsOf w 21 16
    writeOk s 0xB3008 64 w = true → nodeValid s leaf = true → nodeLeaf s leaf = true → nodeGrp s leaf = g → carriersOk s (bitsOf w 7 4) g = true →
    exec (.barGroupValid v) s = .next (settle (stampVer (((nodesOf s g).foldl (fun s n => s.setNode n {}) s).setBar g { s.bar g with cfg := w, gen := 0 }))))) ∧
  ((∀ (v : W32) (s : State), writeOk s 0x70200 32 v.toNat = true → exec (.cntSnap v) s = .next (settle { s with cntWin := tget s.cnts v.toNat [] })) ∧
  (∀ s : State, s.ready = true → exec (.gcntSnap 1) s = .next (settle { s with gcntWin := s.gcnt })) ∧
  (∀ (v : W32) (s : State), writeOk s 0x70900 32 v.toNat = true → exec (.watchSel v) s = .next (settle { setReg s 0x70900 v.toNat with tapWin := s.tapOf v.toNat })) ∧
  (∀ (v : W32) (s : State), writeOk s 0x9A300 32 v.toNat = true →
    exec (.shareSel v) s = .next (settle (stampVer { setReg s 0x9A300 v.toNat with shareSnap := (s.shares.find? fun e => e.1 = v.toNat).map fun e => e.2 })))) ∧
  ((∀ (p : BitVec 4) (s : State), writeOk s (0xB9500 + 8 * p.toNat) 64 1 = true → (s.part p.toNat).wfgBusy = true →
    exec (.wfgBusyClear p) s = .next (settle (stampVer (wfgClear s p.toNat)))) ∧
  (∀ (w : BitVec 1) (v : W64) (s : State),
    let off := 0xF0720 + 8 * w.toNat
    writeOk s off 64 v.toNat = true →
    exec (.unitMask w v) s = .next (settle (stampVer (maskUnits (setReg s off (reg s off ||| v.toNat)) w.toNat v.toNat)))) ∧
  (∀ (p : BitVec 4) (v : W64) (s : State),
    let w := v.toNat ||| 2 ^ 48
    writeOk s (0xE0100 + 8 * p.toNat) 64 w = true → exec (.fwNegGo p v) s = .next (settle (stampVer (negotiate s p.toNat w)))) ∧
  (∀ (e : BitVec 4) (v : BitVec 16) (s : State),
    writeOk s (0xE0440 + 4 * e.toNat) 32 v.toNat = true → e.toNat < 12 →
    exec (.calUserWrite e v) s = .next (settle (stampVer (calPut s e.toNat (0xE0440 + 4 * e.toNat) v.toNat)))))

/-- No command is refused and none ends in a fault: every row of the opcode table has its meaning, and answers a next state in every state. -/
def Obligations.NoCommandIsRefused : Prop :=
  (∀ (i : Instr) (s : State) (r : Refusal), exec i s ≠ .refused r) ∧ ∀ (i : Instr) (s : State), ∃ t, exec i s = .next t

/-- Before READY every write of the window but one to PRG_HRW_ERR is ignored (R289).
Before READY a doorbell or another write of the hardware region leaves the state as it is (R289). -/
def Obligations.WritesBeforeReadyAreIgnored : Prop :=
  (∀ (off : BitVec 20) (width : Nat) (v : W64) (s : State), s.ready = false → off.toNat / 8 ≠ 1 → exec (.registerWrite off width v) s = .next (settle s)) ∧
  (∀ (s : State) (k : Instr) (c ch : BitVec 8) (slot : BitVec 1) (tag : BitVec 24) (p : BitVec 4) (q : BitVec 12) (l : Byte) (n : BitVec 13) (port : BitVec 5) (h : W64)
    (v : W32) (hw : BitVec 16) (modes : BitVec 2 × BitVec 2),
    k ∈ [.load c slot tag, .start c slot tag, .stopDrain c slot tag, .stopAbort c slot tag, .resume c slot tag, .reset c slot tag, .unload c slot tag, .chanDoorbell ch h,
      .chanEnable ch, .chanDisableDrain ch, .chanDisableAbort ch, .partEnable p, .partDisableDrain p, .partDisableAbort p, .cqHeadWrite q v, .stuckClear l, .semWrite n v hw,
      .semAdd n v, .portRetire port, .portReset port, .restore port, .reattach v modes] →
    s.ready = false → exec k s = .next s)

/-- While a hard stop lasts, no timer that measures the block's own traffic runs out, and no context is switched in (R307): such an event cannot arise, and changes nothing. -/
def Obligations.AHardStopFreezesTheTimers : Prop :=
  ∀ (s : State) (k : Instr) (c : BitVec 8) (x : BitVec 21) (i : Nat) (port : BitVec 5) (resp : Bool) (cl : BitVec 3) (tag : Byte) (dst : BitVec 16) (cls : BitVec 2) (l : Byte)
    (q : BitVec 4),
    k ∈ [.watchdog c, .sealWatchdog x, .inputWaitTimeout i, .portTimeout port resp, .stepTimeout cl tag, .replayTimeout dst cls, .plStuck l, .clusterHung cl,
      .contextSwitch q, .hostResponseTimeout, .hostTagOrphan] →
    frozen s = true → exec k s = .next s

/-- An instruction that fails a check at issue leaves every object, operation, semaphore, ring, recipe slot, register, channel and tag as it is (R72): it retires and completes with
its status. -/
def Obligations.AFailedCheckChangesNothingElse : Prop :=
  ∀ (s : State) (i : Ins) (r : Req) (st : Nat),
    let t := failI s i r st
    t.objs = s.objs ∧ t.ops = s.ops ∧ t.sems = s.sems ∧ t.rings = s.rings ∧ t.slots = s.slots ∧ t.cfg = s.cfg ∧ t.chans = s.chans ∧ t.tags = s.tags ∧ t.bars = s.bars ∧
      t.now = s.now ∧ t.pending = s.pending ∧ (t.ctx i.c).pc = (s.ctx i.c).pc + i.len ∧ (t.ctx i.c).g = (s.ctx i.c).g

/-- A handle that fails R11, or names a plan, a recipe body or, where the instruction takes none, a snapshot, makes the instruction complete with PERMISSION; a BIND that waited for the
waiter store leaves its queue (R11, R45, R94, R238). -/
def Obligations.ABadHandleIsPermission : Prop :=
  ∀ (c : BitVec 8) (s : State) (k : Instr) (op : Nat) (snap : Bool),
    (k, op, snap) ∈ [(Instr.bind c, 0x02, false), (.retire c, 0x03, true), (.pin c, 0x04, false), (.unpin c, 0x05, false), (.keep c, 0x10, false), (.sqz c, 0x11, false),
      (.spill c, 0x12, false), (.drop c, 0x13, false), (.stock c, 0x17, false), (.demote c, 0x16, false), (.rngcap c, 0x22, false), (.rngset c, 0x23, false),
      (.fill c, 0x37, false), (.cmp c, 0x38, false)] →
    let i := insOf s c.toNat
    let b := atBody s c.toNat
    let u := if op = 0x02 then storeLeave b i.c else b
    atIssue s c.toNat op = true → operandOk b i.p (hdlA b i) snap = false →
    exec k s = .next (settle (boundary c.toNat (failI u i (rqOf s c.toNat) 0x20)))

/-- A handle is INDEX in [31:11] and GEN in [10:0]; entry 0 is never allocated, generation 0 never issued; the null handle names nothing (R9). -/
def Obligations.HandlesAreLaidOutAsTheTableSays : Prop :=
  (∀ (s : State) (x : Nat), x < 2 ^ 21 → (s.obj x).gen < 2048 →
    handleOf s x < 2 ^ 32 ∧ hIdx (handleOf s x) = x ∧ hGen (handleOf s x) = (s.obj x).gen) ∧
  (∀ (s : State) (x : Nat), freeListOk s → dirFree s = some x → x ≠ 0) ∧
  (∀ (s : State) (x : Nat) (o : Obj), ((dirAlloc s x o).obj x).gen ≠ 0) ∧
  (∀ (s : State) (p : Nat), handleOk s p 0 = false)

/-- The free list never holds entry 0: reset has it so, and taking an entry and giving back one that is not 0 keep it so. -/
def Obligations.TheFreeListNeverHoldsEntryZero : Prop :=
  freeListOk State.reset ∧
  (∀ (s : State) (x : Nat) (o : Obj), freeListOk s → freeListOk (dirAlloc s x o)) ∧
  (∀ (s : State) (x : Nat), freeListOk s → x ≠ 0 → freeListOk (dirRelease s x))

/-- GEN increments, from 2,047 to 1, when an entry returns to FREE: the handle that named it fails R11 from then on, also when the entry is allocated again. -/
def Obligations.AReleasedHandleNamesNothing : Prop :=
  ∀ (s : State) (x p : Nat) (o : Obj), x < 2 ^ 21 → 1 ≤ (s.obj x).gen → (s.obj x).gen ≤ 2047 →
    let t := dirRelease s x
    ((t.obj x).gen = if (s.obj x).gen = 2047 then 1 else (s.obj x).gen + 1) ∧ handleOk t p (handleOf s x) = false ∧ handleOk (dirAlloc t x o) p (handleOf s x) = false ∧
      ∀ y, y ≠ x → t.obj y = s.obj y

/-- The block places a run at the lowest address at which enough free space follows on one another, inside the region and clear of everything that the tier holds (R31, R356). -/
def Obligations.ARunIsPlacedAtTheLowestFreeAddress : Prop :=
  ∀ (s : State) (p t n a : Nat) (dl : Bool), place s p t n dl = some a →
    let free := fun (b : Nat) => (region s p t).1 ≤ b ∧ b + n ≤ (region s p t).2 ∧ ∀ r ∈ occupied s p t, meets b n r.1 r.2 = false
    free a ∧ (∀ b, free b → a ≤ b) ∧ (n : Int) ≤ avail s p t - if dl then 0 else (headroom s t : Int)

/-- The fields of a completion record stand where Table 3.1 puts them. -/
def Obligations.CompletionRecordsHaveTheirLayout : Prop :=
  ∀ (s : State) (r : Req) (st h fl d det res : Nat),
    let w := reqData s r st h fl d det res
    bitsOf w 7 0 = 0xC1 ∧ bitsOf w 15 8 = st % 2 ^ 8 ∧ bitsOf w 23 16 = r.opcode % 2 ^ 8 ∧ bitsOf w 31 24 = partyNum r.who % 2 ^ 8 ∧ bitsOf w 63 32 = r.pc % 2 ^ 32 ∧
      bitsOf w 95 64 = h % 2 ^ 32 ∧ bitsOf w 103 96 = (fl + b2n r.ladle + 2 * b2n r.merged + 128 * r.slot) % 2 ^ 8 ∧ bitsOf w 106 104 = d % 2 ^ 3 ∧ bitsOf w 111 107 = 0 ∧
      bitsOf w 127 112 = det % 2 ^ 16 ∧ bitsOf w 191 128 = s.now % 2 ^ 64 ∧ bitsOf w 255 192 = res % 2 ^ 64

/-- A record goes to slot TAIL of its queue's ring and TAIL goes on by one; every other byte of memory and every other queue stays as it is (R192). -/
def Obligations.ARecordGoesToSlotTail : Prop :=
  ∀ (s : State) (r : Pend),
    let c := s.cq r.q
    let a := memKey s ((cqOwner s r.q).getD 0) (c.base + c.tail % 2 ^ cqLog c * 32)
    let t := cqPut s r
    rdBytes t.mem a 32 = leBytes 32 r.data ∧ (∀ x, ¬(a ≤ x ∧ x < a + 32) → rdByte t.mem x = rdByte s.mem x) ∧
      t.cq r.q = { c with tail := (c.tail + 1) % 2 ^ 32 } ∧ ∀ q, q ≠ r.q → t.cq q = s.cq q

/-- Of several statuses the first in the order of R112 is reported: one from 0x10 upward, SUBST, LATE, OK; an operation is late when its D lies before now, a LAND with CUT 1 never. -/
def Obligations.TheReportedStatusIsTheFirstInOrder : Prop :=
  (∀ (st : Nat) (late : Bool), 0x10 ≤ st → reported st late = st) ∧ (∀ late, reported 1 late = 1) ∧ reported 0 true = 2 ∧ reported 0 false = 0 ∧
  (∀ (s : State) (r : Req) (d : Nat), r.dl = .at d → r.opcode ≠ 0x32 → (isLate s r = true ↔ d < s.now)) ∧
  (∀ (s : State) (r : Req), r.due = none → isLate s r = false)

/-- A budget entry as it is stored has neither half above its ceiling, and each half is what was written where that is not above it (R124). -/
def Obligations.BudgetEntriesStayUnderTheirCeilings : Prop :=
  ∀ (s : State) (p k v : Nat),
    let c := reg s (0x92000 + 0x100 * p + 8 * k)
    let w := clipBud s p k v
    bitsOf w 31 0 ≤ bitsOf c 31 0 ∧ bitsOf w 63 32 ≤ bitsOf c 63 32 ∧ (bitsOf v 31 0 ≤ bitsOf c 31 0 → bitsOf w 31 0 = bitsOf v 31 0) ∧
      (bitsOf v 63 32 ≤ bitsOf c 63 32 → bitsOf w 63 32 = bitsOf v 63 32)

/-- A semaphore serves its queue from the head: the waiters served are the first ones, their amounts are what the value loses, and the head of what is left asks for more than the
value (R236, R237). -/
def Obligations.ASemaphoreServesItsQueueInOrder : Prop :=
  ∀ (s : State) (n : Nat) (who : Party) (f : Nat), (s.sem n).q.length < f →
    ∃ l, (s.sem n).q = l ++ ((serveSem f s n who).sem n).q ∧ ((serveSem f s n who).sem n).val + (l.map waiterAmt).sum = (s.sem n).val ∧
      ∀ w r, ((serveSem f s n who).sem n).q = w :: r → ((serveSem f s n who).sem n).val < waiterAmt w

/-- A ring with nobody waiting gives its handles back in the order in which they came: a push puts its handle behind the others, a pop takes the one in front (R241). -/
def Obligations.ARingIsFirstInFirstOut : Prop :=
  ∀ (s : State) (n h : Nat) (who : Party) (op : Option Nat),
    let r := s.ring n
    r.popq = [] → ringCount' r < ringDepth r → r.tail < 65536 → r.head < 65536 →
    let t := (ringPush s n h who op).1
    (ringPush s n h who op).2 = true ∧ ringCount' (t.ring n) = ringCount' r + 1 ∧ (t.ring n).head = r.head ∧
      (ringCount' r = 0 → (ringPop t n who).1 = some h) ∧
      (0 < ringCount' r → (ringPop t n who).1 = some (tget s.ringStore (ringStart r + r.head % ringDepth r) 0)) ∧
      ∀ m, m ≠ n → t.ring m = s.ring m

/-- The first beats of a target write store nothing outside the request's bytes, a target read stores nothing, and neither touches an object or a context (R263). -/
def Obligations.ATargetRequestStoresItsBytesOnly : Prop :=
  ∀ (s : State) (n src tag a len : Nat) (bs : List Byte) (poison last : Bool),
    (∀ x, rdByte (targetReq s n src tag false a len bs poison last).mem x = rdByte s.mem x) ∧
    ((s.partials.find? fun p => p.port = n && p.src = src && p.tag = tag) = none →
      ∀ x, ¬(tqa 0 a ≤ x ∧ x < tqa 0 a + 32 * (len + 1)) → rdByte (targetReq s n src tag true a len bs poison last).mem x = rdByte s.mem x) ∧
    (targetReq s n src tag true a len bs poison last).objs = s.objs ∧ (targetReq s n src tag true a len bs poison last).ctxs = s.ctxs

/-- Commands that only note something: whatever they answer leaves memory, objects, contexts, operations, semaphores and rings as they were, but for what then settles; a read of a
closed context image sets its IMGBUSY (R42). -/
def Obligations.NotesLeaveTheDataAlone : Prop :=
  ∀ (s u : State) (k : Instr) (l : Byte) (lk : BitVec 6) (cores : BitVec 11) (core : BitVec 4) (line : BitVec 4 × BitVec 50) (inv : Bool) (port : BitVec 5) (src : BitVec 6) (n : BitVec 6)
    (pp : BitVec 5) (page : BitVec 44) (pages : W32) (off : BitVec 20) (width : Nat) (acc : BadAcc),
    k ∈ [.overrun l, .droop, .droopHoldEnd, .lockAcquire lk cores, .lockRenew lk core, .lockRelease lk core, .snoop line inv, .sourceReset port src, .sourceResetEnd port src,
      .satTrainingTimeout n, .invalidationRequest pp page pages, .badacc off width acc, .portResetTimeout port, .portResetAck port true] →
    exec k s = .next u →
    ∃ t, (u = t ∨ u = settle t) ∧ t.objs = s.objs ∧ t.ops = s.ops ∧ t.sems = s.sems ∧ t.rings = s.rings ∧ (k ≠ .badacc off width .read → t.ctxs = s.ctxs) ∧
      (∀ c, t.ctx c = { s.ctx c with imgbusy := (t.ctx c).imgbusy }) ∧
      ((∀ l c, k ≠ .lockAcquire l c) → (∀ l c, k ≠ .lockRenew l c) → (∀ l c, k ≠ .lockRelease l c) → t.mem = s.mem)

/-- The words of an instruction keep every field: a base word and a deadline word decode to what they encode, and a word of 128 bits encodes to itself (Tables 2.5 and 2.7). -/
def Obligations.InstructionWordsKeepEveryField : Prop :=
  (∀ b : Base, b.fits = true → decodeBase (encodeBase b) = b ∧ encodeBase b < 2 ^ 128) ∧ (∀ w, w < 2 ^ 128 → encodeBase (decodeBase w) = w ∧ (decodeBase w).fits = true) ∧
  (∀ d : DlWord, d.fits = true → decodeDl (encodeDl d) = d ∧ encodeDl d < 2 ^ 128) ∧ (∀ w, w < 2 ^ 128 → encodeDl (decodeDl w) = w ∧ (decodeDl w).fits = true)

/-- Words written out from Tables 2.5 and 3.3 decode to the instructions they stand for: the FETCH of 02's worked example with its deadline word, a NOP, a PIN of G[3] with CMODE 2
and CQ 5, a JUMP to 0x40 and a HALT with CODE 7. -/
def Obligations.SampleWordsDecodeAsTheTablesSay : Prop :=
  decodeBase 0x0001000000000001280308028005E114 = ⟨0x14, 1, 0, 2, 3, 5, 40, 0, 0, 1, 0, 0x12803, 0, 1⟩ ∧ decodeDl 0x002625A000000000 = ⟨0, 0, 0, 0, 2500000, 0⟩ ∧
  decodeBase 0x2000 = ⟨0, 0, 0, 2, 0, 0, 0, 0, 0, 0, 0, 0, 0, 0⟩ ∧
  decodeBase (0x04 + 2 * 2 ^ 12 + 2 * 2 ^ 14 + 5 * 2 ^ 16 + 2 ^ 41 + 3 * 2 ^ 48) = ⟨0x04, 0, 0, 2, 2, 5, 0, 1, 0, 0, 0, 3, 0, 0⟩ ∧
  decodeBase (0x54 + 1 * 2 ^ 12 + 0x40 * 2 ^ 48) = ⟨0x54, 0, 0, 1, 0, 0, 0, 0, 0, 0, 0, 0x40, 0, 0⟩ ∧
  decodeBase (0x5F + 2 * 2 ^ 12 + 7 * 2 ^ 112) = ⟨0x5F, 0, 0, 2, 0, 0, 0, 0, 0, 0, 0, 0, 0, 7⟩

/-- A block of 512 bytes decodes to itself whatever follows it, and takes between 5 and 517 bytes (R157 to R161). -/
def Obligations.SieveBlocksDecodeToThemselves : Prop :=
  ∀ raw rest : List Byte, raw.length = 512 →
    decodeBlock (encodeBlock raw ++ rest) = .ok (raw, (encodeBlock raw).length) ∧ 5 ≤ (encodeBlock raw).length ∧ (encodeBlock raw).length ≤ 517

/-- Sieve is lossless: what the encoder makes of raw data of whole frames, with any fill behind it, decodes to the raw data, and takes no more than the worst case of R155. -/
def Obligations.SieveIsLossless : Prop :=
  ∀ (raw fill : List Byte) (f : Nat), raw.length = 4096 * f → f < 2 ^ 34 →
    decodeObj (encodeObj raw ++ fill) f = .ok raw ∧ (encodeObj raw).length ≤ 4144 * f

/-- The state after reset: memory in its canonical form and nothing in it, READY clear, no command waiting, every context EMPTY, no object, and the registers of Table 4.3 and 4.5 at
their reset values (R124, R287, R355). -/
def Obligations.ResetLeavesTheBlockEmpty : Prop :=
  memOk State.reset ∧ State.reset.mem = [] ∧ State.reset.ready = false ∧ State.reset.pending = [] ∧ (∀ c, (State.reset.ctx c).st = .empty) ∧
  (∀ x, (State.reset.obj x).st = .free) ∧ (∀ n, (State.reset.sem n).val = 0) ∧ (∀ p k, p < 16 → k < 12 → reg State.reset (0x92000 + 0x100 * p + 8 * k) = 2 ^ 64 - 1)
end

