-- ==== Sys2Proof/Laws/Issue.lean ====
section
/-!
SUPPORT. The issue of a Kwemal instruction whose words pass their checks: what is left is its body, on the state that atBody names.
-/

namespace Sys2Proof.Machine

theorem insOf_c (s : State) (c : Nat) : (insOf s c).c = c := rfl
theorem insOf_pc (s : State) (c : Nat) : (insOf s c).pc = (s.ctx c).pc := rfl
theorem insOf_opcode (s : State) (c : Nat) : (insOf s c).b.opcode = (decodeBase (planWord s c (s.ctx c).pc)).opcode := rfl

/-- An instruction with its handles held by the directory cache goes on to its body. -/
theorem issueOperands_body (s : State) (i : Ins) (body : Body)
    (hl : ¬(i.b.opcode = 0x14 ∧ (s.ctx i.c).ahead.any (fun a => a.slot = (s.ctx i.c).aslot && a.pc = i.pc) = true)) (hq : i.cqOk s = true)
    (ha : ¬((isAsync s i && 4096 ≤ (s.ctx i.c).live.length) = true ∨ (takesChan i && (pickChan s).isNone) = true)) (hh : ¬(64 ≤ heldOps s i.c))
    (hd : (named s i).find? (fun h => hIdx h ≠ 0 && !dirHeld s (hIdx h)) = none) :
    issueOperands s i body = body ((({ (((named s i).filter fun h => hIdx h ≠ 0).foldl
      (fun s' h => if (s.ctx i.c).filled.contains (hIdx h) then dirTouch s' (hIdx h) else dirHit s' (hIdx h)) s) with
        nextOp := (((named s i).filter fun h => hIdx h ≠ 0).foldl
      (fun s' h => if (s.ctx i.c).filled.contains (hIdx h) then dirTouch s' (hIdx h) else dirHit s' (hIdx h)) s).nextOp + 1 } : State).modCtx i.c fun v => { v with filled := [] }).cadd i.c 0 1) i (i.req s) := by
  unfold issueOperands
  simp only [Bool.or_eq_true] at *
  rw [if_neg (by simpa using hl), if_neg (by simp [hq]), if_neg (by simpa using ha), if_neg hh, hd]

/-- The instruction that atIssue names issues: its body runs on the state of atBody. -/
theorem issueIf_atIssue (s : State) (c op : Nat) (body : Body) (h : atIssue s c op = true) :
    issueIf s c (fun k => k = op) body = some (body (atBody s c) (insOf s c) (rqOf s c)) := by
  simp only [atIssue, Bool.and_eq_true, decide_eq_true_eq, List.isEmpty_iff, Bool.not_eq_true', List.all_eq_true, Bool.or_eq_true] at h
  obtain ⟨⟨⟨⟨⟨⟨⟨⟨⟨⟨⟨⟨h1, h2⟩, hc⟩, h3⟩, h4⟩, h5⟩, h6⟩, h7⟩, h8⟩, h9⟩, h10⟩, h11⟩, h12⟩ := h
  have hop : (decodeBase (planWord s c (s.ctx c).pc)).opcode = op := h3
  have hn : (icNeed s c).isSome = false := by simpa using hc
  unfold issueIf
  simp only [h1, h2, hn, hop, Bool.not_true, Bool.false_eq_true, if_false, decide_true, if_true]
  have hi : insAt s c (s.ctx c).pc = insOf s c := rfl
  unfold issueAt
  simp only [h4, h5, h6, hi, Bool.false_eq_true, if_false]
  rw [issueOperands_body s (insOf s c) body ?_ h8 ?_ ?_ ?_]
  · rfl
  · rw [h3, insOf_c, insOf_pc]
    rintro ⟨rfl, h⟩
    simp [h] at h7
  · rw [insOf_c]
    rintro (h | h)
    · simp [h] at h9
    · simp [h] at h10
  · rw [insOf_c]; omega
  · rw [List.find?_eq_none]
    intro x hx
    have := h12 x hx
    simp only [Bool.and_eq_true, Bool.not_eq_true', decide_eq_true_eq, ne_eq, not_and, Bool.not_eq_false]
    intro hne
    rcases this with h | h
    · exact absurd h hne
    · exact h

/-- A row of 03 whose instruction is at issue answers what its body gives, with all that it sets off. -/
theorem kwemal_atIssue (s : State) (c op : Nat) (body : Body) (h : atIssue s c op = true) :
    kwemal s c op body = .next (settle (boundary c (body (atBody s c) (insOf s c) (rqOf s c)))) := by
  unfold kwemal
  rw [issueIf_atIssue s c op body h]
  rfl

end Sys2Proof.Machine
end

