-- ==== Sys2Proof/Laws/Memory.lean ====
section
/-!
SUPPORT. Memory: a write reads back, leaves every other byte alone, and keeps the canonical form.
-/

namespace Sys2Proof.Machine

/-- The canonical form as one property of the list: addresses strictly rise and no cell holds what an unlisted address reads as. -/
theorem wf_iff (m : List Host.Cell) : Memory.wf m = true ↔ m.Pairwise (fun c d => c.1 < d.1) ∧ ∀ c ∈ m, c.2 ≠ memDefault := by
  induction m with
  | nil => simp [Memory.wf]
  | cons c r ih =>
    obtain ⟨i, v⟩ := c
    cases r with
    | nil => simp [Memory.wf]
    | cons d r =>
      obtain ⟨j, w⟩ := d
      simp only [Memory.wf, Bool.and_eq_true, decide_eq_true_eq, ih, List.pairwise_cons, List.mem_cons, forall_eq_or_imp]
      constructor
      · rintro ⟨⟨h1, h2⟩, ⟨h3, h4⟩, h5, h6⟩
        exact ⟨⟨⟨h2, fun c hc => Nat.lt_trans h2 (h3 c hc)⟩, h3, h4⟩, h1, h5, h6⟩
      · rintro ⟨⟨⟨h2, _⟩, h3, h4⟩, h1, h5, h6⟩
        exact ⟨⟨h1, h2⟩, ⟨h3, h4⟩, h5, h6⟩

theorem cellsOf_range (bs : List Byte) (a : Nat) : ∀ c ∈ cellsOf a bs, a ≤ c.1 ∧ c.1 < a + bs.length ∧ c.2 ≠ memDefault := by
  induction bs generalizing a with
  | nil => simp [cellsOf]
  | cons b r ih =>
    intro c hc
    unfold cellsOf at hc
    have key := ih (a + 1) c
    split at hc
    · have := key hc; simp only [List.length_cons]; exact ⟨by omega, by omega, this.2.2⟩
    · next hb =>
      rcases List.mem_cons.mp hc with rfl | hc
      · simp only [List.length_cons]; exact ⟨Nat.le_refl _, by omega, hb⟩
      · have := key hc; simp only [List.length_cons]; exact ⟨by omega, by omega, this.2.2⟩

theorem cellsOf_pairwise (bs : List Byte) (a : Nat) : (cellsOf a bs).Pairwise (fun c d => c.1 < d.1) := by
  induction bs generalizing a with
  | nil => simp [cellsOf]
  | cons b r ih =>
    unfold cellsOf
    split
    · exact ih _
    · refine List.pairwise_cons.mpr ⟨fun c hc => ?_, ih _⟩
      have := (cellsOf_range r (a + 1) c hc).1
      simp only; omega

/-- A write keeps the canonical form. -/
theorem wrBytes_wf (m : List Host.Cell) (a : Nat) (bs : List Byte) (h : Memory.wf m = true) : Memory.wf (wrBytes m a bs) = true := by
  rw [wf_iff] at *
  obtain ⟨hp, hd⟩ := h
  unfold wrBytes cellsBelow cellsFrom
  refine ⟨?_, ?_⟩
  · rw [List.pairwise_append, List.pairwise_append]
    refine ⟨⟨hp.filter _, cellsOf_pairwise _ _, ?_⟩, hp.filter _, ?_⟩
    · intro c hc d hd2
      have := (cellsOf_range _ _ _ hd2).1
      simp at hc; omega
    · intro c hc d hd2
      simp at hd2
      rcases List.mem_append.mp hc with hc | hc
      · simp at hc; omega
      · have := (cellsOf_range _ _ _ hc).2.1; omega
  · intro c hc
    rcases List.mem_append.mp hc with hc | hc
    · rcases List.mem_append.mp hc with hc | hc
      · exact hd _ (List.mem_filter.mp hc).1
      · exact (cellsOf_range _ _ _ hc).2.2
    · exact hd _ (List.mem_filter.mp hc).1

theorem wrZero_wf (m : List Host.Cell) (a n : Nat) (h : Memory.wf m = true) : Memory.wf (wrZero m a n) = true := by
  rw [wf_iff] at *
  obtain ⟨hp, hd⟩ := h
  unfold wrZero cellsBelow cellsFrom
  refine ⟨?_, ?_⟩
  · rw [List.pairwise_append]
    refine ⟨hp.filter _, hp.filter _, ?_⟩
    intro c hc d hd2
    simp at hc hd2; omega
  · intro c hc
    rcases List.mem_append.mp hc with hc | hc <;> exact hd _ (List.mem_filter.mp hc).1

theorem cpBytes_wf (m : List Host.Cell) (a b n : Nat) (h : Memory.wf m = true) : Memory.wf (cpBytes m a b n) = true := by
  rw [wf_iff] at *
  obtain ⟨hp, hd⟩ := h
  unfold cpBytes cellsBelow cellsFrom
  have hmid : ∀ c ∈ ((m.filter fun c => a ≤ c.1).filter fun c => c.1 < a + n).map (fun c => (c.1 - a + b, c.2)), b ≤ c.1 ∧ c.1 < b + n ∧ c.2 ≠ memDefault := by
    intro c hc
    simp only [List.mem_map, List.mem_filter, decide_eq_true_eq] at hc
    obtain ⟨e, ⟨⟨he, h1⟩, h2⟩, rfl⟩ := hc
    exact ⟨by simp only; omega, by simp only; omega, hd e he⟩
  refine ⟨?_, ?_⟩
  · rw [List.pairwise_append, List.pairwise_append]
    refine ⟨⟨hp.filter _, ?_, ?_⟩, hp.filter _, ?_⟩
    · rw [List.pairwise_map]
      refine List.Pairwise.imp_of_mem ?_ ((hp.filter (fun c : Host.Cell => decide (a ≤ c.1))).filter (fun c : Host.Cell => decide (c.1 < a + n)))
      intro c d hc hd2 hlt
      simp at hc hd2; simp only; omega
    · intro c hc d hd2
      have := (hmid _ hd2).1
      simp at hc; omega
    · intro c hc d hd2
      simp at hd2
      rcases List.mem_append.mp hc with hc | hc
      · simp at hc; omega
      · have := (hmid _ hc).2.1; omega
  · intro c hc
    rcases List.mem_append.mp hc with hc | hc
    · rcases List.mem_append.mp hc with hc | hc
      · exact hd _ (List.mem_filter.mp hc).1
      · exact (hmid _ hc).2.2
    · exact hd _ (List.mem_filter.mp hc).1

theorem rdByte_append (l r : List Host.Cell) (x : Nat) : rdByte (l ++ r) x = if l.any (fun c => c.1 = x) then rdByte l x else rdByte r x := by
  induction l with
  | nil => simp
  | cons c l ih =>
    obtain ⟨i, v⟩ := c
    by_cases h : i = x <;> simp [rdByte, h, ih]

theorem rdByte_none (l : List Host.Cell) (x : Nat) (h : ∀ c ∈ l, c.1 ≠ x) : rdByte l x = memDefault := by
  induction l with
  | nil => rfl
  | cons c l ih =>
    obtain ⟨i, v⟩ := c
    simp only [List.mem_cons, forall_eq_or_imp] at h
    simp [rdByte, h.1, ih h.2]

theorem rdByte_filter (l : List Host.Cell) (p : Nat → Bool) (x : Nat) (h : p x = true) : rdByte (l.filter fun c => p c.1) x = rdByte l x := by
  induction l with
  | nil => rfl
  | cons c l ih =>
    obtain ⟨i, v⟩ := c
    by_cases hi : i = x
    · subst hi; simp [rdByte, h]
    · by_cases hp : p i <;> simp [rdByte, hi, hp, ih]

theorem rdByte_cellsOf (bs : List Byte) (a x : Nat) (h : a ≤ x) : rdByte (cellsOf a bs) x = bs.getD (x - a) memDefault := by
  induction bs generalizing a with
  | nil => simp [cellsOf, rdByte]
  | cons b r ih =>
    unfold cellsOf
    by_cases hx : x = a
    · subst hx
      split
      · next hb =>
        rw [rdByte_none]
        · simp [hb]
        · intro c hc; have := (cellsOf_range _ _ _ hc).1; omega
      · simp [rdByte]
    · have e : x - a = (x - (a + 1)) + 1 := by omega
      rw [e]
      split
      · rw [ih (a + 1) (by omega)]; simp
      · simp only [rdByte, Ne.symm hx, if_false]; rw [ih (a + 1) (by omega)]; simp

/-- Every byte after a write: the written one inside the range, the old one outside. -/
theorem rdByte_wrBytes (m : List Host.Cell) (a : Nat) (bs : List Byte) (x : Nat) :
    rdByte (wrBytes m a bs) x = if a ≤ x ∧ x < a + bs.length then bs.getD (x - a) memDefault else rdByte m x := by
  unfold wrBytes
  have hb : ∀ c ∈ cellsBelow m a, c.1 < a := by intro c hc; simpa using (List.mem_filter.mp hc).2
  have hf : ∀ c ∈ cellsFrom m (a + bs.length), a + bs.length ≤ c.1 := by intro c hc; simpa using (List.mem_filter.mp hc).2
  rw [List.append_assoc, rdByte_append, rdByte_append]
  by_cases h1 : x < a
  · have : ¬(a ≤ x ∧ x < a + bs.length) := by omega
    simp only [this, if_false]
    split
    · exact rdByte_filter m (fun i => decide (i < a)) x (by simpa using h1)
    · next hn =>
      have hm : rdByte m x = memDefault := by
        rw [← rdByte_filter m (fun i => decide (i < a)) x (by simpa using h1)]
        exact rdByte_none _ _ fun c hc he => hn (List.any_eq_true.mpr ⟨c, hc, by simp [he]⟩)
      rw [hm]
      split
      · exact rdByte_none _ _ fun c hc => by have := (cellsOf_range _ _ _ hc).1; omega
      · exact rdByte_none _ _ fun c hc => by have := hf _ hc; omega
  · have hn : (cellsBelow m a).any (fun c => c.1 = x) = false := by
      simp only [List.any_eq_false, decide_eq_true_eq]
      intro c hc; have := hb _ hc; omega
    rw [hn]
    simp only [Bool.false_eq_true, if_false]
    by_cases h2 : x < a + bs.length
    · have : a ≤ x ∧ x < a + bs.length := by omega
      simp only [this, and_self, if_true]
      rw [← rdByte_cellsOf bs a x (by omega)]
      split
      · rfl
      · next hn2 =>
        rw [rdByte_none _ _ fun c hc => by have := hf _ hc; omega]
        exact (rdByte_none _ _ fun c hc he => hn2 (List.any_eq_true.mpr ⟨c, hc, by simp [he]⟩)).symm
    · have h3 : ¬(a ≤ x ∧ x < a + bs.length) := by omega
      simp only [h3, if_false]
      have : (cellsOf a bs).any (fun c => c.1 = x) = false := by
        simp only [List.any_eq_false, decide_eq_true_eq]
        intro c hc; have := (cellsOf_range _ _ _ hc).2.1; omega
      rw [this]
      simp only [Bool.false_eq_true, if_false]
      exact rdByte_filter m (fun i => decide (a + bs.length ≤ i)) x (by simp; omega)

/-- What was written reads back. -/
theorem rdBytes_wrBytes (m : List Host.Cell) (a : Nat) (bs : List Byte) : rdBytes (wrBytes m a bs) a bs.length = bs := by
  have key : ∀ (n k : Nat) (l : List Byte), k + n = bs.length → l = bs.drop k → rdBytes (wrBytes m a bs) (a + k) n = l := by
    intro n
    induction n with
    | zero => intro k l hk hl; subst hl; simp [rdBytes, show bs.length ≤ k by omega]
    | succ n ih =>
      intro k l hk hl
      have hk2 : k < bs.length := by omega
      rw [rdBytes, rdByte_wrBytes, if_pos (by omega), show a + k - a = k by omega, show a + k + 1 = a + (k + 1) by omega, ih (k + 1) (bs.drop (k + 1)) (by omega) rfl, hl,
        List.drop_eq_getElem_cons hk2]
      simp [List.getD_eq_getElem?_getD, hk2]
  simpa using key bs.length 0 bs (by omega) (by simp)

/-- A store through State: the bytes of every other address are unchanged. -/
theorem rdByte_store (s : State) (a : Nat) (bs : List Byte) (x : Nat) :
    rdByte (s.store a bs).mem x = if a ≤ x ∧ x < a + bs.length then bs.getD (x - a) memDefault else rdByte s.mem x :=
  rdByte_wrBytes s.mem a bs x

end Sys2Proof.Machine
end

