-- ==== Sys2Proof/Laws/Peers.lean ====
section
/-!
SUPPORT. Peer packets: what the header's checks leave of a packet that passes them (R250, R252).
-/

namespace Sys2Proof.Machine

/-- A packet that is taken goes on to its own effect on the state that headed names. -/
theorem receive_ok (s : State) (h : Hdr) (typ bytes p : Nat) (f : State → Nat → State) (hp : packetOk s h typ p = true) : receive s h typ bytes f = f (headed s h typ bytes p) p := by
  unfold packetOk at hp
  simp only [Bool.and_eq_true, decide_eq_true_eq] at hp
  obtain ⟨⟨⟨⟨⟨_, hc⟩, hk⟩, ht⟩, hd⟩, hcls⟩ := hp
  unfold receive headed
  have e1 : tagPart ((s.gadd 0x248 1).gadd 0x160 (pktBytes bytes)) h.jobtag.toNat = some p := ht
  have e2 : h.dst.toNat = myCarrier ((s.gadd 0x248 1).gadd 0x160 (pktBytes bytes)) p := hd
  simp only [hc, hk, e1, ← e2, Bool.not_true, Bool.false_eq_true, if_false, ne_eq, not_true_eq_false]
  rw [if_neg]
  split at hcls <;> rename_i hle <;> simp only [hle, if_true, if_false]
  · intro hh
    simp only [Bool.and_eq_true, decide_eq_true_eq, Bool.or_eq_true] at hcls
    rcases hh with hh | ⟨hh, h3⟩
    · exact hcls.1 hh
    · rcases hcls.2 with h4 | h4
      · exact h4 hh
      · exact h3 h4
  · intro hh; exact hh (by simpa using hcls)

/-- A sequenced packet that comes in its turn goes on to its own effect on the state that taken names. -/
theorem sequenced_ok (s : State) (h : Hdr) (typ bytes p : Nat) (f : State → Nat → State) (hp : packetOk s h typ p = true) (ht : inTurn s h typ bytes p = true) :
    sequenced s h typ bytes f = f (taken s h typ bytes p) p := by
  unfold sequenced
  rw [receive_ok s h typ bytes p _ hp]
  unfold inTurn at ht
  simp only [Bool.and_eq_true, decide_eq_true_eq, Bool.not_eq_true', Bool.and_eq_false_iff, decide_eq_false_iff_not] at ht
  obtain ⟨⟨h1, h2⟩, h3⟩ := ht
  simp only [h1, if_false, h2, if_true]
  rw [if_neg]
  · unfold taken; simp only [h2]
  · rintro ⟨h4, h5⟩; rcases h3 with h3 | h3
    · exact h3 h4
    · rw [h5] at h3; exact absurd h3 (by simp)

end Sys2Proof.Machine
end

