-- ==== Sys2Proof/Laws/Protect.lean ====
section
/-!
SUPPORT. Lemmas about the protected form (R318).
-/

namespace Sys2Proof.Machine

/-- What is encrypted decrypts to itself. -/
theorem gcmMix_gcmMix (k : BitVec 256) (iv x : Nat) : gcmMix k iv (gcmMix k iv x) = x := by
  unfold gcmMix
  rw [Nat.xor_assoc, Nat.xor_self, Nat.xor_zero]

end Sys2Proof.Machine
end

