-- ==== Sys2Proof/Laws/Records.lean ====
section
/-!
SUPPORT. What a record, an event and a trace can do to the state, said once: they write memory, queues, counters, the requests of the contexts and partitions they belong to, and
leave follow-up work; every other part of the state stays as it is.
-/

namespace Sys2Proof.Machine

/-- `t` differs from `s` only in what records, events and traces write. -/
structure Noted (s t : State) : Prop where
  eq : t = { s with mem := t.mem, cqs := t.cqs, cqInt := t.cqInt, pend := t.pend, cnts := t.cnts, gcnt := t.gcnt, parts := t.parts, evqs := t.evqs, evInt := t.evInt,
                    hostl := t.hostl, ctxs := t.ctxs, clus := t.clus, work := t.work, evNew := t.evNew, vecDue := t.vecDue }

theorem Noted.refl (s : State) : Noted s s := ⟨rfl⟩

theorem Noted.trans {s t u : State} (h1 : Noted s t) (h2 : Noted t u) : Noted s u :=
  ⟨h2.eq.trans (congrArg (fun x : State => { x with
    mem := u.mem, cqs := u.cqs, cqInt := u.cqInt, pend := u.pend, cnts := u.cnts, gcnt := u.gcnt, parts := u.parts, evqs := u.evqs, evInt := u.evInt, hostl := u.hostl,
    ctxs := u.ctxs, clus := u.clus, work := u.work, evNew := u.evNew, vecDue := u.vecDue }) h1.eq)⟩

/-- A branch that may leave the state alone. -/
theorem Noted.ite {b : Prop} [Decidable b] {s t u : State} (h1 : Noted s t) (h2 : Noted s u) : Noted s (if b then t else u) := by
  split
  · exact h1
  · exact h2

theorem Noted.objs {s t : State} (h : Noted s t) : t.objs = s.objs := by rw [h.eq]
theorem Noted.ops {s t : State} (h : Noted s t) : t.ops = s.ops := by rw [h.eq]
theorem Noted.sems {s t : State} (h : Noted s t) : t.sems = s.sems := by rw [h.eq]
theorem Noted.rings {s t : State} (h : Noted s t) : t.rings = s.rings := by rw [h.eq]
theorem Noted.slots {s t : State} (h : Noted s t) : t.slots = s.slots := by rw [h.eq]
theorem Noted.cfg {s t : State} (h : Noted s t) : t.cfg = s.cfg := by rw [h.eq]
theorem Noted.now {s t : State} (h : Noted s t) : t.now = s.now := by rw [h.eq]
theorem Noted.pending {s t : State} (h : Noted s t) : t.pending = s.pending := by rw [h.eq]
theorem Noted.chans {s t : State} (h : Noted s t) : t.chans = s.chans := by rw [h.eq]
theorem Noted.tags {s t : State} (h : Noted s t) : t.tags = s.tags := by rw [h.eq]
theorem Noted.fw {s t : State} (h : Noted s t) : t.fw = s.fw := by rw [h.eq]
theorem Noted.lc {s t : State} (h : Noted s t) : t.lc = s.lc := by rw [h.eq]

theorem noted_modCtx (s : State) (c : Nat) (f : Ctx → Ctx) : Noted s (s.modCtx c f) := ⟨rfl⟩
theorem noted_modPart (s : State) (p : Nat) (f : Part → Part) : Noted s (s.modPart p f) := ⟨rfl⟩
theorem noted_todo (s : State) (w : Work) : Noted s (s.todo w) := ⟨rfl⟩
theorem noted_cadd (s : State) (c off n : Nat) : Noted s (s.cadd c off n) := ⟨rfl⟩
theorem noted_gadd (s : State) (off n : Nat) : Noted s (s.gadd off n) := ⟨rfl⟩
theorem noted_store (s : State) (a : Nat) (bs : List Byte) : Noted s (s.store a bs) := ⟨rfl⟩
theorem noted_setEvq (s : State) (q : Nat) (v : EvQ) : Noted s (s.setEvq q v) := ⟨rfl⟩
theorem noted_setCq (s : State) (q : Nat) (v : Cq) : Noted s (s.setCq q v) := ⟨rfl⟩
theorem noted_storeP (s : State) (p a : Nat) (bs : List Byte) : Noted s (s.storeP p a bs) := by
  unfold State.storeP; exact noted_store _ _ _

theorem noted_setCluster (s : State) (k : Nat) (v : Clus) : Noted s (s.setCluster k v) := ⟨rfl⟩
theorem noted_askPage (s : State) (p off : Nat) : Noted s (askPage s p off) := by
  unfold askPage
  dsimp only
  split <;> exact ⟨rfl⟩
theorem noted_dropHostLines (s : State) (p off len : Nat) : Noted s (dropHostLines s p off len) := ⟨rfl⟩

theorem noted_queueIO (s : State) (p a len x : Nat) : Noted s (queueIO s p a len x) := by
  unfold queueIO
  have h : ∀ (t : State) (o : Option Nat), Noted t (match o with
      | some n => (t.gadd (0x10 * n + 8) len).gadd (0x10 * n) 64
      | none => t) := fun t o => by cases o <;> exact ⟨rfl⟩
  dsimp only
  refine Noted.trans ?_ (h _ _)
  split
  · refine Noted.trans ?_ (noted_dropHostLines _ _ _ _)
    exact Noted.ite (Noted.refl _) (noted_askPage _ _ _)
  · exact Noted.refl _

theorem noted_vecIsDue (s : State) (d : VecDue) : Noted s (vecIsDue s d) := ⟨rfl⟩

theorem noted_signalVec (s : State) (d : VecDue) : Noted s (signalVec s d) := by
  unfold signalVec; repeat' split
  all_goals exact ⟨rfl⟩

/-- A fold of steps that note something notes something. -/
theorem noted_foldl {α : Type} (f : State → α → State) (hf : ∀ s a, Noted s (f s a)) (l : List α) (s : State) : Noted s (l.foldl f s) := by
  induction l generalizing s with
  | nil => exact Noted.refl s
  | cons a l ih => exact (hf s a).trans (ih _)

theorem noted_evPut (s : State) (q r : Nat) : Noted s (evPut s q r) := by
  unfold evPut
  have h1 : ∀ a, Noted s (queueIO (if q < 16 then s.storeP q a (leBytes 32 r) else s.store a (leBytes 32 r)) q a 32 0) := fun a =>
    Noted.trans (by split; exact noted_storeP _ _ _ _; exact noted_store _ _ _) (noted_queueIO _ _ _ _ _)
  have h2 : ∀ (t : State) v d, Noted t (vecIsDue { t with evInt := v } d) := fun _ _ _ => ⟨rfl⟩
  dsimp only
  split
  · exact ((h1 _).trans (noted_setEvq _ _ _)).trans (h2 _ _ _)
  · exact (h1 _).trans (noted_setEvq _ _ _)

theorem noted_evPost (s : State) (q r : Nat) : Noted s (evPost s q r) := by
  unfold evPost
  dsimp only
  split
  · exact noted_evPut _ _ _
  · split <;> exact noted_setEvq _ _ _

/-- An event raised; posting it at the end of the step; and the vectors. -/
theorem noted_raiseAs (s : State) (q kind id sample : Nat) (codes : List (Nat × Nat)) : Noted s (raiseAs s q kind id sample codes) := ⟨rfl⟩
theorem noted_raiseEv (s : State) (q kind id : Nat) (codes : List (Nat × Nat)) : Noted s (raiseEv s q kind id codes) := ⟨rfl⟩
theorem noted_flushVecs (s : State) : Noted s (flushVecs s) := by
  unfold flushVecs
  split
  · exact Noted.refl s
  · exact Noted.trans ⟨rfl⟩ (noted_foldl _ noted_signalVec _ _)
theorem noted_flushEvs (s : State) : Noted s (flushEvs s) :=
  (Noted.trans ⟨rfl⟩ (noted_foldl _ (fun _ _ => noted_evPost _ _ _) _ _)).trans (noted_flushVecs _)

/-- Nothing waits to be posted or sent once a step is settled: posting raises no event, and sending makes no vector due. -/
theorem askPage_evNew (s : State) (p off : Nat) : (askPage s p off).evNew = s.evNew := by
  unfold askPage
  dsimp only
  split <;> rfl

theorem queueIO_evNew (s : State) (p a len x : Nat) : (queueIO s p a len x).evNew = s.evNew := by
  unfold queueIO
  have h : ∀ (t : State) (o : Option Nat), (match o with
      | some n => (t.gadd (0x10 * n + 8) len).gadd (0x10 * n) 64
      | none => t).evNew = t.evNew := fun t o => by cases o <;> rfl
  dsimp only
  refine (h _ _).trans ?_
  split
  · refine Eq.trans (b := State.evNew _) rfl ?_
    split
    · rfl
    · exact askPage_evNew _ _ _
  · rfl

theorem evPut_evNew (s : State) (q r : Nat) : (evPut s q r).evNew = s.evNew := by
  unfold evPut
  have h1 : ∀ a, (queueIO (if q < 16 then s.storeP q a (leBytes 32 r) else s.store a (leBytes 32 r)) q a 32 0).evNew = s.evNew := fun a =>
    (queueIO_evNew _ _ _ _ _).trans (by split <;> rfl)
  have h2 : ∀ (t : State) k v, (t.setEvq k v).evNew = t.evNew := fun _ _ _ => rfl
  have h3 : ∀ (t : State) v d, (vecIsDue { t with evInt := v } d).evNew = t.evNew := fun _ _ _ => rfl
  dsimp only
  split
  · exact (h3 _ _ _).trans ((h2 _ _ _).trans (h1 _))
  · exact (h2 _ _ _).trans (h1 _)

theorem evPost_evNew (s : State) (q r : Nat) : (evPost s q r).evNew = s.evNew := by
  unfold evPost
  dsimp only
  split
  · exact evPut_evNew _ _ _
  · split <;> rfl

theorem signalVec_due (s : State) (d : VecDue) : (signalVec s d).evNew = s.evNew ∧ (signalVec s d).vecDue = s.vecDue := by
  unfold signalVec
  repeat' split
  all_goals exact ⟨rfl, rfl⟩

theorem foldl_evPost_evNew {α : Type} (f : State → α → State) (hf : ∀ s a, (f s a).evNew = s.evNew) (l : List α) (s : State) : (l.foldl f s).evNew = s.evNew := by
  induction l generalizing s with
  | nil => rfl
  | cons a l ih => exact (ih _).trans (hf s a)

theorem foldl_signalVec_due (l : List VecDue) (s : State) : (l.foldl signalVec s).evNew = s.evNew ∧ (l.foldl signalVec s).vecDue = s.vecDue := by
  induction l generalizing s with
  | nil => exact ⟨rfl, rfl⟩
  | cons a l ih => exact ⟨(ih _).1.trans (signalVec_due s a).1, (ih _).2.trans (signalVec_due s a).2⟩

theorem flushVecs_due (s : State) : (flushVecs s).evNew = s.evNew ∧ (flushVecs s).vecDue = [] := by
  unfold flushVecs
  split
  · exact ⟨rfl, ‹_›⟩
  · exact foldl_signalVec_due _ _

theorem flushEvs_done (s : State) : (flushEvs s).evNew = [] ∧ (flushEvs s).vecDue = [] := by
  unfold flushEvs
  exact ⟨(flushVecs_due _).1.trans (foldl_evPost_evNew _ (fun _ _ => evPost_evNew _ _ _) _ _), (flushVecs_due _).2⟩

theorem noted_deny (s : State) (p kind id a : Nat) : Noted s (deny s p kind id a) := (noted_modPart s p _).trans (noted_raiseEv _ _ _ _ _)

/-- A trace record. -/
theorem noted_trace (s : State) (p en kind : Nat) (who by_ : Party) (obj by2 arg : Nat) : Noted s (trace s p en kind who by_ obj by2 arg) := by
  unfold trace
  dsimp only
  split
  · exact Noted.refl s
  · split
    · exact ((noted_storeP _ _ _ _).trans (noted_queueIO _ _ _ _ _)).trans (noted_modPart _ _ _)
    · exact noted_modPart _ _ _

theorem noted_movAdd (s : State) (p i n : Nat) : Noted s (movAdd s p i n) := ⟨rfl⟩
theorem noted_dlAdd (s : State) (p i : Nat) : Noted s (dlAdd s p i) := ⟨rfl⟩

theorem noted_follow (s : State) (r : Pend) : Noted s (follow s r) := by
  unfold follow
  dsimp only
  repeat' split
  all_goals exact ⟨rfl⟩

theorem noted_scopeCheck (s : State) (who : Party) : Noted s (scopeCheck s who) := by
  unfold scopeCheck; split <;> exact ⟨rfl⟩

theorem noted_landed (s : State) (r : Pend) : Noted s (landed s r) := by
  unfold landed; split <;> exact ⟨rfl⟩

theorem noted_cqInt (s : State) (l : List Nat) : Noted s { s with cqInt := l } := ⟨rfl⟩

theorem noted_cqPut (s : State) (r : Pend) : Noted s (cqPut s r) := by
  unfold cqPut
  have h : ∀ (t : State) (o : Option Nat), Noted t (match o with
      | some ch => t.setCluster (ch / 32) { t.cluster (ch / 32) with since := t.now }
      | none => t) := fun t o => by cases o <;> exact ⟨rfl⟩
  dsimp only
  refine Noted.trans ?_ (noted_follow _ _)
  split
  · exact ((((((noted_storeP _ _ _ _).trans (noted_queueIO _ _ _ _ _)).trans (h _ r.chan)).trans (noted_setCq _ _ _)).trans (noted_cqInt _ _))).trans (noted_vecIsDue _ _)
  · exact (((noted_storeP _ _ _ _).trans (noted_queueIO _ _ _ _ _)).trans (h _ r.chan)).trans (noted_setCq _ _ _)

theorem noted_cqEnter (s : State) (r : Pend) : Noted s (cqEnter s r) := by
  unfold cqEnter
  refine (noted_landed _ _).trans (Noted.ite (Noted.refl _) ?_)
  exact (noted_setCq _ _ _).trans ((noted_movAdd _ _ _ _).trans (noted_raiseEv _ _ _ _ _))

/-- A completion record posted. -/
theorem noted_cqPost (s : State) (r : Pend) : Noted s (cqPost s r) := by
  unfold cqPost
  have h : ∀ (t : State) (l : List Pend), Noted t { t with pend := l } := fun _ _ => ⟨rfl⟩
  dsimp only
  split
  · refine Noted.trans (Noted.trans ?_ ((noted_movAdd _ _ _ _).trans (noted_raiseEv _ _ _ _ _))) ((noted_landed _ _).trans ((noted_follow _ _).trans (noted_scopeCheck _ _)))
    split
    · exact Noted.ite (noted_deny _ _ _ _ _) (Noted.refl s)
    · exact Noted.refl s
  · split
    · exact Noted.ite ((noted_landed _ _).trans (h _ _)) (Noted.ite ((noted_cqEnter _ _).trans (h _ _)) (h _ _))
    · exact (noted_landed _ _).trans ((noted_cqPut _ _).trans (noted_scopeCheck _ _))

theorem noted_countDone (s : State) (r : Req) (status : Nat) (late : Bool) : Noted s (countDone s r status late) := by
  unfold countDone
  split
  · have hi : ∀ (b : Prop) [Decidable b] (t u : State), Noted t u → Noted t (if b then u else t) := fun b _ t u h => by
      split
      · exact h
      · exact Noted.refl _
    dsimp only
    refine Noted.trans ?_ (hi _ _ _ (noted_raiseAs _ _ _ _ _ _))
    refine Noted.trans ?_ (hi _ _ _ (noted_movAdd _ _ _ _))
    refine Noted.trans ?_ (hi _ _ _ ((noted_cadd _ _ _ _).trans (noted_dlAdd _ _ _)))
    refine Noted.trans ?_ (hi _ _ _ (noted_dlAdd _ _ _))
    refine Noted.trans ?_ (hi _ _ _ (noted_cadd _ _ _ _))
    refine Noted.trans ?_ (hi _ _ _ (noted_cadd _ _ _ _))
    refine Noted.trans ?_ (hi _ _ _ (noted_cadd _ _ _ _))
    refine Noted.trans ?_ (hi _ _ _ (noted_cadd _ _ _ _))
    exact noted_cadd _ _ _ _
  · exact Noted.refl s

theorem noted_noteFail (s : State) (r : Req) (x : Res) (status : Nat) : Noted s (noteFail s r x status) := by
  unfold noteFail
  repeat' split
  all_goals exact ⟨rfl⟩

/-- Everything that a completion of a request can do. -/
theorem noted_complete (s : State) (r : Req) (x : Res) (async : Bool) : Noted s (complete s r x async) := by
  unfold complete
  dsimp only
  split
  · exact ((noted_countDone _ _ _ _).trans (noted_noteFail _ _ _ _)).trans ((noted_landed _ _).trans (noted_scopeCheck _ _))
  · exact ((noted_countDone _ _ _ _).trans (noted_noteFail _ _ _ _)).trans (noted_cqPost _ _)

/-- A command record. -/
theorem noted_cmdRecord (s : State) (c : Nat) (k : Cmd) (status plan extra : Nat) : Noted s (cmdRecord s c k status plan extra) := by
  unfold cmdRecord
  exact (noted_modCtx _ _ _).trans (noted_cqPost _ _)

end Sys2Proof.Machine
end

