-- ==== Sys2Proof/Laws/State.lean ====
section
/-!
SUPPORT. One lemma per field per named update of State: an update changes its own table and leaves the fields below as they are.
-/

namespace Sys2Proof.Machine

variable (s : State) (x y n : Nat)


@[simp] theorem setObj_pending (v) : (s.setObj x v).pending = s.pending := rfl
@[simp] theorem setObj_work (v) : (s.setObj x v).work = s.work := rfl
@[simp] theorem setObj_free (v) : (s.setObj x v).free = s.free := rfl
@[simp] theorem setObj_now (v) : (s.setObj x v).now = s.now := rfl
@[simp] theorem setObj_mem (v) : (s.setObj x v).mem = s.mem := rfl
@[simp] theorem setObj_cfg (v) : (s.setObj x v).cfg = s.cfg := rfl
@[simp] theorem setObj_inForce (v) : (s.setObj x v).inForce = s.inForce := rfl
@[simp] theorem setObj_ready (v) : (s.setObj x v).ready = s.ready := rfl
@[simp] theorem setObj_droopLow (v) : (s.setObj x v).droopLow = s.droopLow := rfl
@[simp] theorem setObj_dir (v) : (s.setObj x v).dir = s.dir := rfl
@[simp] theorem setObj_ctxs (v) : (s.setObj x v).ctxs = s.ctxs := rfl
@[simp] theorem setObj_seqs (v) : (s.setObj x v).seqs = s.seqs := rfl
@[simp] theorem setObj_icache (v) : (s.setObj x v).icache = s.icache := rfl
@[simp] theorem setObj_parts (v) : (s.setObj x v).parts = s.parts := rfl
@[simp] theorem setObj_ops (v) : (s.setObj x v).ops = s.ops := rfl
@[simp] theorem setObj_nextOp (v) : (s.setObj x v).nextOp = s.nextOp := rfl
@[simp] theorem setObj_tags (v) : (s.setObj x v).tags = s.tags := rfl
@[simp] theorem setObj_cqs (v) : (s.setObj x v).cqs = s.cqs := rfl
@[simp] theorem setObj_pend (v) : (s.setObj x v).pend = s.pend := rfl
@[simp] theorem setObj_chans (v) : (s.setObj x v).chans = s.chans := rfl
@[simp] theorem setObj_lines (v) : (s.setObj x v).lines = s.lines := rfl
@[simp] theorem setObj_clus (v) : (s.setObj x v).clus = s.clus := rfl
@[simp] theorem setObj_sems (v) : (s.setObj x v).sems = s.sems := rfl
@[simp] theorem setObj_rings (v) : (s.setObj x v).rings = s.rings := rfl
@[simp] theorem setObj_streams (v) : (s.setObj x v).streams = s.streams := rfl
@[simp] theorem setObj_peers (v) : (s.setObj x v).peers = s.peers := rfl
@[simp] theorem setObj_txq (v) : (s.setObj x v).txq = s.txq := rfl
@[simp] theorem setObj_rdv (v) : (s.setObj x v).rdv = s.rdv := rfl
@[simp] theorem setObj_slots (v) : (s.setObj x v).slots = s.slots := rfl
@[simp] theorem setObj_ports (v) : (s.setObj x v).ports = s.ports := rfl
@[simp] theorem setObj_cnts (v) : (s.setObj x v).cnts = s.cnts := rfl
@[simp] theorem setObj_gcnt (v) : (s.setObj x v).gcnt = s.gcnt := rfl
@[simp] theorem setObj_hostl (v) : (s.setObj x v).hostl = s.hostl := rfl
@[simp] theorem setObj_fw (v) : (s.setObj x v).fw = s.fw := rfl
@[simp] theorem setObj_lc (v) : (s.setObj x v).lc = s.lc := rfl
@[simp] theorem setObj_bist (v) : (s.setObj x v).bist = s.bist := rfl
@[simp] theorem setObj_evqs (v) : (s.setObj x v).evqs = s.evqs := rfl
@[simp] theorem setObj_evInt (v) : (s.setObj x v).evInt = s.evInt := rfl
@[simp] theorem setObj_evNew (v) : (s.setObj x v).evNew = s.evNew := rfl
@[simp] theorem setObj_vecDue (v) : (s.setObj x v).vecDue = s.vecDue := rfl
@[simp] theorem setObj_taps (v) : (s.setObj x v).taps = s.taps := rfl

@[simp] theorem modObj_pending (v) : (s.modObj x v).pending = s.pending := rfl
@[simp] theorem modObj_work (v) : (s.modObj x v).work = s.work := rfl
@[simp] theorem modObj_free (v) : (s.modObj x v).free = s.free := rfl
@[simp] theorem modObj_now (v) : (s.modObj x v).now = s.now := rfl
@[simp] theorem modObj_mem (v) : (s.modObj x v).mem = s.mem := rfl
@[simp] theorem modObj_cfg (v) : (s.modObj x v).cfg = s.cfg := rfl
@[simp] theorem modObj_inForce (v) : (s.modObj x v).inForce = s.inForce := rfl
@[simp] theorem modObj_ready (v) : (s.modObj x v).ready = s.ready := rfl
@[simp] theorem modObj_droopLow (v) : (s.modObj x v).droopLow = s.droopLow := rfl
@[simp] theorem modObj_dir (v) : (s.modObj x v).dir = s.dir := rfl
@[simp] theorem modObj_ctxs (v) : (s.modObj x v).ctxs = s.ctxs := rfl
@[simp] theorem modObj_seqs (v) : (s.modObj x v).seqs = s.seqs := rfl
@[simp] theorem modObj_icache (v) : (s.modObj x v).icache = s.icache := rfl
@[simp] theorem modObj_parts (v) : (s.modObj x v).parts = s.parts := rfl
@[simp] theorem modObj_ops (v) : (s.modObj x v).ops = s.ops := rfl
@[simp] theorem modObj_nextOp (v) : (s.modObj x v).nextOp = s.nextOp := rfl
@[simp] theorem modObj_tags (v) : (s.modObj x v).tags = s.tags := rfl
@[simp] theorem modObj_cqs (v) : (s.modObj x v).cqs = s.cqs := rfl
@[simp] theorem modObj_pend (v) : (s.modObj x v).pend = s.pend := rfl
@[simp] theorem modObj_chans (v) : (s.modObj x v).chans = s.chans := rfl
@[simp] theorem modObj_lines (v) : (s.modObj x v).lines = s.lines := rfl
@[simp] theorem modObj_clus (v) : (s.modObj x v).clus = s.clus := rfl
@[simp] theorem modObj_sems (v) : (s.modObj x v).sems = s.sems := rfl
@[simp] theorem modObj_rings (v) : (s.modObj x v).rings = s.rings := rfl
@[simp] theorem modObj_streams (v) : (s.modObj x v).streams = s.streams := rfl
@[simp] theorem modObj_peers (v) : (s.modObj x v).peers = s.peers := rfl
@[simp] theorem modObj_txq (v) : (s.modObj x v).txq = s.txq := rfl
@[simp] theorem modObj_rdv (v) : (s.modObj x v).rdv = s.rdv := rfl
@[simp] theorem modObj_slots (v) : (s.modObj x v).slots = s.slots := rfl
@[simp] theorem modObj_ports (v) : (s.modObj x v).ports = s.ports := rfl
@[simp] theorem modObj_cnts (v) : (s.modObj x v).cnts = s.cnts := rfl
@[simp] theorem modObj_gcnt (v) : (s.modObj x v).gcnt = s.gcnt := rfl
@[simp] theorem modObj_hostl (v) : (s.modObj x v).hostl = s.hostl := rfl
@[simp] theorem modObj_fw (v) : (s.modObj x v).fw = s.fw := rfl
@[simp] theorem modObj_lc (v) : (s.modObj x v).lc = s.lc := rfl
@[simp] theorem modObj_bist (v) : (s.modObj x v).bist = s.bist := rfl
@[simp] theorem modObj_evqs (v) : (s.modObj x v).evqs = s.evqs := rfl
@[simp] theorem modObj_evInt (v) : (s.modObj x v).evInt = s.evInt := rfl
@[simp] theorem modObj_evNew (v) : (s.modObj x v).evNew = s.evNew := rfl
@[simp] theorem modObj_vecDue (v) : (s.modObj x v).vecDue = s.vecDue := rfl
@[simp] theorem modObj_taps (v) : (s.modObj x v).taps = s.taps := rfl

@[simp] theorem setCtx_pending (v) : (s.setCtx x v).pending = s.pending := rfl
@[simp] theorem setCtx_work (v) : (s.setCtx x v).work = s.work := rfl
@[simp] theorem setCtx_free (v) : (s.setCtx x v).free = s.free := rfl
@[simp] theorem setCtx_now (v) : (s.setCtx x v).now = s.now := rfl
@[simp] theorem setCtx_mem (v) : (s.setCtx x v).mem = s.mem := rfl
@[simp] theorem setCtx_cfg (v) : (s.setCtx x v).cfg = s.cfg := rfl
@[simp] theorem setCtx_inForce (v) : (s.setCtx x v).inForce = s.inForce := rfl
@[simp] theorem setCtx_ready (v) : (s.setCtx x v).ready = s.ready := rfl
@[simp] theorem setCtx_droopLow (v) : (s.setCtx x v).droopLow = s.droopLow := rfl
@[simp] theorem setCtx_objs (v) : (s.setCtx x v).objs = s.objs := rfl
@[simp] theorem setCtx_dir (v) : (s.setCtx x v).dir = s.dir := rfl
@[simp] theorem setCtx_seqs (v) : (s.setCtx x v).seqs = s.seqs := rfl
@[simp] theorem setCtx_icache (v) : (s.setCtx x v).icache = s.icache := rfl
@[simp] theorem setCtx_parts (v) : (s.setCtx x v).parts = s.parts := rfl
@[simp] theorem setCtx_ops (v) : (s.setCtx x v).ops = s.ops := rfl
@[simp] theorem setCtx_nextOp (v) : (s.setCtx x v).nextOp = s.nextOp := rfl
@[simp] theorem setCtx_tags (v) : (s.setCtx x v).tags = s.tags := rfl
@[simp] theorem setCtx_cqs (v) : (s.setCtx x v).cqs = s.cqs := rfl
@[simp] theorem setCtx_pend (v) : (s.setCtx x v).pend = s.pend := rfl
@[simp] theorem setCtx_chans (v) : (s.setCtx x v).chans = s.chans := rfl
@[simp] theorem setCtx_lines (v) : (s.setCtx x v).lines = s.lines := rfl
@[simp] theorem setCtx_clus (v) : (s.setCtx x v).clus = s.clus := rfl
@[simp] theorem setCtx_sems (v) : (s.setCtx x v).sems = s.sems := rfl
@[simp] theorem setCtx_rings (v) : (s.setCtx x v).rings = s.rings := rfl
@[simp] theorem setCtx_streams (v) : (s.setCtx x v).streams = s.streams := rfl
@[simp] theorem setCtx_peers (v) : (s.setCtx x v).peers = s.peers := rfl
@[simp] theorem setCtx_txq (v) : (s.setCtx x v).txq = s.txq := rfl
@[simp] theorem setCtx_rdv (v) : (s.setCtx x v).rdv = s.rdv := rfl
@[simp] theorem setCtx_slots (v) : (s.setCtx x v).slots = s.slots := rfl
@[simp] theorem setCtx_ports (v) : (s.setCtx x v).ports = s.ports := rfl
@[simp] theorem setCtx_cnts (v) : (s.setCtx x v).cnts = s.cnts := rfl
@[simp] theorem setCtx_gcnt (v) : (s.setCtx x v).gcnt = s.gcnt := rfl
@[simp] theorem setCtx_hostl (v) : (s.setCtx x v).hostl = s.hostl := rfl
@[simp] theorem setCtx_fw (v) : (s.setCtx x v).fw = s.fw := rfl
@[simp] theorem setCtx_lc (v) : (s.setCtx x v).lc = s.lc := rfl
@[simp] theorem setCtx_bist (v) : (s.setCtx x v).bist = s.bist := rfl
@[simp] theorem setCtx_evqs (v) : (s.setCtx x v).evqs = s.evqs := rfl
@[simp] theorem setCtx_evInt (v) : (s.setCtx x v).evInt = s.evInt := rfl
@[simp] theorem setCtx_evNew (v) : (s.setCtx x v).evNew = s.evNew := rfl
@[simp] theorem setCtx_vecDue (v) : (s.setCtx x v).vecDue = s.vecDue := rfl
@[simp] theorem setCtx_taps (v) : (s.setCtx x v).taps = s.taps := rfl

@[simp] theorem modCtx_pending (v) : (s.modCtx x v).pending = s.pending := rfl
@[simp] theorem modCtx_work (v) : (s.modCtx x v).work = s.work := rfl
@[simp] theorem modCtx_free (v) : (s.modCtx x v).free = s.free := rfl
@[simp] theorem modCtx_now (v) : (s.modCtx x v).now = s.now := rfl
@[simp] theorem modCtx_mem (v) : (s.modCtx x v).mem = s.mem := rfl
@[simp] theorem modCtx_cfg (v) : (s.modCtx x v).cfg = s.cfg := rfl
@[simp] theorem modCtx_inForce (v) : (s.modCtx x v).inForce = s.inForce := rfl
@[simp] theorem modCtx_ready (v) : (s.modCtx x v).ready = s.ready := rfl
@[simp] theorem modCtx_droopLow (v) : (s.modCtx x v).droopLow = s.droopLow := rfl
@[simp] theorem modCtx_objs (v) : (s.modCtx x v).objs = s.objs := rfl
@[simp] theorem modCtx_dir (v) : (s.modCtx x v).dir = s.dir := rfl
@[simp] theorem modCtx_seqs (v) : (s.modCtx x v).seqs = s.seqs := rfl
@[simp] theorem modCtx_icache (v) : (s.modCtx x v).icache = s.icache := rfl
@[simp] theorem modCtx_parts (v) : (s.modCtx x v).parts = s.parts := rfl
@[simp] theorem modCtx_ops (v) : (s.modCtx x v).ops = s.ops := rfl
@[simp] theorem modCtx_nextOp (v) : (s.modCtx x v).nextOp = s.nextOp := rfl
@[simp] theorem modCtx_tags (v) : (s.modCtx x v).tags = s.tags := rfl
@[simp] theorem modCtx_cqs (v) : (s.modCtx x v).cqs = s.cqs := rfl
@[simp] theorem modCtx_pend (v) : (s.modCtx x v).pend = s.pend := rfl
@[simp] theorem modCtx_chans (v) : (s.modCtx x v).chans = s.chans := rfl
@[simp] theorem modCtx_lines (v) : (s.modCtx x v).lines = s.lines := rfl
@[simp] theorem modCtx_clus (v) : (s.modCtx x v).clus = s.clus := rfl
@[simp] theorem modCtx_sems (v) : (s.modCtx x v).sems = s.sems := rfl
@[simp] theorem modCtx_rings (v) : (s.modCtx x v).rings = s.rings := rfl
@[simp] theorem modCtx_streams (v) : (s.modCtx x v).streams = s.streams := rfl
@[simp] theorem modCtx_peers (v) : (s.modCtx x v).peers = s.peers := rfl
@[simp] theorem modCtx_txq (v) : (s.modCtx x v).txq = s.txq := rfl
@[simp] theorem modCtx_rdv (v) : (s.modCtx x v).rdv = s.rdv := rfl
@[simp] theorem modCtx_slots (v) : (s.modCtx x v).slots = s.slots := rfl
@[simp] theorem modCtx_ports (v) : (s.modCtx x v).ports = s.ports := rfl
@[simp] theorem modCtx_cnts (v) : (s.modCtx x v).cnts = s.cnts := rfl
@[simp] theorem modCtx_gcnt (v) : (s.modCtx x v).gcnt = s.gcnt := rfl
@[simp] theorem modCtx_hostl (v) : (s.modCtx x v).hostl = s.hostl := rfl
@[simp] theorem modCtx_fw (v) : (s.modCtx x v).fw = s.fw := rfl
@[simp] theorem modCtx_lc (v) : (s.modCtx x v).lc = s.lc := rfl
@[simp] theorem modCtx_bist (v) : (s.modCtx x v).bist = s.bist := rfl
@[simp] theorem modCtx_evqs (v) : (s.modCtx x v).evqs = s.evqs := rfl
@[simp] theorem modCtx_evInt (v) : (s.modCtx x v).evInt = s.evInt := rfl
@[simp] theorem modCtx_evNew (v) : (s.modCtx x v).evNew = s.evNew := rfl
@[simp] theorem modCtx_vecDue (v) : (s.modCtx x v).vecDue = s.vecDue := rfl
@[simp] theorem modCtx_taps (v) : (s.modCtx x v).taps = s.taps := rfl

@[simp] theorem setPart_pending (v) : (s.setPart x v).pending = s.pending := rfl
@[simp] theorem setPart_work (v) : (s.setPart x v).work = s.work := rfl
@[simp] theorem setPart_free (v) : (s.setPart x v).free = s.free := rfl
@[simp] theorem setPart_now (v) : (s.setPart x v).now = s.now := rfl
@[simp] theorem setPart_mem (v) : (s.setPart x v).mem = s.mem := rfl
@[simp] theorem setPart_cfg (v) : (s.setPart x v).cfg = s.cfg := rfl
@[simp] theorem setPart_inForce (v) : (s.setPart x v).inForce = s.inForce := rfl
@[simp] theorem setPart_ready (v) : (s.setPart x v).ready = s.ready := rfl
@[simp] theorem setPart_droopLow (v) : (s.setPart x v).droopLow = s.droopLow := rfl
@[simp] theorem setPart_objs (v) : (s.setPart x v).objs = s.objs := rfl
@[simp] theorem setPart_dir (v) : (s.setPart x v).dir = s.dir := rfl
@[simp] theorem setPart_ctxs (v) : (s.setPart x v).ctxs = s.ctxs := rfl
@[simp] theorem setPart_seqs (v) : (s.setPart x v).seqs = s.seqs := rfl
@[simp] theorem setPart_icache (v) : (s.setPart x v).icache = s.icache := rfl
@[simp] theorem setPart_ops (v) : (s.setPart x v).ops = s.ops := rfl
@[simp] theorem setPart_nextOp (v) : (s.setPart x v).nextOp = s.nextOp := rfl
@[simp] theorem setPart_tags (v) : (s.setPart x v).tags = s.tags := rfl
@[simp] theorem setPart_cqs (v) : (s.setPart x v).cqs = s.cqs := rfl
@[simp] theorem setPart_pend (v) : (s.setPart x v).pend = s.pend := rfl
@[simp] theorem setPart_chans (v) : (s.setPart x v).chans = s.chans := rfl
@[simp] theorem setPart_lines (v) : (s.setPart x v).lines = s.lines := rfl
@[simp] theorem setPart_clus (v) : (s.setPart x v).clus = s.clus := rfl
@[simp] theorem setPart_sems (v) : (s.setPart x v).sems = s.sems := rfl
@[simp] theorem setPart_rings (v) : (s.setPart x v).rings = s.rings := rfl
@[simp] theorem setPart_streams (v) : (s.setPart x v).streams = s.streams := rfl
@[simp] theorem setPart_peers (v) : (s.setPart x v).peers = s.peers := rfl
@[simp] theorem setPart_txq (v) : (s.setPart x v).txq = s.txq := rfl
@[simp] theorem setPart_rdv (v) : (s.setPart x v).rdv = s.rdv := rfl
@[simp] theorem setPart_slots (v) : (s.setPart x v).slots = s.slots := rfl
@[simp] theorem setPart_ports (v) : (s.setPart x v).ports = s.ports := rfl
@[simp] theorem setPart_cnts (v) : (s.setPart x v).cnts = s.cnts := rfl
@[simp] theorem setPart_gcnt (v) : (s.setPart x v).gcnt = s.gcnt := rfl
@[simp] theorem setPart_hostl (v) : (s.setPart x v).hostl = s.hostl := rfl
@[simp] theorem setPart_fw (v) : (s.setPart x v).fw = s.fw := rfl
@[simp] theorem setPart_lc (v) : (s.setPart x v).lc = s.lc := rfl
@[simp] theorem setPart_bist (v) : (s.setPart x v).bist = s.bist := rfl
@[simp] theorem setPart_evqs (v) : (s.setPart x v).evqs = s.evqs := rfl
@[simp] theorem setPart_evInt (v) : (s.setPart x v).evInt = s.evInt := rfl
@[simp] theorem setPart_evNew (v) : (s.setPart x v).evNew = s.evNew := rfl
@[simp] theorem setPart_vecDue (v) : (s.setPart x v).vecDue = s.vecDue := rfl
@[simp] theorem setPart_taps (v) : (s.setPart x v).taps = s.taps := rfl

@[simp] theorem modPart_pending (v) : (s.modPart x v).pending = s.pending := rfl
@[simp] theorem modPart_work (v) : (s.modPart x v).work = s.work := rfl
@[simp] theorem modPart_free (v) : (s.modPart x v).free = s.free := rfl
@[simp] theorem modPart_now (v) : (s.modPart x v).now = s.now := rfl
@[simp] theorem modPart_mem (v) : (s.modPart x v).mem = s.mem := rfl
@[simp] theorem modPart_cfg (v) : (s.modPart x v).cfg = s.cfg := rfl
@[simp] theorem modPart_inForce (v) : (s.modPart x v).inForce = s.inForce := rfl
@[simp] theorem modPart_ready (v) : (s.modPart x v).ready = s.ready := rfl
@[simp] theorem modPart_droopLow (v) : (s.modPart x v).droopLow = s.droopLow := rfl
@[simp] theorem modPart_objs (v) : (s.modPart x v).objs = s.objs := rfl
@[simp] theorem modPart_dir (v) : (s.modPart x v).dir = s.dir := rfl
@[simp] theorem modPart_ctxs (v) : (s.modPart x v).ctxs = s.ctxs := rfl
@[simp] theorem modPart_seqs (v) : (s.modPart x v).seqs = s.seqs := rfl
@[simp] theorem modPart_icache (v) : (s.modPart x v).icache = s.icache := rfl
@[simp] theorem modPart_ops (v) : (s.modPart x v).ops = s.ops := rfl
@[simp] theorem modPart_nextOp (v) : (s.modPart x v).nextOp = s.nextOp := rfl
@[simp] theorem modPart_tags (v) : (s.modPart x v).tags = s.tags := rfl
@[simp] theorem modPart_cqs (v) : (s.modPart x v).cqs = s.cqs := rfl
@[simp] theorem modPart_pend (v) : (s.modPart x v).pend = s.pend := rfl
@[simp] theorem modPart_chans (v) : (s.modPart x v).chans = s.chans := rfl
@[simp] theorem modPart_lines (v) : (s.modPart x v).lines = s.lines := rfl
@[simp] theorem modPart_clus (v) : (s.modPart x v).clus = s.clus := rfl
@[simp] theorem modPart_sems (v) : (s.modPart x v).sems = s.sems := rfl
@[simp] theorem modPart_rings (v) : (s.modPart x v).rings = s.rings := rfl
@[simp] theorem modPart_streams (v) : (s.modPart x v).streams = s.streams := rfl
@[simp] theorem modPart_peers (v) : (s.modPart x v).peers = s.peers := rfl
@[simp] theorem modPart_txq (v) : (s.modPart x v).txq = s.txq := rfl
@[simp] theorem modPart_rdv (v) : (s.modPart x v).rdv = s.rdv := rfl
@[simp] theorem modPart_slots (v) : (s.modPart x v).slots = s.slots := rfl
@[simp] theorem modPart_ports (v) : (s.modPart x v).ports = s.ports := rfl
@[simp] theorem modPart_cnts (v) : (s.modPart x v).cnts = s.cnts := rfl
@[simp] theorem modPart_gcnt (v) : (s.modPart x v).gcnt = s.gcnt := rfl
@[simp] theorem modPart_hostl (v) : (s.modPart x v).hostl = s.hostl := rfl
@[simp] theorem modPart_fw (v) : (s.modPart x v).fw = s.fw := rfl
@[simp] theorem modPart_lc (v) : (s.modPart x v).lc = s.lc := rfl
@[simp] theorem modPart_bist (v) : (s.modPart x v).bist = s.bist := rfl
@[simp] theorem modPart_evqs (v) : (s.modPart x v).evqs = s.evqs := rfl
@[simp] theorem modPart_evInt (v) : (s.modPart x v).evInt = s.evInt := rfl
@[simp] theorem modPart_evNew (v) : (s.modPart x v).evNew = s.evNew := rfl
@[simp] theorem modPart_vecDue (v) : (s.modPart x v).vecDue = s.vecDue := rfl
@[simp] theorem modPart_taps (v) : (s.modPart x v).taps = s.taps := rfl

@[simp] theorem setSeq_pending (v) : (s.setSeq x v).pending = s.pending := rfl
@[simp] theorem setSeq_work (v) : (s.setSeq x v).work = s.work := rfl
@[simp] theorem setSeq_free (v) : (s.setSeq x v).free = s.free := rfl
@[simp] theorem setSeq_now (v) : (s.setSeq x v).now = s.now := rfl
@[simp] theorem setSeq_mem (v) : (s.setSeq x v).mem = s.mem := rfl
@[simp] theorem setSeq_cfg (v) : (s.setSeq x v).cfg = s.cfg := rfl
@[simp] theorem setSeq_inForce (v) : (s.setSeq x v).inForce = s.inForce := rfl
@[simp] theorem setSeq_ready (v) : (s.setSeq x v).ready = s.ready := rfl
@[simp] theorem setSeq_droopLow (v) : (s.setSeq x v).droopLow = s.droopLow := rfl
@[simp] theorem setSeq_objs (v) : (s.setSeq x v).objs = s.objs := rfl
@[simp] theorem setSeq_dir (v) : (s.setSeq x v).dir = s.dir := rfl
@[simp] theorem setSeq_ctxs (v) : (s.setSeq x v).ctxs = s.ctxs := rfl
@[simp] theorem setSeq_icache (v) : (s.setSeq x v).icache = s.icache := rfl
@[simp] theorem setSeq_parts (v) : (s.setSeq x v).parts = s.parts := rfl
@[simp] theorem setSeq_ops (v) : (s.setSeq x v).ops = s.ops := rfl
@[simp] theorem setSeq_nextOp (v) : (s.setSeq x v).nextOp = s.nextOp := rfl
@[simp] theorem setSeq_tags (v) : (s.setSeq x v).tags = s.tags := rfl
@[simp] theorem setSeq_cqs (v) : (s.setSeq x v).cqs = s.cqs := rfl
@[simp] theorem setSeq_pend (v) : (s.setSeq x v).pend = s.pend := rfl
@[simp] theorem setSeq_chans (v) : (s.setSeq x v).chans = s.chans := rfl
@[simp] theorem setSeq_lines (v) : (s.setSeq x v).lines = s.lines := rfl
@[simp] theorem setSeq_clus (v) : (s.setSeq x v).clus = s.clus := rfl
@[simp] theorem setSeq_sems (v) : (s.setSeq x v).sems = s.sems := rfl
@[simp] theorem setSeq_rings (v) : (s.setSeq x v).rings = s.rings := rfl
@[simp] theorem setSeq_streams (v) : (s.setSeq x v).streams = s.streams := rfl
@[simp] theorem setSeq_peers (v) : (s.setSeq x v).peers = s.peers := rfl
@[simp] theorem setSeq_txq (v) : (s.setSeq x v).txq = s.txq := rfl
@[simp] theorem setSeq_rdv (v) : (s.setSeq x v).rdv = s.rdv := rfl
@[simp] theorem setSeq_slots (v) : (s.setSeq x v).slots = s.slots := rfl
@[simp] theorem setSeq_ports (v) : (s.setSeq x v).ports = s.ports := rfl
@[simp] theorem setSeq_cnts (v) : (s.setSeq x v).cnts = s.cnts := rfl
@[simp] theorem setSeq_gcnt (v) : (s.setSeq x v).gcnt = s.gcnt := rfl
@[simp] theorem setSeq_hostl (v) : (s.setSeq x v).hostl = s.hostl := rfl
@[simp] theorem setSeq_fw (v) : (s.setSeq x v).fw = s.fw := rfl
@[simp] theorem setSeq_lc (v) : (s.setSeq x v).lc = s.lc := rfl
@[simp] theorem setSeq_bist (v) : (s.setSeq x v).bist = s.bist := rfl
@[simp] theorem setSeq_evqs (v) : (s.setSeq x v).evqs = s.evqs := rfl
@[simp] theorem setSeq_evInt (v) : (s.setSeq x v).evInt = s.evInt := rfl
@[simp] theorem setSeq_evNew (v) : (s.setSeq x v).evNew = s.evNew := rfl
@[simp] theorem setSeq_vecDue (v) : (s.setSeq x v).vecDue = s.vecDue := rfl
@[simp] theorem setSeq_taps (v) : (s.setSeq x v).taps = s.taps := rfl

@[simp] theorem setCq_pending (v) : (s.setCq x v).pending = s.pending := rfl
@[simp] theorem setCq_work (v) : (s.setCq x v).work = s.work := rfl
@[simp] theorem setCq_free (v) : (s.setCq x v).free = s.free := rfl
@[simp] theorem setCq_now (v) : (s.setCq x v).now = s.now := rfl
@[simp] theorem setCq_mem (v) : (s.setCq x v).mem = s.mem := rfl
@[simp] theorem setCq_cfg (v) : (s.setCq x v).cfg = s.cfg := rfl
@[simp] theorem setCq_inForce (v) : (s.setCq x v).inForce = s.inForce := rfl
@[simp] theorem setCq_ready (v) : (s.setCq x v).ready = s.ready := rfl
@[simp] theorem setCq_droopLow (v) : (s.setCq x v).droopLow = s.droopLow := rfl
@[simp] theorem setCq_objs (v) : (s.setCq x v).objs = s.objs := rfl
@[simp] theorem setCq_dir (v) : (s.setCq x v).dir = s.dir := rfl
@[simp] theorem setCq_ctxs (v) : (s.setCq x v).ctxs = s.ctxs := rfl
@[simp] theorem setCq_seqs (v) : (s.setCq x v).seqs = s.seqs := rfl
@[simp] theorem setCq_icache (v) : (s.setCq x v).icache = s.icache := rfl
@[simp] theorem setCq_parts (v) : (s.setCq x v).parts = s.parts := rfl
@[simp] theorem setCq_ops (v) : (s.setCq x v).ops = s.ops := rfl
@[simp] theorem setCq_nextOp (v) : (s.setCq x v).nextOp = s.nextOp := rfl
@[simp] theorem setCq_tags (v) : (s.setCq x v).tags = s.tags := rfl
@[simp] theorem setCq_pend (v) : (s.setCq x v).pend = s.pend := rfl
@[simp] theorem setCq_chans (v) : (s.setCq x v).chans = s.chans := rfl
@[simp] theorem setCq_lines (v) : (s.setCq x v).lines = s.lines := rfl
@[simp] theorem setCq_clus (v) : (s.setCq x v).clus = s.clus := rfl
@[simp] theorem setCq_sems (v) : (s.setCq x v).sems = s.sems := rfl
@[simp] theorem setCq_rings (v) : (s.setCq x v).rings = s.rings := rfl
@[simp] theorem setCq_streams (v) : (s.setCq x v).streams = s.streams := rfl
@[simp] theorem setCq_peers (v) : (s.setCq x v).peers = s.peers := rfl
@[simp] theorem setCq_txq (v) : (s.setCq x v).txq = s.txq := rfl
@[simp] theorem setCq_rdv (v) : (s.setCq x v).rdv = s.rdv := rfl
@[simp] theorem setCq_slots (v) : (s.setCq x v).slots = s.slots := rfl
@[simp] theorem setCq_ports (v) : (s.setCq x v).ports = s.ports := rfl
@[simp] theorem setCq_cnts (v) : (s.setCq x v).cnts = s.cnts := rfl
@[simp] theorem setCq_gcnt (v) : (s.setCq x v).gcnt = s.gcnt := rfl
@[simp] theorem setCq_hostl (v) : (s.setCq x v).hostl = s.hostl := rfl
@[simp] theorem setCq_fw (v) : (s.setCq x v).fw = s.fw := rfl
@[simp] theorem setCq_lc (v) : (s.setCq x v).lc = s.lc := rfl
@[simp] theorem setCq_bist (v) : (s.setCq x v).bist = s.bist := rfl
@[simp] theorem setCq_evqs (v) : (s.setCq x v).evqs = s.evqs := rfl
@[simp] theorem setCq_evInt (v) : (s.setCq x v).evInt = s.evInt := rfl
@[simp] theorem setCq_evNew (v) : (s.setCq x v).evNew = s.evNew := rfl
@[simp] theorem setCq_vecDue (v) : (s.setCq x v).vecDue = s.vecDue := rfl
@[simp] theorem setCq_taps (v) : (s.setCq x v).taps = s.taps := rfl

@[simp] theorem setChan_pending (v) : (s.setChan x v).pending = s.pending := rfl
@[simp] theorem setChan_work (v) : (s.setChan x v).work = s.work := rfl
@[simp] theorem setChan_free (v) : (s.setChan x v).free = s.free := rfl
@[simp] theorem setChan_now (v) : (s.setChan x v).now = s.now := rfl
@[simp] theorem setChan_mem (v) : (s.setChan x v).mem = s.mem := rfl
@[simp] theorem setChan_cfg (v) : (s.setChan x v).cfg = s.cfg := rfl
@[simp] theorem setChan_inForce (v) : (s.setChan x v).inForce = s.inForce := rfl
@[simp] theorem setChan_ready (v) : (s.setChan x v).ready = s.ready := rfl
@[simp] theorem setChan_droopLow (v) : (s.setChan x v).droopLow = s.droopLow := rfl
@[simp] theorem setChan_objs (v) : (s.setChan x v).objs = s.objs := rfl
@[simp] theorem setChan_dir (v) : (s.setChan x v).dir = s.dir := rfl
@[simp] theorem setChan_ctxs (v) : (s.setChan x v).ctxs = s.ctxs := rfl
@[simp] theorem setChan_seqs (v) : (s.setChan x v).seqs = s.seqs := rfl
@[simp] theorem setChan_icache (v) : (s.setChan x v).icache = s.icache := rfl
@[simp] theorem setChan_parts (v) : (s.setChan x v).parts = s.parts := rfl
@[simp] theorem setChan_ops (v) : (s.setChan x v).ops = s.ops := rfl
@[simp] theorem setChan_nextOp (v) : (s.setChan x v).nextOp = s.nextOp := rfl
@[simp] theorem setChan_tags (v) : (s.setChan x v).tags = s.tags := rfl
@[simp] theorem setChan_cqs (v) : (s.setChan x v).cqs = s.cqs := rfl
@[simp] theorem setChan_pend (v) : (s.setChan x v).pend = s.pend := rfl
@[simp] theorem setChan_lines (v) : (s.setChan x v).lines = s.lines := rfl
@[simp] theorem setChan_clus (v) : (s.setChan x v).clus = s.clus := rfl
@[simp] theorem setChan_sems (v) : (s.setChan x v).sems = s.sems := rfl
@[simp] theorem setChan_rings (v) : (s.setChan x v).rings = s.rings := rfl
@[simp] theorem setChan_streams (v) : (s.setChan x v).streams = s.streams := rfl
@[simp] theorem setChan_peers (v) : (s.setChan x v).peers = s.peers := rfl
@[simp] theorem setChan_txq (v) : (s.setChan x v).txq = s.txq := rfl
@[simp] theorem setChan_rdv (v) : (s.setChan x v).rdv = s.rdv := rfl
@[simp] theorem setChan_slots (v) : (s.setChan x v).slots = s.slots := rfl
@[simp] theorem setChan_ports (v) : (s.setChan x v).ports = s.ports := rfl
@[simp] theorem setChan_cnts (v) : (s.setChan x v).cnts = s.cnts := rfl
@[simp] theorem setChan_gcnt (v) : (s.setChan x v).gcnt = s.gcnt := rfl
@[simp] theorem setChan_hostl (v) : (s.setChan x v).hostl = s.hostl := rfl
@[simp] theorem setChan_fw (v) : (s.setChan x v).fw = s.fw := rfl
@[simp] theorem setChan_lc (v) : (s.setChan x v).lc = s.lc := rfl
@[simp] theorem setChan_bist (v) : (s.setChan x v).bist = s.bist := rfl
@[simp] theorem setChan_evqs (v) : (s.setChan x v).evqs = s.evqs := rfl
@[simp] theorem setChan_evInt (v) : (s.setChan x v).evInt = s.evInt := rfl
@[simp] theorem setChan_evNew (v) : (s.setChan x v).evNew = s.evNew := rfl
@[simp] theorem setChan_vecDue (v) : (s.setChan x v).vecDue = s.vecDue := rfl
@[simp] theorem setChan_taps (v) : (s.setChan x v).taps = s.taps := rfl

@[simp] theorem modChan_pending (v) : (s.modChan x v).pending = s.pending := rfl
@[simp] theorem modChan_work (v) : (s.modChan x v).work = s.work := rfl
@[simp] theorem modChan_free (v) : (s.modChan x v).free = s.free := rfl
@[simp] theorem modChan_now (v) : (s.modChan x v).now = s.now := rfl
@[simp] theorem modChan_mem (v) : (s.modChan x v).mem = s.mem := rfl
@[simp] theorem modChan_cfg (v) : (s.modChan x v).cfg = s.cfg := rfl
@[simp] theorem modChan_inForce (v) : (s.modChan x v).inForce = s.inForce := rfl
@[simp] theorem modChan_ready (v) : (s.modChan x v).ready = s.ready := rfl
@[simp] theorem modChan_droopLow (v) : (s.modChan x v).droopLow = s.droopLow := rfl
@[simp] theorem modChan_objs (v) : (s.modChan x v).objs = s.objs := rfl
@[simp] theorem modChan_dir (v) : (s.modChan x v).dir = s.dir := rfl
@[simp] theorem modChan_ctxs (v) : (s.modChan x v).ctxs = s.ctxs := rfl
@[simp] theorem modChan_seqs (v) : (s.modChan x v).seqs = s.seqs := rfl
@[simp] theorem modChan_icache (v) : (s.modChan x v).icache = s.icache := rfl
@[simp] theorem modChan_parts (v) : (s.modChan x v).parts = s.parts := rfl
@[simp] theorem modChan_ops (v) : (s.modChan x v).ops = s.ops := rfl
@[simp] theorem modChan_nextOp (v) : (s.modChan x v).nextOp = s.nextOp := rfl
@[simp] theorem modChan_tags (v) : (s.modChan x v).tags = s.tags := rfl
@[simp] theorem modChan_cqs (v) : (s.modChan x v).cqs = s.cqs := rfl
@[simp] theorem modChan_pend (v) : (s.modChan x v).pend = s.pend := rfl
@[simp] theorem modChan_lines (v) : (s.modChan x v).lines = s.lines := rfl
@[simp] theorem modChan_clus (v) : (s.modChan x v).clus = s.clus := rfl
@[simp] theorem modChan_sems (v) : (s.modChan x v).sems = s.sems := rfl
@[simp] theorem modChan_rings (v) : (s.modChan x v).rings = s.rings := rfl
@[simp] theorem modChan_streams (v) : (s.modChan x v).streams = s.streams := rfl
@[simp] theorem modChan_peers (v) : (s.modChan x v).peers = s.peers := rfl
@[simp] theorem modChan_txq (v) : (s.modChan x v).txq = s.txq := rfl
@[simp] theorem modChan_rdv (v) : (s.modChan x v).rdv = s.rdv := rfl
@[simp] theorem modChan_slots (v) : (s.modChan x v).slots = s.slots := rfl
@[simp] theorem modChan_ports (v) : (s.modChan x v).ports = s.ports := rfl
@[simp] theorem modChan_cnts (v) : (s.modChan x v).cnts = s.cnts := rfl
@[simp] theorem modChan_gcnt (v) : (s.modChan x v).gcnt = s.gcnt := rfl
@[simp] theorem modChan_hostl (v) : (s.modChan x v).hostl = s.hostl := rfl
@[simp] theorem modChan_fw (v) : (s.modChan x v).fw = s.fw := rfl
@[simp] theorem modChan_lc (v) : (s.modChan x v).lc = s.lc := rfl
@[simp] theorem modChan_bist (v) : (s.modChan x v).bist = s.bist := rfl
@[simp] theorem modChan_evqs (v) : (s.modChan x v).evqs = s.evqs := rfl
@[simp] theorem modChan_evInt (v) : (s.modChan x v).evInt = s.evInt := rfl
@[simp] theorem modChan_evNew (v) : (s.modChan x v).evNew = s.evNew := rfl
@[simp] theorem modChan_vecDue (v) : (s.modChan x v).vecDue = s.vecDue := rfl
@[simp] theorem modChan_taps (v) : (s.modChan x v).taps = s.taps := rfl

@[simp] theorem setLine_pending (v) : (s.setLine x v).pending = s.pending := rfl
@[simp] theorem setLine_work (v) : (s.setLine x v).work = s.work := rfl
@[simp] theorem setLine_free (v) : (s.setLine x v).free = s.free := rfl
@[simp] theorem setLine_now (v) : (s.setLine x v).now = s.now := rfl
@[simp] theorem setLine_mem (v) : (s.setLine x v).mem = s.mem := rfl
@[simp] theorem setLine_cfg (v) : (s.setLine x v).cfg = s.cfg := rfl
@[simp] theorem setLine_inForce (v) : (s.setLine x v).inForce = s.inForce := rfl
@[simp] theorem setLine_ready (v) : (s.setLine x v).ready = s.ready := rfl
@[simp] theorem setLine_droopLow (v) : (s.setLine x v).droopLow = s.droopLow := rfl
@[simp] theorem setLine_objs (v) : (s.setLine x v).objs = s.objs := rfl
@[simp] theorem setLine_dir (v) : (s.setLine x v).dir = s.dir := rfl
@[simp] theorem setLine_ctxs (v) : (s.setLine x v).ctxs = s.ctxs := rfl
@[simp] theorem setLine_seqs (v) : (s.setLine x v).seqs = s.seqs := rfl
@[simp] theorem setLine_icache (v) : (s.setLine x v).icache = s.icache := rfl
@[simp] theorem setLine_parts (v) : (s.setLine x v).parts = s.parts := rfl
@[simp] theorem setLine_ops (v) : (s.setLine x v).ops = s.ops := rfl
@[simp] theorem setLine_nextOp (v) : (s.setLine x v).nextOp = s.nextOp := rfl
@[simp] theorem setLine_tags (v) : (s.setLine x v).tags = s.tags := rfl
@[simp] theorem setLine_cqs (v) : (s.setLine x v).cqs = s.cqs := rfl
@[simp] theorem setLine_pend (v) : (s.setLine x v).pend = s.pend := rfl
@[simp] theorem setLine_chans (v) : (s.setLine x v).chans = s.chans := rfl
@[simp] theorem setLine_clus (v) : (s.setLine x v).clus = s.clus := rfl
@[simp] theorem setLine_sems (v) : (s.setLine x v).sems = s.sems := rfl
@[simp] theorem setLine_rings (v) : (s.setLine x v).rings = s.rings := rfl
@[simp] theorem setLine_streams (v) : (s.setLine x v).streams = s.streams := rfl
@[simp] theorem setLine_peers (v) : (s.setLine x v).peers = s.peers := rfl
@[simp] theorem setLine_txq (v) : (s.setLine x v).txq = s.txq := rfl
@[simp] theorem setLine_rdv (v) : (s.setLine x v).rdv = s.rdv := rfl
@[simp] theorem setLine_slots (v) : (s.setLine x v).slots = s.slots := rfl
@[simp] theorem setLine_ports (v) : (s.setLine x v).ports = s.ports := rfl
@[simp] theorem setLine_cnts (v) : (s.setLine x v).cnts = s.cnts := rfl
@[simp] theorem setLine_gcnt (v) : (s.setLine x v).gcnt = s.gcnt := rfl
@[simp] theorem setLine_hostl (v) : (s.setLine x v).hostl = s.hostl := rfl
@[simp] theorem setLine_fw (v) : (s.setLine x v).fw = s.fw := rfl
@[simp] theorem setLine_lc (v) : (s.setLine x v).lc = s.lc := rfl
@[simp] theorem setLine_bist (v) : (s.setLine x v).bist = s.bist := rfl
@[simp] theorem setLine_evqs (v) : (s.setLine x v).evqs = s.evqs := rfl
@[simp] theorem setLine_evInt (v) : (s.setLine x v).evInt = s.evInt := rfl
@[simp] theorem setLine_evNew (v) : (s.setLine x v).evNew = s.evNew := rfl
@[simp] theorem setLine_vecDue (v) : (s.setLine x v).vecDue = s.vecDue := rfl
@[simp] theorem setLine_taps (v) : (s.setLine x v).taps = s.taps := rfl

@[simp] theorem setCluster_pending (v) : (s.setCluster x v).pending = s.pending := rfl
@[simp] theorem setCluster_work (v) : (s.setCluster x v).work = s.work := rfl
@[simp] theorem setCluster_free (v) : (s.setCluster x v).free = s.free := rfl
@[simp] theorem setCluster_now (v) : (s.setCluster x v).now = s.now := rfl
@[simp] theorem setCluster_mem (v) : (s.setCluster x v).mem = s.mem := rfl
@[simp] theorem setCluster_cfg (v) : (s.setCluster x v).cfg = s.cfg := rfl
@[simp] theorem setCluster_inForce (v) : (s.setCluster x v).inForce = s.inForce := rfl
@[simp] theorem setCluster_ready (v) : (s.setCluster x v).ready = s.ready := rfl
@[simp] theorem setCluster_droopLow (v) : (s.setCluster x v).droopLow = s.droopLow := rfl
@[simp] theorem setCluster_objs (v) : (s.setCluster x v).objs = s.objs := rfl
@[simp] theorem setCluster_dir (v) : (s.setCluster x v).dir = s.dir := rfl
@[simp] theorem setCluster_ctxs (v) : (s.setCluster x v).ctxs = s.ctxs := rfl
@[simp] theorem setCluster_seqs (v) : (s.setCluster x v).seqs = s.seqs := rfl
@[simp] theorem setCluster_icache (v) : (s.setCluster x v).icache = s.icache := rfl
@[simp] theorem setCluster_parts (v) : (s.setCluster x v).parts = s.parts := rfl
@[simp] theorem setCluster_ops (v) : (s.setCluster x v).ops = s.ops := rfl
@[simp] theorem setCluster_nextOp (v) : (s.setCluster x v).nextOp = s.nextOp := rfl
@[simp] theorem setCluster_tags (v) : (s.setCluster x v).tags = s.tags := rfl
@[simp] theorem setCluster_cqs (v) : (s.setCluster x v).cqs = s.cqs := rfl
@[simp] theorem setCluster_pend (v) : (s.setCluster x v).pend = s.pend := rfl
@[simp] theorem setCluster_chans (v) : (s.setCluster x v).chans = s.chans := rfl
@[simp] theorem setCluster_lines (v) : (s.setCluster x v).lines = s.lines := rfl
@[simp] theorem setCluster_sems (v) : (s.setCluster x v).sems = s.sems := rfl
@[simp] theorem setCluster_rings (v) : (s.setCluster x v).rings = s.rings := rfl
@[simp] theorem setCluster_streams (v) : (s.setCluster x v).streams = s.streams := rfl
@[simp] theorem setCluster_peers (v) : (s.setCluster x v).peers = s.peers := rfl
@[simp] theorem setCluster_txq (v) : (s.setCluster x v).txq = s.txq := rfl
@[simp] theorem setCluster_rdv (v) : (s.setCluster x v).rdv = s.rdv := rfl
@[simp] theorem setCluster_slots (v) : (s.setCluster x v).slots = s.slots := rfl
@[simp] theorem setCluster_ports (v) : (s.setCluster x v).ports = s.ports := rfl
@[simp] theorem setCluster_cnts (v) : (s.setCluster x v).cnts = s.cnts := rfl
@[simp] theorem setCluster_gcnt (v) : (s.setCluster x v).gcnt = s.gcnt := rfl
@[simp] theorem setCluster_hostl (v) : (s.setCluster x v).hostl = s.hostl := rfl
@[simp] theorem setCluster_fw (v) : (s.setCluster x v).fw = s.fw := rfl
@[simp] theorem setCluster_lc (v) : (s.setCluster x v).lc = s.lc := rfl
@[simp] theorem setCluster_bist (v) : (s.setCluster x v).bist = s.bist := rfl
@[simp] theorem setCluster_evqs (v) : (s.setCluster x v).evqs = s.evqs := rfl
@[simp] theorem setCluster_evInt (v) : (s.setCluster x v).evInt = s.evInt := rfl
@[simp] theorem setCluster_evNew (v) : (s.setCluster x v).evNew = s.evNew := rfl
@[simp] theorem setCluster_vecDue (v) : (s.setCluster x v).vecDue = s.vecDue := rfl
@[simp] theorem setCluster_taps (v) : (s.setCluster x v).taps = s.taps := rfl

@[simp] theorem setSem_pending (v) : (s.setSem x v).pending = s.pending := rfl
@[simp] theorem setSem_work (v) : (s.setSem x v).work = s.work := rfl
@[simp] theorem setSem_free (v) : (s.setSem x v).free = s.free := rfl
@[simp] theorem setSem_now (v) : (s.setSem x v).now = s.now := rfl
@[simp] theorem setSem_mem (v) : (s.setSem x v).mem = s.mem := rfl
@[simp] theorem setSem_cfg (v) : (s.setSem x v).cfg = s.cfg := rfl
@[simp] theorem setSem_inForce (v) : (s.setSem x v).inForce = s.inForce := rfl
@[simp] theorem setSem_ready (v) : (s.setSem x v).ready = s.ready := rfl
@[simp] theorem setSem_droopLow (v) : (s.setSem x v).droopLow = s.droopLow := rfl
@[simp] theorem setSem_objs (v) : (s.setSem x v).objs = s.objs := rfl
@[simp] theorem setSem_dir (v) : (s.setSem x v).dir = s.dir := rfl
@[simp] theorem setSem_ctxs (v) : (s.setSem x v).ctxs = s.ctxs := rfl
@[simp] theorem setSem_seqs (v) : (s.setSem x v).seqs = s.seqs := rfl
@[simp] theorem setSem_icache (v) : (s.setSem x v).icache = s.icache := rfl
@[simp] theorem setSem_parts (v) : (s.setSem x v).parts = s.parts := rfl
@[simp] theorem setSem_ops (v) : (s.setSem x v).ops = s.ops := rfl
@[simp] theorem setSem_nextOp (v) : (s.setSem x v).nextOp = s.nextOp := rfl
@[simp] theorem setSem_tags (v) : (s.setSem x v).tags = s.tags := rfl
@[simp] theorem setSem_cqs (v) : (s.setSem x v).cqs = s.cqs := rfl
@[simp] theorem setSem_pend (v) : (s.setSem x v).pend = s.pend := rfl
@[simp] theorem setSem_chans (v) : (s.setSem x v).chans = s.chans := rfl
@[simp] theorem setSem_lines (v) : (s.setSem x v).lines = s.lines := rfl
@[simp] theorem setSem_clus (v) : (s.setSem x v).clus = s.clus := rfl
@[simp] theorem setSem_rings (v) : (s.setSem x v).rings = s.rings := rfl
@[simp] theorem setSem_streams (v) : (s.setSem x v).streams = s.streams := rfl
@[simp] theorem setSem_peers (v) : (s.setSem x v).peers = s.peers := rfl
@[simp] theorem setSem_txq (v) : (s.setSem x v).txq = s.txq := rfl
@[simp] theorem setSem_rdv (v) : (s.setSem x v).rdv = s.rdv := rfl
@[simp] theorem setSem_slots (v) : (s.setSem x v).slots = s.slots := rfl
@[simp] theorem setSem_ports (v) : (s.setSem x v).ports = s.ports := rfl
@[simp] theorem setSem_cnts (v) : (s.setSem x v).cnts = s.cnts := rfl
@[simp] theorem setSem_gcnt (v) : (s.setSem x v).gcnt = s.gcnt := rfl
@[simp] theorem setSem_hostl (v) : (s.setSem x v).hostl = s.hostl := rfl
@[simp] theorem setSem_fw (v) : (s.setSem x v).fw = s.fw := rfl
@[simp] theorem setSem_lc (v) : (s.setSem x v).lc = s.lc := rfl
@[simp] theorem setSem_bist (v) : (s.setSem x v).bist = s.bist := rfl
@[simp] theorem setSem_evqs (v) : (s.setSem x v).evqs = s.evqs := rfl
@[simp] theorem setSem_evInt (v) : (s.setSem x v).evInt = s.evInt := rfl
@[simp] theorem setSem_evNew (v) : (s.setSem x v).evNew = s.evNew := rfl
@[simp] theorem setSem_vecDue (v) : (s.setSem x v).vecDue = s.vecDue := rfl
@[simp] theorem setSem_taps (v) : (s.setSem x v).taps = s.taps := rfl

@[simp] theorem setRing_pending (v) : (s.setRing x v).pending = s.pending := rfl
@[simp] theorem setRing_work (v) : (s.setRing x v).work = s.work := rfl
@[simp] theorem setRing_free (v) : (s.setRing x v).free = s.free := rfl
@[simp] theorem setRing_now (v) : (s.setRing x v).now = s.now := rfl
@[simp] theorem setRing_mem (v) : (s.setRing x v).mem = s.mem := rfl
@[simp] theorem setRing_cfg (v) : (s.setRing x v).cfg = s.cfg := rfl
@[simp] theorem setRing_inForce (v) : (s.setRing x v).inForce = s.inForce := rfl
@[simp] theorem setRing_ready (v) : (s.setRing x v).ready = s.ready := rfl
@[simp] theorem setRing_droopLow (v) : (s.setRing x v).droopLow = s.droopLow := rfl
@[simp] theorem setRing_objs (v) : (s.setRing x v).objs = s.objs := rfl
@[simp] theorem setRing_dir (v) : (s.setRing x v).dir = s.dir := rfl
@[simp] theorem setRing_ctxs (v) : (s.setRing x v).ctxs = s.ctxs := rfl
@[simp] theorem setRing_seqs (v) : (s.setRing x v).seqs = s.seqs := rfl
@[simp] theorem setRing_icache (v) : (s.setRing x v).icache = s.icache := rfl
@[simp] theorem setRing_parts (v) : (s.setRing x v).parts = s.parts := rfl
@[simp] theorem setRing_ops (v) : (s.setRing x v).ops = s.ops := rfl
@[simp] theorem setRing_nextOp (v) : (s.setRing x v).nextOp = s.nextOp := rfl
@[simp] theorem setRing_tags (v) : (s.setRing x v).tags = s.tags := rfl
@[simp] theorem setRing_cqs (v) : (s.setRing x v).cqs = s.cqs := rfl
@[simp] theorem setRing_pend (v) : (s.setRing x v).pend = s.pend := rfl
@[simp] theorem setRing_chans (v) : (s.setRing x v).chans = s.chans := rfl
@[simp] theorem setRing_lines (v) : (s.setRing x v).lines = s.lines := rfl
@[simp] theorem setRing_clus (v) : (s.setRing x v).clus = s.clus := rfl
@[simp] theorem setRing_sems (v) : (s.setRing x v).sems = s.sems := rfl
@[simp] theorem setRing_streams (v) : (s.setRing x v).streams = s.streams := rfl
@[simp] theorem setRing_peers (v) : (s.setRing x v).peers = s.peers := rfl
@[simp] theorem setRing_txq (v) : (s.setRing x v).txq = s.txq := rfl
@[simp] theorem setRing_rdv (v) : (s.setRing x v).rdv = s.rdv := rfl
@[simp] theorem setRing_slots (v) : (s.setRing x v).slots = s.slots := rfl
@[simp] theorem setRing_ports (v) : (s.setRing x v).ports = s.ports := rfl
@[simp] theorem setRing_cnts (v) : (s.setRing x v).cnts = s.cnts := rfl
@[simp] theorem setRing_gcnt (v) : (s.setRing x v).gcnt = s.gcnt := rfl
@[simp] theorem setRing_hostl (v) : (s.setRing x v).hostl = s.hostl := rfl
@[simp] theorem setRing_fw (v) : (s.setRing x v).fw = s.fw := rfl
@[simp] theorem setRing_lc (v) : (s.setRing x v).lc = s.lc := rfl
@[simp] theorem setRing_bist (v) : (s.setRing x v).bist = s.bist := rfl
@[simp] theorem setRing_evqs (v) : (s.setRing x v).evqs = s.evqs := rfl
@[simp] theorem setRing_evInt (v) : (s.setRing x v).evInt = s.evInt := rfl
@[simp] theorem setRing_evNew (v) : (s.setRing x v).evNew = s.evNew := rfl
@[simp] theorem setRing_vecDue (v) : (s.setRing x v).vecDue = s.vecDue := rfl
@[simp] theorem setRing_taps (v) : (s.setRing x v).taps = s.taps := rfl

@[simp] theorem setBar_pending (v) : (s.setBar x v).pending = s.pending := rfl
@[simp] theorem setBar_work (v) : (s.setBar x v).work = s.work := rfl
@[simp] theorem setBar_free (v) : (s.setBar x v).free = s.free := rfl
@[simp] theorem setBar_now (v) : (s.setBar x v).now = s.now := rfl
@[simp] theorem setBar_mem (v) : (s.setBar x v).mem = s.mem := rfl
@[simp] theorem setBar_cfg (v) : (s.setBar x v).cfg = s.cfg := rfl
@[simp] theorem setBar_inForce (v) : (s.setBar x v).inForce = s.inForce := rfl
@[simp] theorem setBar_ready (v) : (s.setBar x v).ready = s.ready := rfl
@[simp] theorem setBar_droopLow (v) : (s.setBar x v).droopLow = s.droopLow := rfl
@[simp] theorem setBar_objs (v) : (s.setBar x v).objs = s.objs := rfl
@[simp] theorem setBar_dir (v) : (s.setBar x v).dir = s.dir := rfl
@[simp] theorem setBar_ctxs (v) : (s.setBar x v).ctxs = s.ctxs := rfl
@[simp] theorem setBar_seqs (v) : (s.setBar x v).seqs = s.seqs := rfl
@[simp] theorem setBar_icache (v) : (s.setBar x v).icache = s.icache := rfl
@[simp] theorem setBar_parts (v) : (s.setBar x v).parts = s.parts := rfl
@[simp] theorem setBar_ops (v) : (s.setBar x v).ops = s.ops := rfl
@[simp] theorem setBar_nextOp (v) : (s.setBar x v).nextOp = s.nextOp := rfl
@[simp] theorem setBar_tags (v) : (s.setBar x v).tags = s.tags := rfl
@[simp] theorem setBar_cqs (v) : (s.setBar x v).cqs = s.cqs := rfl
@[simp] theorem setBar_pend (v) : (s.setBar x v).pend = s.pend := rfl
@[simp] theorem setBar_chans (v) : (s.setBar x v).chans = s.chans := rfl
@[simp] theorem setBar_lines (v) : (s.setBar x v).lines = s.lines := rfl
@[simp] theorem setBar_clus (v) : (s.setBar x v).clus = s.clus := rfl
@[simp] theorem setBar_sems (v) : (s.setBar x v).sems = s.sems := rfl
@[simp] theorem setBar_rings (v) : (s.setBar x v).rings = s.rings := rfl
@[simp] theorem setBar_streams (v) : (s.setBar x v).streams = s.streams := rfl
@[simp] theorem setBar_peers (v) : (s.setBar x v).peers = s.peers := rfl
@[simp] theorem setBar_txq (v) : (s.setBar x v).txq = s.txq := rfl
@[simp] theorem setBar_rdv (v) : (s.setBar x v).rdv = s.rdv := rfl
@[simp] theorem setBar_slots (v) : (s.setBar x v).slots = s.slots := rfl
@[simp] theorem setBar_ports (v) : (s.setBar x v).ports = s.ports := rfl
@[simp] theorem setBar_cnts (v) : (s.setBar x v).cnts = s.cnts := rfl
@[simp] theorem setBar_gcnt (v) : (s.setBar x v).gcnt = s.gcnt := rfl
@[simp] theorem setBar_hostl (v) : (s.setBar x v).hostl = s.hostl := rfl
@[simp] theorem setBar_fw (v) : (s.setBar x v).fw = s.fw := rfl
@[simp] theorem setBar_lc (v) : (s.setBar x v).lc = s.lc := rfl
@[simp] theorem setBar_bist (v) : (s.setBar x v).bist = s.bist := rfl
@[simp] theorem setBar_evqs (v) : (s.setBar x v).evqs = s.evqs := rfl
@[simp] theorem setBar_evInt (v) : (s.setBar x v).evInt = s.evInt := rfl
@[simp] theorem setBar_evNew (v) : (s.setBar x v).evNew = s.evNew := rfl
@[simp] theorem setBar_vecDue (v) : (s.setBar x v).vecDue = s.vecDue := rfl
@[simp] theorem setBar_taps (v) : (s.setBar x v).taps = s.taps := rfl

@[simp] theorem setNode_pending (v) : (s.setNode x v).pending = s.pending := rfl
@[simp] theorem setNode_work (v) : (s.setNode x v).work = s.work := rfl
@[simp] theorem setNode_free (v) : (s.setNode x v).free = s.free := rfl
@[simp] theorem setNode_now (v) : (s.setNode x v).now = s.now := rfl
@[simp] theorem setNode_mem (v) : (s.setNode x v).mem = s.mem := rfl
@[simp] theorem setNode_cfg (v) : (s.setNode x v).cfg = s.cfg := rfl
@[simp] theorem setNode_inForce (v) : (s.setNode x v).inForce = s.inForce := rfl
@[simp] theorem setNode_ready (v) : (s.setNode x v).ready = s.ready := rfl
@[simp] theorem setNode_droopLow (v) : (s.setNode x v).droopLow = s.droopLow := rfl
@[simp] theorem setNode_objs (v) : (s.setNode x v).objs = s.objs := rfl
@[simp] theorem setNode_dir (v) : (s.setNode x v).dir = s.dir := rfl
@[simp] theorem setNode_ctxs (v) : (s.setNode x v).ctxs = s.ctxs := rfl
@[simp] theorem setNode_seqs (v) : (s.setNode x v).seqs = s.seqs := rfl
@[simp] theorem setNode_icache (v) : (s.setNode x v).icache = s.icache := rfl
@[simp] theorem setNode_parts (v) : (s.setNode x v).parts = s.parts := rfl
@[simp] theorem setNode_ops (v) : (s.setNode x v).ops = s.ops := rfl
@[simp] theorem setNode_nextOp (v) : (s.setNode x v).nextOp = s.nextOp := rfl
@[simp] theorem setNode_tags (v) : (s.setNode x v).tags = s.tags := rfl
@[simp] theorem setNode_cqs (v) : (s.setNode x v).cqs = s.cqs := rfl
@[simp] theorem setNode_pend (v) : (s.setNode x v).pend = s.pend := rfl
@[simp] theorem setNode_chans (v) : (s.setNode x v).chans = s.chans := rfl
@[simp] theorem setNode_lines (v) : (s.setNode x v).lines = s.lines := rfl
@[simp] theorem setNode_clus (v) : (s.setNode x v).clus = s.clus := rfl
@[simp] theorem setNode_sems (v) : (s.setNode x v).sems = s.sems := rfl
@[simp] theorem setNode_rings (v) : (s.setNode x v).rings = s.rings := rfl
@[simp] theorem setNode_streams (v) : (s.setNode x v).streams = s.streams := rfl
@[simp] theorem setNode_peers (v) : (s.setNode x v).peers = s.peers := rfl
@[simp] theorem setNode_txq (v) : (s.setNode x v).txq = s.txq := rfl
@[simp] theorem setNode_rdv (v) : (s.setNode x v).rdv = s.rdv := rfl
@[simp] theorem setNode_slots (v) : (s.setNode x v).slots = s.slots := rfl
@[simp] theorem setNode_ports (v) : (s.setNode x v).ports = s.ports := rfl
@[simp] theorem setNode_cnts (v) : (s.setNode x v).cnts = s.cnts := rfl
@[simp] theorem setNode_gcnt (v) : (s.setNode x v).gcnt = s.gcnt := rfl
@[simp] theorem setNode_hostl (v) : (s.setNode x v).hostl = s.hostl := rfl
@[simp] theorem setNode_fw (v) : (s.setNode x v).fw = s.fw := rfl
@[simp] theorem setNode_lc (v) : (s.setNode x v).lc = s.lc := rfl
@[simp] theorem setNode_bist (v) : (s.setNode x v).bist = s.bist := rfl
@[simp] theorem setNode_evqs (v) : (s.setNode x v).evqs = s.evqs := rfl
@[simp] theorem setNode_evInt (v) : (s.setNode x v).evInt = s.evInt := rfl
@[simp] theorem setNode_evNew (v) : (s.setNode x v).evNew = s.evNew := rfl
@[simp] theorem setNode_vecDue (v) : (s.setNode x v).vecDue = s.vecDue := rfl
@[simp] theorem setNode_taps (v) : (s.setNode x v).taps = s.taps := rfl

@[simp] theorem setPeer_pending (v) : (s.setPeer x v).pending = s.pending := rfl
@[simp] theorem setPeer_work (v) : (s.setPeer x v).work = s.work := rfl
@[simp] theorem setPeer_free (v) : (s.setPeer x v).free = s.free := rfl
@[simp] theorem setPeer_now (v) : (s.setPeer x v).now = s.now := rfl
@[simp] theorem setPeer_mem (v) : (s.setPeer x v).mem = s.mem := rfl
@[simp] theorem setPeer_cfg (v) : (s.setPeer x v).cfg = s.cfg := rfl
@[simp] theorem setPeer_inForce (v) : (s.setPeer x v).inForce = s.inForce := rfl
@[simp] theorem setPeer_ready (v) : (s.setPeer x v).ready = s.ready := rfl
@[simp] theorem setPeer_droopLow (v) : (s.setPeer x v).droopLow = s.droopLow := rfl
@[simp] theorem setPeer_objs (v) : (s.setPeer x v).objs = s.objs := rfl
@[simp] theorem setPeer_dir (v) : (s.setPeer x v).dir = s.dir := rfl
@[simp] theorem setPeer_ctxs (v) : (s.setPeer x v).ctxs = s.ctxs := rfl
@[simp] theorem setPeer_seqs (v) : (s.setPeer x v).seqs = s.seqs := rfl
@[simp] theorem setPeer_icache (v) : (s.setPeer x v).icache = s.icache := rfl
@[simp] theorem setPeer_parts (v) : (s.setPeer x v).parts = s.parts := rfl
@[simp] theorem setPeer_ops (v) : (s.setPeer x v).ops = s.ops := rfl
@[simp] theorem setPeer_nextOp (v) : (s.setPeer x v).nextOp = s.nextOp := rfl
@[simp] theorem setPeer_tags (v) : (s.setPeer x v).tags = s.tags := rfl
@[simp] theorem setPeer_cqs (v) : (s.setPeer x v).cqs = s.cqs := rfl
@[simp] theorem setPeer_pend (v) : (s.setPeer x v).pend = s.pend := rfl
@[simp] theorem setPeer_chans (v) : (s.setPeer x v).chans = s.chans := rfl
@[simp] theorem setPeer_lines (v) : (s.setPeer x v).lines = s.lines := rfl
@[simp] theorem setPeer_clus (v) : (s.setPeer x v).clus = s.clus := rfl
@[simp] theorem setPeer_sems (v) : (s.setPeer x v).sems = s.sems := rfl
@[simp] theorem setPeer_rings (v) : (s.setPeer x v).rings = s.rings := rfl
@[simp] theorem setPeer_streams (v) : (s.setPeer x v).streams = s.streams := rfl
@[simp] theorem setPeer_txq (v) : (s.setPeer x v).txq = s.txq := rfl
@[simp] theorem setPeer_rdv (v) : (s.setPeer x v).rdv = s.rdv := rfl
@[simp] theorem setPeer_slots (v) : (s.setPeer x v).slots = s.slots := rfl
@[simp] theorem setPeer_ports (v) : (s.setPeer x v).ports = s.ports := rfl
@[simp] theorem setPeer_cnts (v) : (s.setPeer x v).cnts = s.cnts := rfl
@[simp] theorem setPeer_gcnt (v) : (s.setPeer x v).gcnt = s.gcnt := rfl
@[simp] theorem setPeer_hostl (v) : (s.setPeer x v).hostl = s.hostl := rfl
@[simp] theorem setPeer_fw (v) : (s.setPeer x v).fw = s.fw := rfl
@[simp] theorem setPeer_lc (v) : (s.setPeer x v).lc = s.lc := rfl
@[simp] theorem setPeer_bist (v) : (s.setPeer x v).bist = s.bist := rfl
@[simp] theorem setPeer_evqs (v) : (s.setPeer x v).evqs = s.evqs := rfl
@[simp] theorem setPeer_evInt (v) : (s.setPeer x v).evInt = s.evInt := rfl
@[simp] theorem setPeer_evNew (v) : (s.setPeer x v).evNew = s.evNew := rfl
@[simp] theorem setPeer_vecDue (v) : (s.setPeer x v).vecDue = s.vecDue := rfl
@[simp] theorem setPeer_taps (v) : (s.setPeer x v).taps = s.taps := rfl

@[simp] theorem setStream_pending (v) : (s.setStream x y v).pending = s.pending := rfl
@[simp] theorem setStream_work (v) : (s.setStream x y v).work = s.work := rfl
@[simp] theorem setStream_free (v) : (s.setStream x y v).free = s.free := rfl
@[simp] theorem setStream_now (v) : (s.setStream x y v).now = s.now := rfl
@[simp] theorem setStream_mem (v) : (s.setStream x y v).mem = s.mem := rfl
@[simp] theorem setStream_cfg (v) : (s.setStream x y v).cfg = s.cfg := rfl
@[simp] theorem setStream_inForce (v) : (s.setStream x y v).inForce = s.inForce := rfl
@[simp] theorem setStream_ready (v) : (s.setStream x y v).ready = s.ready := rfl
@[simp] theorem setStream_droopLow (v) : (s.setStream x y v).droopLow = s.droopLow := rfl
@[simp] theorem setStream_objs (v) : (s.setStream x y v).objs = s.objs := rfl
@[simp] theorem setStream_dir (v) : (s.setStream x y v).dir = s.dir := rfl
@[simp] theorem setStream_ctxs (v) : (s.setStream x y v).ctxs = s.ctxs := rfl
@[simp] theorem setStream_seqs (v) : (s.setStream x y v).seqs = s.seqs := rfl
@[simp] theorem setStream_icache (v) : (s.setStream x y v).icache = s.icache := rfl
@[simp] theorem setStream_parts (v) : (s.setStream x y v).parts = s.parts := rfl
@[simp] theorem setStream_ops (v) : (s.setStream x y v).ops = s.ops := rfl
@[simp] theorem setStream_nextOp (v) : (s.setStream x y v).nextOp = s.nextOp := rfl
@[simp] theorem setStream_tags (v) : (s.setStream x y v).tags = s.tags := rfl
@[simp] theorem setStream_cqs (v) : (s.setStream x y v).cqs = s.cqs := rfl
@[simp] theorem setStream_pend (v) : (s.setStream x y v).pend = s.pend := rfl
@[simp] theorem setStream_chans (v) : (s.setStream x y v).chans = s.chans := rfl
@[simp] theorem setStream_lines (v) : (s.setStream x y v).lines = s.lines := rfl
@[simp] theorem setStream_clus (v) : (s.setStream x y v).clus = s.clus := rfl
@[simp] theorem setStream_sems (v) : (s.setStream x y v).sems = s.sems := rfl
@[simp] theorem setStream_rings (v) : (s.setStream x y v).rings = s.rings := rfl
@[simp] theorem setStream_peers (v) : (s.setStream x y v).peers = s.peers := rfl
@[simp] theorem setStream_txq (v) : (s.setStream x y v).txq = s.txq := rfl
@[simp] theorem setStream_rdv (v) : (s.setStream x y v).rdv = s.rdv := rfl
@[simp] theorem setStream_slots (v) : (s.setStream x y v).slots = s.slots := rfl
@[simp] theorem setStream_ports (v) : (s.setStream x y v).ports = s.ports := rfl
@[simp] theorem setStream_cnts (v) : (s.setStream x y v).cnts = s.cnts := rfl
@[simp] theorem setStream_gcnt (v) : (s.setStream x y v).gcnt = s.gcnt := rfl
@[simp] theorem setStream_hostl (v) : (s.setStream x y v).hostl = s.hostl := rfl
@[simp] theorem setStream_fw (v) : (s.setStream x y v).fw = s.fw := rfl
@[simp] theorem setStream_lc (v) : (s.setStream x y v).lc = s.lc := rfl
@[simp] theorem setStream_bist (v) : (s.setStream x y v).bist = s.bist := rfl
@[simp] theorem setStream_evqs (v) : (s.setStream x y v).evqs = s.evqs := rfl
@[simp] theorem setStream_evInt (v) : (s.setStream x y v).evInt = s.evInt := rfl
@[simp] theorem setStream_evNew (v) : (s.setStream x y v).evNew = s.evNew := rfl
@[simp] theorem setStream_vecDue (v) : (s.setStream x y v).vecDue = s.vecDue := rfl
@[simp] theorem setStream_taps (v) : (s.setStream x y v).taps = s.taps := rfl

@[simp] theorem setTgrp_pending (v) : (s.setTgrp x v).pending = s.pending := rfl
@[simp] theorem setTgrp_work (v) : (s.setTgrp x v).work = s.work := rfl
@[simp] theorem setTgrp_free (v) : (s.setTgrp x v).free = s.free := rfl
@[simp] theorem setTgrp_now (v) : (s.setTgrp x v).now = s.now := rfl
@[simp] theorem setTgrp_mem (v) : (s.setTgrp x v).mem = s.mem := rfl
@[simp] theorem setTgrp_cfg (v) : (s.setTgrp x v).cfg = s.cfg := rfl
@[simp] theorem setTgrp_inForce (v) : (s.setTgrp x v).inForce = s.inForce := rfl
@[simp] theorem setTgrp_ready (v) : (s.setTgrp x v).ready = s.ready := rfl
@[simp] theorem setTgrp_droopLow (v) : (s.setTgrp x v).droopLow = s.droopLow := rfl
@[simp] theorem setTgrp_objs (v) : (s.setTgrp x v).objs = s.objs := rfl
@[simp] theorem setTgrp_dir (v) : (s.setTgrp x v).dir = s.dir := rfl
@[simp] theorem setTgrp_ctxs (v) : (s.setTgrp x v).ctxs = s.ctxs := rfl
@[simp] theorem setTgrp_seqs (v) : (s.setTgrp x v).seqs = s.seqs := rfl
@[simp] theorem setTgrp_icache (v) : (s.setTgrp x v).icache = s.icache := rfl
@[simp] theorem setTgrp_parts (v) : (s.setTgrp x v).parts = s.parts := rfl
@[simp] theorem setTgrp_ops (v) : (s.setTgrp x v).ops = s.ops := rfl
@[simp] theorem setTgrp_nextOp (v) : (s.setTgrp x v).nextOp = s.nextOp := rfl
@[simp] theorem setTgrp_tags (v) : (s.setTgrp x v).tags = s.tags := rfl
@[simp] theorem setTgrp_cqs (v) : (s.setTgrp x v).cqs = s.cqs := rfl
@[simp] theorem setTgrp_pend (v) : (s.setTgrp x v).pend = s.pend := rfl
@[simp] theorem setTgrp_chans (v) : (s.setTgrp x v).chans = s.chans := rfl
@[simp] theorem setTgrp_lines (v) : (s.setTgrp x v).lines = s.lines := rfl
@[simp] theorem setTgrp_clus (v) : (s.setTgrp x v).clus = s.clus := rfl
@[simp] theorem setTgrp_sems (v) : (s.setTgrp x v).sems = s.sems := rfl
@[simp] theorem setTgrp_rings (v) : (s.setTgrp x v).rings = s.rings := rfl
@[simp] theorem setTgrp_streams (v) : (s.setTgrp x v).streams = s.streams := rfl
@[simp] theorem setTgrp_peers (v) : (s.setTgrp x v).peers = s.peers := rfl
@[simp] theorem setTgrp_txq (v) : (s.setTgrp x v).txq = s.txq := rfl
@[simp] theorem setTgrp_rdv (v) : (s.setTgrp x v).rdv = s.rdv := rfl
@[simp] theorem setTgrp_slots (v) : (s.setTgrp x v).slots = s.slots := rfl
@[simp] theorem setTgrp_ports (v) : (s.setTgrp x v).ports = s.ports := rfl
@[simp] theorem setTgrp_cnts (v) : (s.setTgrp x v).cnts = s.cnts := rfl
@[simp] theorem setTgrp_gcnt (v) : (s.setTgrp x v).gcnt = s.gcnt := rfl
@[simp] theorem setTgrp_hostl (v) : (s.setTgrp x v).hostl = s.hostl := rfl
@[simp] theorem setTgrp_fw (v) : (s.setTgrp x v).fw = s.fw := rfl
@[simp] theorem setTgrp_lc (v) : (s.setTgrp x v).lc = s.lc := rfl
@[simp] theorem setTgrp_bist (v) : (s.setTgrp x v).bist = s.bist := rfl
@[simp] theorem setTgrp_evqs (v) : (s.setTgrp x v).evqs = s.evqs := rfl
@[simp] theorem setTgrp_evInt (v) : (s.setTgrp x v).evInt = s.evInt := rfl
@[simp] theorem setTgrp_evNew (v) : (s.setTgrp x v).evNew = s.evNew := rfl
@[simp] theorem setTgrp_vecDue (v) : (s.setTgrp x v).vecDue = s.vecDue := rfl
@[simp] theorem setTgrp_taps (v) : (s.setTgrp x v).taps = s.taps := rfl

@[simp] theorem setHset_pending (v) : (s.setHset x v).pending = s.pending := rfl
@[simp] theorem setHset_work (v) : (s.setHset x v).work = s.work := rfl
@[simp] theorem setHset_free (v) : (s.setHset x v).free = s.free := rfl
@[simp] theorem setHset_now (v) : (s.setHset x v).now = s.now := rfl
@[simp] theorem setHset_mem (v) : (s.setHset x v).mem = s.mem := rfl
@[simp] theorem setHset_cfg (v) : (s.setHset x v).cfg = s.cfg := rfl
@[simp] theorem setHset_inForce (v) : (s.setHset x v).inForce = s.inForce := rfl
@[simp] theorem setHset_ready (v) : (s.setHset x v).ready = s.ready := rfl
@[simp] theorem setHset_droopLow (v) : (s.setHset x v).droopLow = s.droopLow := rfl
@[simp] theorem setHset_objs (v) : (s.setHset x v).objs = s.objs := rfl
@[simp] theorem setHset_dir (v) : (s.setHset x v).dir = s.dir := rfl
@[simp] theorem setHset_ctxs (v) : (s.setHset x v).ctxs = s.ctxs := rfl
@[simp] theorem setHset_seqs (v) : (s.setHset x v).seqs = s.seqs := rfl
@[simp] theorem setHset_icache (v) : (s.setHset x v).icache = s.icache := rfl
@[simp] theorem setHset_parts (v) : (s.setHset x v).parts = s.parts := rfl
@[simp] theorem setHset_ops (v) : (s.setHset x v).ops = s.ops := rfl
@[simp] theorem setHset_nextOp (v) : (s.setHset x v).nextOp = s.nextOp := rfl
@[simp] theorem setHset_tags (v) : (s.setHset x v).tags = s.tags := rfl
@[simp] theorem setHset_cqs (v) : (s.setHset x v).cqs = s.cqs := rfl
@[simp] theorem setHset_pend (v) : (s.setHset x v).pend = s.pend := rfl
@[simp] theorem setHset_chans (v) : (s.setHset x v).chans = s.chans := rfl
@[simp] theorem setHset_lines (v) : (s.setHset x v).lines = s.lines := rfl
@[simp] theorem setHset_clus (v) : (s.setHset x v).clus = s.clus := rfl
@[simp] theorem setHset_sems (v) : (s.setHset x v).sems = s.sems := rfl
@[simp] theorem setHset_rings (v) : (s.setHset x v).rings = s.rings := rfl
@[simp] theorem setHset_streams (v) : (s.setHset x v).streams = s.streams := rfl
@[simp] theorem setHset_peers (v) : (s.setHset x v).peers = s.peers := rfl
@[simp] theorem setHset_txq (v) : (s.setHset x v).txq = s.txq := rfl
@[simp] theorem setHset_rdv (v) : (s.setHset x v).rdv = s.rdv := rfl
@[simp] theorem setHset_slots (v) : (s.setHset x v).slots = s.slots := rfl
@[simp] theorem setHset_ports (v) : (s.setHset x v).ports = s.ports := rfl
@[simp] theorem setHset_cnts (v) : (s.setHset x v).cnts = s.cnts := rfl
@[simp] theorem setHset_gcnt (v) : (s.setHset x v).gcnt = s.gcnt := rfl
@[simp] theorem setHset_hostl (v) : (s.setHset x v).hostl = s.hostl := rfl
@[simp] theorem setHset_fw (v) : (s.setHset x v).fw = s.fw := rfl
@[simp] theorem setHset_lc (v) : (s.setHset x v).lc = s.lc := rfl
@[simp] theorem setHset_bist (v) : (s.setHset x v).bist = s.bist := rfl
@[simp] theorem setHset_evqs (v) : (s.setHset x v).evqs = s.evqs := rfl
@[simp] theorem setHset_evInt (v) : (s.setHset x v).evInt = s.evInt := rfl
@[simp] theorem setHset_evNew (v) : (s.setHset x v).evNew = s.evNew := rfl
@[simp] theorem setHset_vecDue (v) : (s.setHset x v).vecDue = s.vecDue := rfl
@[simp] theorem setHset_taps (v) : (s.setHset x v).taps = s.taps := rfl

@[simp] theorem setSlot_pending (v) : (s.setSlot x v).pending = s.pending := rfl
@[simp] theorem setSlot_work (v) : (s.setSlot x v).work = s.work := rfl
@[simp] theorem setSlot_free (v) : (s.setSlot x v).free = s.free := rfl
@[simp] theorem setSlot_now (v) : (s.setSlot x v).now = s.now := rfl
@[simp] theorem setSlot_mem (v) : (s.setSlot x v).mem = s.mem := rfl
@[simp] theorem setSlot_cfg (v) : (s.setSlot x v).cfg = s.cfg := rfl
@[simp] theorem setSlot_inForce (v) : (s.setSlot x v).inForce = s.inForce := rfl
@[simp] theorem setSlot_ready (v) : (s.setSlot x v).ready = s.ready := rfl
@[simp] theorem setSlot_droopLow (v) : (s.setSlot x v).droopLow = s.droopLow := rfl
@[simp] theorem setSlot_objs (v) : (s.setSlot x v).objs = s.objs := rfl
@[simp] theorem setSlot_dir (v) : (s.setSlot x v).dir = s.dir := rfl
@[simp] theorem setSlot_ctxs (v) : (s.setSlot x v).ctxs = s.ctxs := rfl
@[simp] theorem setSlot_seqs (v) : (s.setSlot x v).seqs = s.seqs := rfl
@[simp] theorem setSlot_icache (v) : (s.setSlot x v).icache = s.icache := rfl
@[simp] theorem setSlot_parts (v) : (s.setSlot x v).parts = s.parts := rfl
@[simp] theorem setSlot_ops (v) : (s.setSlot x v).ops = s.ops := rfl
@[simp] theorem setSlot_nextOp (v) : (s.setSlot x v).nextOp = s.nextOp := rfl
@[simp] theorem setSlot_tags (v) : (s.setSlot x v).tags = s.tags := rfl
@[simp] theorem setSlot_cqs (v) : (s.setSlot x v).cqs = s.cqs := rfl
@[simp] theorem setSlot_pend (v) : (s.setSlot x v).pend = s.pend := rfl
@[simp] theorem setSlot_chans (v) : (s.setSlot x v).chans = s.chans := rfl
@[simp] theorem setSlot_lines (v) : (s.setSlot x v).lines = s.lines := rfl
@[simp] theorem setSlot_clus (v) : (s.setSlot x v).clus = s.clus := rfl
@[simp] theorem setSlot_sems (v) : (s.setSlot x v).sems = s.sems := rfl
@[simp] theorem setSlot_rings (v) : (s.setSlot x v).rings = s.rings := rfl
@[simp] theorem setSlot_streams (v) : (s.setSlot x v).streams = s.streams := rfl
@[simp] theorem setSlot_peers (v) : (s.setSlot x v).peers = s.peers := rfl
@[simp] theorem setSlot_txq (v) : (s.setSlot x v).txq = s.txq := rfl
@[simp] theorem setSlot_rdv (v) : (s.setSlot x v).rdv = s.rdv := rfl
@[simp] theorem setSlot_ports (v) : (s.setSlot x v).ports = s.ports := rfl
@[simp] theorem setSlot_cnts (v) : (s.setSlot x v).cnts = s.cnts := rfl
@[simp] theorem setSlot_gcnt (v) : (s.setSlot x v).gcnt = s.gcnt := rfl
@[simp] theorem setSlot_hostl (v) : (s.setSlot x v).hostl = s.hostl := rfl
@[simp] theorem setSlot_fw (v) : (s.setSlot x v).fw = s.fw := rfl
@[simp] theorem setSlot_lc (v) : (s.setSlot x v).lc = s.lc := rfl
@[simp] theorem setSlot_bist (v) : (s.setSlot x v).bist = s.bist := rfl
@[simp] theorem setSlot_evqs (v) : (s.setSlot x v).evqs = s.evqs := rfl
@[simp] theorem setSlot_evInt (v) : (s.setSlot x v).evInt = s.evInt := rfl
@[simp] theorem setSlot_evNew (v) : (s.setSlot x v).evNew = s.evNew := rfl
@[simp] theorem setSlot_vecDue (v) : (s.setSlot x v).vecDue = s.vecDue := rfl
@[simp] theorem setSlot_taps (v) : (s.setSlot x v).taps = s.taps := rfl

@[simp] theorem setPort_pending (v) : (s.setPort x v).pending = s.pending := rfl
@[simp] theorem setPort_work (v) : (s.setPort x v).work = s.work := rfl
@[simp] theorem setPort_free (v) : (s.setPort x v).free = s.free := rfl
@[simp] theorem setPort_now (v) : (s.setPort x v).now = s.now := rfl
@[simp] theorem setPort_mem (v) : (s.setPort x v).mem = s.mem := rfl
@[simp] theorem setPort_cfg (v) : (s.setPort x v).cfg = s.cfg := rfl
@[simp] theorem setPort_inForce (v) : (s.setPort x v).inForce = s.inForce := rfl
@[simp] theorem setPort_ready (v) : (s.setPort x v).ready = s.ready := rfl
@[simp] theorem setPort_droopLow (v) : (s.setPort x v).droopLow = s.droopLow := rfl
@[simp] theorem setPort_objs (v) : (s.setPort x v).objs = s.objs := rfl
@[simp] theorem setPort_dir (v) : (s.setPort x v).dir = s.dir := rfl
@[simp] theorem setPort_ctxs (v) : (s.setPort x v).ctxs = s.ctxs := rfl
@[simp] theorem setPort_seqs (v) : (s.setPort x v).seqs = s.seqs := rfl
@[simp] theorem setPort_icache (v) : (s.setPort x v).icache = s.icache := rfl
@[simp] theorem setPort_parts (v) : (s.setPort x v).parts = s.parts := rfl
@[simp] theorem setPort_ops (v) : (s.setPort x v).ops = s.ops := rfl
@[simp] theorem setPort_nextOp (v) : (s.setPort x v).nextOp = s.nextOp := rfl
@[simp] theorem setPort_tags (v) : (s.setPort x v).tags = s.tags := rfl
@[simp] theorem setPort_cqs (v) : (s.setPort x v).cqs = s.cqs := rfl
@[simp] theorem setPort_pend (v) : (s.setPort x v).pend = s.pend := rfl
@[simp] theorem setPort_chans (v) : (s.setPort x v).chans = s.chans := rfl
@[simp] theorem setPort_lines (v) : (s.setPort x v).lines = s.lines := rfl
@[simp] theorem setPort_clus (v) : (s.setPort x v).clus = s.clus := rfl
@[simp] theorem setPort_sems (v) : (s.setPort x v).sems = s.sems := rfl
@[simp] theorem setPort_rings (v) : (s.setPort x v).rings = s.rings := rfl
@[simp] theorem setPort_streams (v) : (s.setPort x v).streams = s.streams := rfl
@[simp] theorem setPort_peers (v) : (s.setPort x v).peers = s.peers := rfl
@[simp] theorem setPort_txq (v) : (s.setPort x v).txq = s.txq := rfl
@[simp] theorem setPort_rdv (v) : (s.setPort x v).rdv = s.rdv := rfl
@[simp] theorem setPort_slots (v) : (s.setPort x v).slots = s.slots := rfl
@[simp] theorem setPort_cnts (v) : (s.setPort x v).cnts = s.cnts := rfl
@[simp] theorem setPort_gcnt (v) : (s.setPort x v).gcnt = s.gcnt := rfl
@[simp] theorem setPort_hostl (v) : (s.setPort x v).hostl = s.hostl := rfl
@[simp] theorem setPort_fw (v) : (s.setPort x v).fw = s.fw := rfl
@[simp] theorem setPort_lc (v) : (s.setPort x v).lc = s.lc := rfl
@[simp] theorem setPort_bist (v) : (s.setPort x v).bist = s.bist := rfl
@[simp] theorem setPort_evqs (v) : (s.setPort x v).evqs = s.evqs := rfl
@[simp] theorem setPort_evInt (v) : (s.setPort x v).evInt = s.evInt := rfl
@[simp] theorem setPort_evNew (v) : (s.setPort x v).evNew = s.evNew := rfl
@[simp] theorem setPort_vecDue (v) : (s.setPort x v).vecDue = s.vecDue := rfl
@[simp] theorem setPort_taps (v) : (s.setPort x v).taps = s.taps := rfl

@[simp] theorem modPort_pending (v) : (s.modPort x v).pending = s.pending := rfl
@[simp] theorem modPort_work (v) : (s.modPort x v).work = s.work := rfl
@[simp] theorem modPort_free (v) : (s.modPort x v).free = s.free := rfl
@[simp] theorem modPort_now (v) : (s.modPort x v).now = s.now := rfl
@[simp] theorem modPort_mem (v) : (s.modPort x v).mem = s.mem := rfl
@[simp] theorem modPort_cfg (v) : (s.modPort x v).cfg = s.cfg := rfl
@[simp] theorem modPort_inForce (v) : (s.modPort x v).inForce = s.inForce := rfl
@[simp] theorem modPort_ready (v) : (s.modPort x v).ready = s.ready := rfl
@[simp] theorem modPort_droopLow (v) : (s.modPort x v).droopLow = s.droopLow := rfl
@[simp] theorem modPort_objs (v) : (s.modPort x v).objs = s.objs := rfl
@[simp] theorem modPort_dir (v) : (s.modPort x v).dir = s.dir := rfl
@[simp] theorem modPort_ctxs (v) : (s.modPort x v).ctxs = s.ctxs := rfl
@[simp] theorem modPort_seqs (v) : (s.modPort x v).seqs = s.seqs := rfl
@[simp] theorem modPort_icache (v) : (s.modPort x v).icache = s.icache := rfl
@[simp] theorem modPort_parts (v) : (s.modPort x v).parts = s.parts := rfl
@[simp] theorem modPort_ops (v) : (s.modPort x v).ops = s.ops := rfl
@[simp] theorem modPort_nextOp (v) : (s.modPort x v).nextOp = s.nextOp := rfl
@[simp] theorem modPort_tags (v) : (s.modPort x v).tags = s.tags := rfl
@[simp] theorem modPort_cqs (v) : (s.modPort x v).cqs = s.cqs := rfl
@[simp] theorem modPort_pend (v) : (s.modPort x v).pend = s.pend := rfl
@[simp] theorem modPort_chans (v) : (s.modPort x v).chans = s.chans := rfl
@[simp] theorem modPort_lines (v) : (s.modPort x v).lines = s.lines := rfl
@[simp] theorem modPort_clus (v) : (s.modPort x v).clus = s.clus := rfl
@[simp] theorem modPort_sems (v) : (s.modPort x v).sems = s.sems := rfl
@[simp] theorem modPort_rings (v) : (s.modPort x v).rings = s.rings := rfl
@[simp] theorem modPort_streams (v) : (s.modPort x v).streams = s.streams := rfl
@[simp] theorem modPort_peers (v) : (s.modPort x v).peers = s.peers := rfl
@[simp] theorem modPort_txq (v) : (s.modPort x v).txq = s.txq := rfl
@[simp] theorem modPort_rdv (v) : (s.modPort x v).rdv = s.rdv := rfl
@[simp] theorem modPort_slots (v) : (s.modPort x v).slots = s.slots := rfl
@[simp] theorem modPort_cnts (v) : (s.modPort x v).cnts = s.cnts := rfl
@[simp] theorem modPort_gcnt (v) : (s.modPort x v).gcnt = s.gcnt := rfl
@[simp] theorem modPort_hostl (v) : (s.modPort x v).hostl = s.hostl := rfl
@[simp] theorem modPort_fw (v) : (s.modPort x v).fw = s.fw := rfl
@[simp] theorem modPort_lc (v) : (s.modPort x v).lc = s.lc := rfl
@[simp] theorem modPort_bist (v) : (s.modPort x v).bist = s.bist := rfl
@[simp] theorem modPort_evqs (v) : (s.modPort x v).evqs = s.evqs := rfl
@[simp] theorem modPort_evInt (v) : (s.modPort x v).evInt = s.evInt := rfl
@[simp] theorem modPort_evNew (v) : (s.modPort x v).evNew = s.evNew := rfl
@[simp] theorem modPort_vecDue (v) : (s.modPort x v).vecDue = s.vecDue := rfl
@[simp] theorem modPort_taps (v) : (s.modPort x v).taps = s.taps := rfl

@[simp] theorem setGroup_pending (v) : (s.setGroup x v).pending = s.pending := rfl
@[simp] theorem setGroup_work (v) : (s.setGroup x v).work = s.work := rfl
@[simp] theorem setGroup_free (v) : (s.setGroup x v).free = s.free := rfl
@[simp] theorem setGroup_now (v) : (s.setGroup x v).now = s.now := rfl
@[simp] theorem setGroup_mem (v) : (s.setGroup x v).mem = s.mem := rfl
@[simp] theorem setGroup_cfg (v) : (s.setGroup x v).cfg = s.cfg := rfl
@[simp] theorem setGroup_inForce (v) : (s.setGroup x v).inForce = s.inForce := rfl
@[simp] theorem setGroup_ready (v) : (s.setGroup x v).ready = s.ready := rfl
@[simp] theorem setGroup_droopLow (v) : (s.setGroup x v).droopLow = s.droopLow := rfl
@[simp] theorem setGroup_objs (v) : (s.setGroup x v).objs = s.objs := rfl
@[simp] theorem setGroup_dir (v) : (s.setGroup x v).dir = s.dir := rfl
@[simp] theorem setGroup_ctxs (v) : (s.setGroup x v).ctxs = s.ctxs := rfl
@[simp] theorem setGroup_seqs (v) : (s.setGroup x v).seqs = s.seqs := rfl
@[simp] theorem setGroup_icache (v) : (s.setGroup x v).icache = s.icache := rfl
@[simp] theorem setGroup_parts (v) : (s.setGroup x v).parts = s.parts := rfl
@[simp] theorem setGroup_ops (v) : (s.setGroup x v).ops = s.ops := rfl
@[simp] theorem setGroup_nextOp (v) : (s.setGroup x v).nextOp = s.nextOp := rfl
@[simp] theorem setGroup_tags (v) : (s.setGroup x v).tags = s.tags := rfl
@[simp] theorem setGroup_cqs (v) : (s.setGroup x v).cqs = s.cqs := rfl
@[simp] theorem setGroup_pend (v) : (s.setGroup x v).pend = s.pend := rfl
@[simp] theorem setGroup_chans (v) : (s.setGroup x v).chans = s.chans := rfl
@[simp] theorem setGroup_lines (v) : (s.setGroup x v).lines = s.lines := rfl
@[simp] theorem setGroup_clus (v) : (s.setGroup x v).clus = s.clus := rfl
@[simp] theorem setGroup_sems (v) : (s.setGroup x v).sems = s.sems := rfl
@[simp] theorem setGroup_rings (v) : (s.setGroup x v).rings = s.rings := rfl
@[simp] theorem setGroup_streams (v) : (s.setGroup x v).streams = s.streams := rfl
@[simp] theorem setGroup_peers (v) : (s.setGroup x v).peers = s.peers := rfl
@[simp] theorem setGroup_txq (v) : (s.setGroup x v).txq = s.txq := rfl
@[simp] theorem setGroup_rdv (v) : (s.setGroup x v).rdv = s.rdv := rfl
@[simp] theorem setGroup_slots (v) : (s.setGroup x v).slots = s.slots := rfl
@[simp] theorem setGroup_ports (v) : (s.setGroup x v).ports = s.ports := rfl
@[simp] theorem setGroup_cnts (v) : (s.setGroup x v).cnts = s.cnts := rfl
@[simp] theorem setGroup_gcnt (v) : (s.setGroup x v).gcnt = s.gcnt := rfl
@[simp] theorem setGroup_hostl (v) : (s.setGroup x v).hostl = s.hostl := rfl
@[simp] theorem setGroup_fw (v) : (s.setGroup x v).fw = s.fw := rfl
@[simp] theorem setGroup_lc (v) : (s.setGroup x v).lc = s.lc := rfl
@[simp] theorem setGroup_bist (v) : (s.setGroup x v).bist = s.bist := rfl
@[simp] theorem setGroup_evqs (v) : (s.setGroup x v).evqs = s.evqs := rfl
@[simp] theorem setGroup_evInt (v) : (s.setGroup x v).evInt = s.evInt := rfl
@[simp] theorem setGroup_evNew (v) : (s.setGroup x v).evNew = s.evNew := rfl
@[simp] theorem setGroup_vecDue (v) : (s.setGroup x v).vecDue = s.vecDue := rfl
@[simp] theorem setGroup_taps (v) : (s.setGroup x v).taps = s.taps := rfl

@[simp] theorem setEvq_pending (v) : (s.setEvq x v).pending = s.pending := rfl
@[simp] theorem setEvq_work (v) : (s.setEvq x v).work = s.work := rfl
@[simp] theorem setEvq_free (v) : (s.setEvq x v).free = s.free := rfl
@[simp] theorem setEvq_now (v) : (s.setEvq x v).now = s.now := rfl
@[simp] theorem setEvq_mem (v) : (s.setEvq x v).mem = s.mem := rfl
@[simp] theorem setEvq_cfg (v) : (s.setEvq x v).cfg = s.cfg := rfl
@[simp] theorem setEvq_inForce (v) : (s.setEvq x v).inForce = s.inForce := rfl
@[simp] theorem setEvq_ready (v) : (s.setEvq x v).ready = s.ready := rfl
@[simp] theorem setEvq_droopLow (v) : (s.setEvq x v).droopLow = s.droopLow := rfl
@[simp] theorem setEvq_objs (v) : (s.setEvq x v).objs = s.objs := rfl
@[simp] theorem setEvq_dir (v) : (s.setEvq x v).dir = s.dir := rfl
@[simp] theorem setEvq_ctxs (v) : (s.setEvq x v).ctxs = s.ctxs := rfl
@[simp] theorem setEvq_seqs (v) : (s.setEvq x v).seqs = s.seqs := rfl
@[simp] theorem setEvq_icache (v) : (s.setEvq x v).icache = s.icache := rfl
@[simp] theorem setEvq_parts (v) : (s.setEvq x v).parts = s.parts := rfl
@[simp] theorem setEvq_ops (v) : (s.setEvq x v).ops = s.ops := rfl
@[simp] theorem setEvq_nextOp (v) : (s.setEvq x v).nextOp = s.nextOp := rfl
@[simp] theorem setEvq_tags (v) : (s.setEvq x v).tags = s.tags := rfl
@[simp] theorem setEvq_cqs (v) : (s.setEvq x v).cqs = s.cqs := rfl
@[simp] theorem setEvq_pend (v) : (s.setEvq x v).pend = s.pend := rfl
@[simp] theorem setEvq_chans (v) : (s.setEvq x v).chans = s.chans := rfl
@[simp] theorem setEvq_lines (v) : (s.setEvq x v).lines = s.lines := rfl
@[simp] theorem setEvq_clus (v) : (s.setEvq x v).clus = s.clus := rfl
@[simp] theorem setEvq_sems (v) : (s.setEvq x v).sems = s.sems := rfl
@[simp] theorem setEvq_rings (v) : (s.setEvq x v).rings = s.rings := rfl
@[simp] theorem setEvq_streams (v) : (s.setEvq x v).streams = s.streams := rfl
@[simp] theorem setEvq_peers (v) : (s.setEvq x v).peers = s.peers := rfl
@[simp] theorem setEvq_txq (v) : (s.setEvq x v).txq = s.txq := rfl
@[simp] theorem setEvq_rdv (v) : (s.setEvq x v).rdv = s.rdv := rfl
@[simp] theorem setEvq_slots (v) : (s.setEvq x v).slots = s.slots := rfl
@[simp] theorem setEvq_ports (v) : (s.setEvq x v).ports = s.ports := rfl
@[simp] theorem setEvq_cnts (v) : (s.setEvq x v).cnts = s.cnts := rfl
@[simp] theorem setEvq_gcnt (v) : (s.setEvq x v).gcnt = s.gcnt := rfl
@[simp] theorem setEvq_hostl (v) : (s.setEvq x v).hostl = s.hostl := rfl
@[simp] theorem setEvq_fw (v) : (s.setEvq x v).fw = s.fw := rfl
@[simp] theorem setEvq_lc (v) : (s.setEvq x v).lc = s.lc := rfl
@[simp] theorem setEvq_bist (v) : (s.setEvq x v).bist = s.bist := rfl
@[simp] theorem setEvq_evInt (v) : (s.setEvq x v).evInt = s.evInt := rfl
@[simp] theorem setEvq_evNew (v) : (s.setEvq x v).evNew = s.evNew := rfl
@[simp] theorem setEvq_vecDue (v) : (s.setEvq x v).vecDue = s.vecDue := rfl
@[simp] theorem setEvq_taps (v) : (s.setEvq x v).taps = s.taps := rfl

@[simp] theorem setTap_pending (v) : (s.setTap x v).pending = s.pending := rfl
@[simp] theorem setTap_work (v) : (s.setTap x v).work = s.work := rfl
@[simp] theorem setTap_free (v) : (s.setTap x v).free = s.free := rfl
@[simp] theorem setTap_now (v) : (s.setTap x v).now = s.now := rfl
@[simp] theorem setTap_mem (v) : (s.setTap x v).mem = s.mem := rfl
@[simp] theorem setTap_cfg (v) : (s.setTap x v).cfg = s.cfg := rfl
@[simp] theorem setTap_inForce (v) : (s.setTap x v).inForce = s.inForce := rfl
@[simp] theorem setTap_ready (v) : (s.setTap x v).ready = s.ready := rfl
@[simp] theorem setTap_droopLow (v) : (s.setTap x v).droopLow = s.droopLow := rfl
@[simp] theorem setTap_objs (v) : (s.setTap x v).objs = s.objs := rfl
@[simp] theorem setTap_dir (v) : (s.setTap x v).dir = s.dir := rfl
@[simp] theorem setTap_ctxs (v) : (s.setTap x v).ctxs = s.ctxs := rfl
@[simp] theorem setTap_seqs (v) : (s.setTap x v).seqs = s.seqs := rfl
@[simp] theorem setTap_icache (v) : (s.setTap x v).icache = s.icache := rfl
@[simp] theorem setTap_parts (v) : (s.setTap x v).parts = s.parts := rfl
@[simp] theorem setTap_ops (v) : (s.setTap x v).ops = s.ops := rfl
@[simp] theorem setTap_nextOp (v) : (s.setTap x v).nextOp = s.nextOp := rfl
@[simp] theorem setTap_tags (v) : (s.setTap x v).tags = s.tags := rfl
@[simp] theorem setTap_cqs (v) : (s.setTap x v).cqs = s.cqs := rfl
@[simp] theorem setTap_pend (v) : (s.setTap x v).pend = s.pend := rfl
@[simp] theorem setTap_chans (v) : (s.setTap x v).chans = s.chans := rfl
@[simp] theorem setTap_lines (v) : (s.setTap x v).lines = s.lines := rfl
@[simp] theorem setTap_clus (v) : (s.setTap x v).clus = s.clus := rfl
@[simp] theorem setTap_sems (v) : (s.setTap x v).sems = s.sems := rfl
@[simp] theorem setTap_rings (v) : (s.setTap x v).rings = s.rings := rfl
@[simp] theorem setTap_streams (v) : (s.setTap x v).streams = s.streams := rfl
@[simp] theorem setTap_peers (v) : (s.setTap x v).peers = s.peers := rfl
@[simp] theorem setTap_txq (v) : (s.setTap x v).txq = s.txq := rfl
@[simp] theorem setTap_rdv (v) : (s.setTap x v).rdv = s.rdv := rfl
@[simp] theorem setTap_slots (v) : (s.setTap x v).slots = s.slots := rfl
@[simp] theorem setTap_ports (v) : (s.setTap x v).ports = s.ports := rfl
@[simp] theorem setTap_cnts (v) : (s.setTap x v).cnts = s.cnts := rfl
@[simp] theorem setTap_gcnt (v) : (s.setTap x v).gcnt = s.gcnt := rfl
@[simp] theorem setTap_hostl (v) : (s.setTap x v).hostl = s.hostl := rfl
@[simp] theorem setTap_fw (v) : (s.setTap x v).fw = s.fw := rfl
@[simp] theorem setTap_lc (v) : (s.setTap x v).lc = s.lc := rfl
@[simp] theorem setTap_bist (v) : (s.setTap x v).bist = s.bist := rfl
@[simp] theorem setTap_evqs (v) : (s.setTap x v).evqs = s.evqs := rfl
@[simp] theorem setTap_evInt (v) : (s.setTap x v).evInt = s.evInt := rfl
@[simp] theorem setTap_evNew (v) : (s.setTap x v).evNew = s.evNew := rfl
@[simp] theorem setTap_vecDue (v) : (s.setTap x v).vecDue = s.vecDue := rfl

@[simp] theorem setCore_pending (v) : (s.setCore x v).pending = s.pending := rfl
@[simp] theorem setCore_work (v) : (s.setCore x v).work = s.work := rfl
@[simp] theorem setCore_free (v) : (s.setCore x v).free = s.free := rfl
@[simp] theorem setCore_now (v) : (s.setCore x v).now = s.now := rfl
@[simp] theorem setCore_mem (v) : (s.setCore x v).mem = s.mem := rfl
@[simp] theorem setCore_cfg (v) : (s.setCore x v).cfg = s.cfg := rfl
@[simp] theorem setCore_inForce (v) : (s.setCore x v).inForce = s.inForce := rfl
@[simp] theorem setCore_ready (v) : (s.setCore x v).ready = s.ready := rfl
@[simp] theorem setCore_droopLow (v) : (s.setCore x v).droopLow = s.droopLow := rfl
@[simp] theorem setCore_objs (v) : (s.setCore x v).objs = s.objs := rfl
@[simp] theorem setCore_dir (v) : (s.setCore x v).dir = s.dir := rfl
@[simp] theorem setCore_ctxs (v) : (s.setCore x v).ctxs = s.ctxs := rfl
@[simp] theorem setCore_seqs (v) : (s.setCore x v).seqs = s.seqs := rfl
@[simp] theorem setCore_icache (v) : (s.setCore x v).icache = s.icache := rfl
@[simp] theorem setCore_parts (v) : (s.setCore x v).parts = s.parts := rfl
@[simp] theorem setCore_ops (v) : (s.setCore x v).ops = s.ops := rfl
@[simp] theorem setCore_nextOp (v) : (s.setCore x v).nextOp = s.nextOp := rfl
@[simp] theorem setCore_tags (v) : (s.setCore x v).tags = s.tags := rfl
@[simp] theorem setCore_cqs (v) : (s.setCore x v).cqs = s.cqs := rfl
@[simp] theorem setCore_pend (v) : (s.setCore x v).pend = s.pend := rfl
@[simp] theorem setCore_chans (v) : (s.setCore x v).chans = s.chans := rfl
@[simp] theorem setCore_lines (v) : (s.setCore x v).lines = s.lines := rfl
@[simp] theorem setCore_clus (v) : (s.setCore x v).clus = s.clus := rfl
@[simp] theorem setCore_sems (v) : (s.setCore x v).sems = s.sems := rfl
@[simp] theorem setCore_rings (v) : (s.setCore x v).rings = s.rings := rfl
@[simp] theorem setCore_streams (v) : (s.setCore x v).streams = s.streams := rfl
@[simp] theorem setCore_peers (v) : (s.setCore x v).peers = s.peers := rfl
@[simp] theorem setCore_txq (v) : (s.setCore x v).txq = s.txq := rfl
@[simp] theorem setCore_rdv (v) : (s.setCore x v).rdv = s.rdv := rfl
@[simp] theorem setCore_slots (v) : (s.setCore x v).slots = s.slots := rfl
@[simp] theorem setCore_ports (v) : (s.setCore x v).ports = s.ports := rfl
@[simp] theorem setCore_cnts (v) : (s.setCore x v).cnts = s.cnts := rfl
@[simp] theorem setCore_gcnt (v) : (s.setCore x v).gcnt = s.gcnt := rfl
@[simp] theorem setCore_hostl (v) : (s.setCore x v).hostl = s.hostl := rfl
@[simp] theorem setCore_lc (v) : (s.setCore x v).lc = s.lc := rfl
@[simp] theorem setCore_bist (v) : (s.setCore x v).bist = s.bist := rfl
@[simp] theorem setCore_evqs (v) : (s.setCore x v).evqs = s.evqs := rfl
@[simp] theorem setCore_evInt (v) : (s.setCore x v).evInt = s.evInt := rfl
@[simp] theorem setCore_evNew (v) : (s.setCore x v).evNew = s.evNew := rfl
@[simp] theorem setCore_vecDue (v) : (s.setCore x v).vecDue = s.vecDue := rfl
@[simp] theorem setCore_taps (v) : (s.setCore x v).taps = s.taps := rfl

@[simp] theorem setLock_pending (v) : (s.setLock x v).pending = s.pending := rfl
@[simp] theorem setLock_work (v) : (s.setLock x v).work = s.work := rfl
@[simp] theorem setLock_free (v) : (s.setLock x v).free = s.free := rfl
@[simp] theorem setLock_now (v) : (s.setLock x v).now = s.now := rfl
@[simp] theorem setLock_mem (v) : (s.setLock x v).mem = s.mem := rfl
@[simp] theorem setLock_cfg (v) : (s.setLock x v).cfg = s.cfg := rfl
@[simp] theorem setLock_inForce (v) : (s.setLock x v).inForce = s.inForce := rfl
@[simp] theorem setLock_ready (v) : (s.setLock x v).ready = s.ready := rfl
@[simp] theorem setLock_droopLow (v) : (s.setLock x v).droopLow = s.droopLow := rfl
@[simp] theorem setLock_objs (v) : (s.setLock x v).objs = s.objs := rfl
@[simp] theorem setLock_dir (v) : (s.setLock x v).dir = s.dir := rfl
@[simp] theorem setLock_ctxs (v) : (s.setLock x v).ctxs = s.ctxs := rfl
@[simp] theorem setLock_seqs (v) : (s.setLock x v).seqs = s.seqs := rfl
@[simp] theorem setLock_icache (v) : (s.setLock x v).icache = s.icache := rfl
@[simp] theorem setLock_parts (v) : (s.setLock x v).parts = s.parts := rfl
@[simp] theorem setLock_ops (v) : (s.setLock x v).ops = s.ops := rfl
@[simp] theorem setLock_nextOp (v) : (s.setLock x v).nextOp = s.nextOp := rfl
@[simp] theorem setLock_tags (v) : (s.setLock x v).tags = s.tags := rfl
@[simp] theorem setLock_cqs (v) : (s.setLock x v).cqs = s.cqs := rfl
@[simp] theorem setLock_pend (v) : (s.setLock x v).pend = s.pend := rfl
@[simp] theorem setLock_chans (v) : (s.setLock x v).chans = s.chans := rfl
@[simp] theorem setLock_lines (v) : (s.setLock x v).lines = s.lines := rfl
@[simp] theorem setLock_clus (v) : (s.setLock x v).clus = s.clus := rfl
@[simp] theorem setLock_sems (v) : (s.setLock x v).sems = s.sems := rfl
@[simp] theorem setLock_rings (v) : (s.setLock x v).rings = s.rings := rfl
@[simp] theorem setLock_streams (v) : (s.setLock x v).streams = s.streams := rfl
@[simp] theorem setLock_peers (v) : (s.setLock x v).peers = s.peers := rfl
@[simp] theorem setLock_txq (v) : (s.setLock x v).txq = s.txq := rfl
@[simp] theorem setLock_rdv (v) : (s.setLock x v).rdv = s.rdv := rfl
@[simp] theorem setLock_slots (v) : (s.setLock x v).slots = s.slots := rfl
@[simp] theorem setLock_ports (v) : (s.setLock x v).ports = s.ports := rfl
@[simp] theorem setLock_cnts (v) : (s.setLock x v).cnts = s.cnts := rfl
@[simp] theorem setLock_gcnt (v) : (s.setLock x v).gcnt = s.gcnt := rfl
@[simp] theorem setLock_hostl (v) : (s.setLock x v).hostl = s.hostl := rfl
@[simp] theorem setLock_lc (v) : (s.setLock x v).lc = s.lc := rfl
@[simp] theorem setLock_bist (v) : (s.setLock x v).bist = s.bist := rfl
@[simp] theorem setLock_evqs (v) : (s.setLock x v).evqs = s.evqs := rfl
@[simp] theorem setLock_evInt (v) : (s.setLock x v).evInt = s.evInt := rfl
@[simp] theorem setLock_evNew (v) : (s.setLock x v).evNew = s.evNew := rfl
@[simp] theorem setLock_vecDue (v) : (s.setLock x v).vecDue = s.vecDue := rfl
@[simp] theorem setLock_taps (v) : (s.setLock x v).taps = s.taps := rfl

@[simp] theorem setOp_pending (v) : (s.setOp v).pending = s.pending := rfl
@[simp] theorem setOp_work (v) : (s.setOp v).work = s.work := rfl
@[simp] theorem setOp_free (v) : (s.setOp v).free = s.free := rfl
@[simp] theorem setOp_now (v) : (s.setOp v).now = s.now := rfl
@[simp] theorem setOp_mem (v) : (s.setOp v).mem = s.mem := rfl
@[simp] theorem setOp_cfg (v) : (s.setOp v).cfg = s.cfg := rfl
@[simp] theorem setOp_inForce (v) : (s.setOp v).inForce = s.inForce := rfl
@[simp] theorem setOp_ready (v) : (s.setOp v).ready = s.ready := rfl
@[simp] theorem setOp_droopLow (v) : (s.setOp v).droopLow = s.droopLow := rfl
@[simp] theorem setOp_objs (v) : (s.setOp v).objs = s.objs := rfl
@[simp] theorem setOp_dir (v) : (s.setOp v).dir = s.dir := rfl
@[simp] theorem setOp_ctxs (v) : (s.setOp v).ctxs = s.ctxs := rfl
@[simp] theorem setOp_seqs (v) : (s.setOp v).seqs = s.seqs := rfl
@[simp] theorem setOp_icache (v) : (s.setOp v).icache = s.icache := rfl
@[simp] theorem setOp_parts (v) : (s.setOp v).parts = s.parts := rfl
@[simp] theorem setOp_nextOp (v) : (s.setOp v).nextOp = s.nextOp := rfl
@[simp] theorem setOp_tags (v) : (s.setOp v).tags = s.tags := rfl
@[simp] theorem setOp_cqs (v) : (s.setOp v).cqs = s.cqs := rfl
@[simp] theorem setOp_pend (v) : (s.setOp v).pend = s.pend := rfl
@[simp] theorem setOp_chans (v) : (s.setOp v).chans = s.chans := rfl
@[simp] theorem setOp_lines (v) : (s.setOp v).lines = s.lines := rfl
@[simp] theorem setOp_clus (v) : (s.setOp v).clus = s.clus := rfl
@[simp] theorem setOp_sems (v) : (s.setOp v).sems = s.sems := rfl
@[simp] theorem setOp_rings (v) : (s.setOp v).rings = s.rings := rfl
@[simp] theorem setOp_streams (v) : (s.setOp v).streams = s.streams := rfl
@[simp] theorem setOp_peers (v) : (s.setOp v).peers = s.peers := rfl
@[simp] theorem setOp_txq (v) : (s.setOp v).txq = s.txq := rfl
@[simp] theorem setOp_rdv (v) : (s.setOp v).rdv = s.rdv := rfl
@[simp] theorem setOp_slots (v) : (s.setOp v).slots = s.slots := rfl
@[simp] theorem setOp_ports (v) : (s.setOp v).ports = s.ports := rfl
@[simp] theorem setOp_cnts (v) : (s.setOp v).cnts = s.cnts := rfl
@[simp] theorem setOp_gcnt (v) : (s.setOp v).gcnt = s.gcnt := rfl
@[simp] theorem setOp_hostl (v) : (s.setOp v).hostl = s.hostl := rfl
@[simp] theorem setOp_fw (v) : (s.setOp v).fw = s.fw := rfl
@[simp] theorem setOp_lc (v) : (s.setOp v).lc = s.lc := rfl
@[simp] theorem setOp_bist (v) : (s.setOp v).bist = s.bist := rfl
@[simp] theorem setOp_evqs (v) : (s.setOp v).evqs = s.evqs := rfl
@[simp] theorem setOp_evInt (v) : (s.setOp v).evInt = s.evInt := rfl
@[simp] theorem setOp_evNew (v) : (s.setOp v).evNew = s.evNew := rfl
@[simp] theorem setOp_vecDue (v) : (s.setOp v).vecDue = s.vecDue := rfl
@[simp] theorem setOp_taps (v) : (s.setOp v).taps = s.taps := rfl

@[simp] theorem todo_pending (v) : (s.todo v).pending = s.pending := rfl
@[simp] theorem todo_free (v) : (s.todo v).free = s.free := rfl
@[simp] theorem todo_now (v) : (s.todo v).now = s.now := rfl
@[simp] theorem todo_mem (v) : (s.todo v).mem = s.mem := rfl
@[simp] theorem todo_cfg (v) : (s.todo v).cfg = s.cfg := rfl
@[simp] theorem todo_inForce (v) : (s.todo v).inForce = s.inForce := rfl
@[simp] theorem todo_ready (v) : (s.todo v).ready = s.ready := rfl
@[simp] theorem todo_droopLow (v) : (s.todo v).droopLow = s.droopLow := rfl
@[simp] theorem todo_objs (v) : (s.todo v).objs = s.objs := rfl
@[simp] theorem todo_dir (v) : (s.todo v).dir = s.dir := rfl
@[simp] theorem todo_ctxs (v) : (s.todo v).ctxs = s.ctxs := rfl
@[simp] theorem todo_seqs (v) : (s.todo v).seqs = s.seqs := rfl
@[simp] theorem todo_icache (v) : (s.todo v).icache = s.icache := rfl
@[simp] theorem todo_parts (v) : (s.todo v).parts = s.parts := rfl
@[simp] theorem todo_ops (v) : (s.todo v).ops = s.ops := rfl
@[simp] theorem todo_nextOp (v) : (s.todo v).nextOp = s.nextOp := rfl
@[simp] theorem todo_tags (v) : (s.todo v).tags = s.tags := rfl
@[simp] theorem todo_cqs (v) : (s.todo v).cqs = s.cqs := rfl
@[simp] theorem todo_pend (v) : (s.todo v).pend = s.pend := rfl
@[simp] theorem todo_chans (v) : (s.todo v).chans = s.chans := rfl
@[simp] theorem todo_lines (v) : (s.todo v).lines = s.lines := rfl
@[simp] theorem todo_clus (v) : (s.todo v).clus = s.clus := rfl
@[simp] theorem todo_sems (v) : (s.todo v).sems = s.sems := rfl
@[simp] theorem todo_rings (v) : (s.todo v).rings = s.rings := rfl
@[simp] theorem todo_streams (v) : (s.todo v).streams = s.streams := rfl
@[simp] theorem todo_peers (v) : (s.todo v).peers = s.peers := rfl
@[simp] theorem todo_txq (v) : (s.todo v).txq = s.txq := rfl
@[simp] theorem todo_rdv (v) : (s.todo v).rdv = s.rdv := rfl
@[simp] theorem todo_slots (v) : (s.todo v).slots = s.slots := rfl
@[simp] theorem todo_ports (v) : (s.todo v).ports = s.ports := rfl
@[simp] theorem todo_cnts (v) : (s.todo v).cnts = s.cnts := rfl
@[simp] theorem todo_gcnt (v) : (s.todo v).gcnt = s.gcnt := rfl
@[simp] theorem todo_hostl (v) : (s.todo v).hostl = s.hostl := rfl
@[simp] theorem todo_fw (v) : (s.todo v).fw = s.fw := rfl
@[simp] theorem todo_lc (v) : (s.todo v).lc = s.lc := rfl
@[simp] theorem todo_bist (v) : (s.todo v).bist = s.bist := rfl
@[simp] theorem todo_evqs (v) : (s.todo v).evqs = s.evqs := rfl
@[simp] theorem todo_evInt (v) : (s.todo v).evInt = s.evInt := rfl
@[simp] theorem todo_evNew (v) : (s.todo v).evNew = s.evNew := rfl
@[simp] theorem todo_vecDue (v) : (s.todo v).vecDue = s.vecDue := rfl
@[simp] theorem todo_taps (v) : (s.todo v).taps = s.taps := rfl

@[simp] theorem tick_pending : (s.tick).pending = s.pending := rfl
@[simp] theorem tick_work : (s.tick).work = s.work := rfl
@[simp] theorem tick_now : (s.tick).now = s.now := rfl
@[simp] theorem tick_mem : (s.tick).mem = s.mem := rfl
@[simp] theorem tick_cfg : (s.tick).cfg = s.cfg := rfl
@[simp] theorem tick_inForce : (s.tick).inForce = s.inForce := rfl
@[simp] theorem tick_ready : (s.tick).ready = s.ready := rfl
@[simp] theorem tick_droopLow : (s.tick).droopLow = s.droopLow := rfl
@[simp] theorem tick_objs : (s.tick).objs = s.objs := rfl
@[simp] theorem tick_dir : (s.tick).dir = s.dir := rfl
@[simp] theorem tick_ctxs : (s.tick).ctxs = s.ctxs := rfl
@[simp] theorem tick_seqs : (s.tick).seqs = s.seqs := rfl
@[simp] theorem tick_icache : (s.tick).icache = s.icache := rfl
@[simp] theorem tick_parts : (s.tick).parts = s.parts := rfl
@[simp] theorem tick_ops : (s.tick).ops = s.ops := rfl
@[simp] theorem tick_nextOp : (s.tick).nextOp = s.nextOp := rfl
@[simp] theorem tick_tags : (s.tick).tags = s.tags := rfl
@[simp] theorem tick_cqs : (s.tick).cqs = s.cqs := rfl
@[simp] theorem tick_pend : (s.tick).pend = s.pend := rfl
@[simp] theorem tick_chans : (s.tick).chans = s.chans := rfl
@[simp] theorem tick_lines : (s.tick).lines = s.lines := rfl
@[simp] theorem tick_clus : (s.tick).clus = s.clus := rfl
@[simp] theorem tick_sems : (s.tick).sems = s.sems := rfl
@[simp] theorem tick_rings : (s.tick).rings = s.rings := rfl
@[simp] theorem tick_streams : (s.tick).streams = s.streams := rfl
@[simp] theorem tick_peers : (s.tick).peers = s.peers := rfl
@[simp] theorem tick_txq : (s.tick).txq = s.txq := rfl
@[simp] theorem tick_rdv : (s.tick).rdv = s.rdv := rfl
@[simp] theorem tick_slots : (s.tick).slots = s.slots := rfl
@[simp] theorem tick_ports : (s.tick).ports = s.ports := rfl
@[simp] theorem tick_cnts : (s.tick).cnts = s.cnts := rfl
@[simp] theorem tick_gcnt : (s.tick).gcnt = s.gcnt := rfl
@[simp] theorem tick_hostl : (s.tick).hostl = s.hostl := rfl
@[simp] theorem tick_fw : (s.tick).fw = s.fw := rfl
@[simp] theorem tick_lc : (s.tick).lc = s.lc := rfl
@[simp] theorem tick_bist : (s.tick).bist = s.bist := rfl
@[simp] theorem tick_evqs : (s.tick).evqs = s.evqs := rfl
@[simp] theorem tick_evInt : (s.tick).evInt = s.evInt := rfl
@[simp] theorem tick_evNew : (s.tick).evNew = s.evNew := rfl
@[simp] theorem tick_vecDue : (s.tick).vecDue = s.vecDue := rfl
@[simp] theorem tick_taps : (s.tick).taps = s.taps := rfl

@[simp] theorem store_pending (v) : (s.store x v).pending = s.pending := rfl
@[simp] theorem store_work (v) : (s.store x v).work = s.work := rfl
@[simp] theorem store_free (v) : (s.store x v).free = s.free := rfl
@[simp] theorem store_now (v) : (s.store x v).now = s.now := rfl
@[simp] theorem store_cfg (v) : (s.store x v).cfg = s.cfg := rfl
@[simp] theorem store_inForce (v) : (s.store x v).inForce = s.inForce := rfl
@[simp] theorem store_ready (v) : (s.store x v).ready = s.ready := rfl
@[simp] theorem store_droopLow (v) : (s.store x v).droopLow = s.droopLow := rfl
@[simp] theorem store_objs (v) : (s.store x v).objs = s.objs := rfl
@[simp] theorem store_dir (v) : (s.store x v).dir = s.dir := rfl
@[simp] theorem store_ctxs (v) : (s.store x v).ctxs = s.ctxs := rfl
@[simp] theorem store_seqs (v) : (s.store x v).seqs = s.seqs := rfl
@[simp] theorem store_icache (v) : (s.store x v).icache = s.icache := rfl
@[simp] theorem store_parts (v) : (s.store x v).parts = s.parts := rfl
@[simp] theorem store_ops (v) : (s.store x v).ops = s.ops := rfl
@[simp] theorem store_nextOp (v) : (s.store x v).nextOp = s.nextOp := rfl
@[simp] theorem store_tags (v) : (s.store x v).tags = s.tags := rfl
@[simp] theorem store_cqs (v) : (s.store x v).cqs = s.cqs := rfl
@[simp] theorem store_pend (v) : (s.store x v).pend = s.pend := rfl
@[simp] theorem store_chans (v) : (s.store x v).chans = s.chans := rfl
@[simp] theorem store_lines (v) : (s.store x v).lines = s.lines := rfl
@[simp] theorem store_clus (v) : (s.store x v).clus = s.clus := rfl
@[simp] theorem store_sems (v) : (s.store x v).sems = s.sems := rfl
@[simp] theorem store_rings (v) : (s.store x v).rings = s.rings := rfl
@[simp] theorem store_streams (v) : (s.store x v).streams = s.streams := rfl
@[simp] theorem store_peers (v) : (s.store x v).peers = s.peers := rfl
@[simp] theorem store_txq (v) : (s.store x v).txq = s.txq := rfl
@[simp] theorem store_rdv (v) : (s.store x v).rdv = s.rdv := rfl
@[simp] theorem store_slots (v) : (s.store x v).slots = s.slots := rfl
@[simp] theorem store_ports (v) : (s.store x v).ports = s.ports := rfl
@[simp] theorem store_cnts (v) : (s.store x v).cnts = s.cnts := rfl
@[simp] theorem store_gcnt (v) : (s.store x v).gcnt = s.gcnt := rfl
@[simp] theorem store_hostl (v) : (s.store x v).hostl = s.hostl := rfl
@[simp] theorem store_fw (v) : (s.store x v).fw = s.fw := rfl
@[simp] theorem store_lc (v) : (s.store x v).lc = s.lc := rfl
@[simp] theorem store_bist (v) : (s.store x v).bist = s.bist := rfl
@[simp] theorem store_evqs (v) : (s.store x v).evqs = s.evqs := rfl
@[simp] theorem store_evInt (v) : (s.store x v).evInt = s.evInt := rfl
@[simp] theorem store_evNew (v) : (s.store x v).evNew = s.evNew := rfl
@[simp] theorem store_vecDue (v) : (s.store x v).vecDue = s.vecDue := rfl
@[simp] theorem store_taps (v) : (s.store x v).taps = s.taps := rfl

@[simp] theorem storeP_pending (v) : (s.storeP x y v).pending = s.pending := rfl
@[simp] theorem storeP_work (v) : (s.storeP x y v).work = s.work := rfl
@[simp] theorem storeP_free (v) : (s.storeP x y v).free = s.free := rfl
@[simp] theorem storeP_now (v) : (s.storeP x y v).now = s.now := rfl
@[simp] theorem storeP_cfg (v) : (s.storeP x y v).cfg = s.cfg := rfl
@[simp] theorem storeP_inForce (v) : (s.storeP x y v).inForce = s.inForce := rfl
@[simp] theorem storeP_ready (v) : (s.storeP x y v).ready = s.ready := rfl
@[simp] theorem storeP_droopLow (v) : (s.storeP x y v).droopLow = s.droopLow := rfl
@[simp] theorem storeP_objs (v) : (s.storeP x y v).objs = s.objs := rfl
@[simp] theorem storeP_dir (v) : (s.storeP x y v).dir = s.dir := rfl
@[simp] theorem storeP_ctxs (v) : (s.storeP x y v).ctxs = s.ctxs := rfl
@[simp] theorem storeP_seqs (v) : (s.storeP x y v).seqs = s.seqs := rfl
@[simp] theorem storeP_icache (v) : (s.storeP x y v).icache = s.icache := rfl
@[simp] theorem storeP_parts (v) : (s.storeP x y v).parts = s.parts := rfl
@[simp] theorem storeP_ops (v) : (s.storeP x y v).ops = s.ops := rfl
@[simp] theorem storeP_nextOp (v) : (s.storeP x y v).nextOp = s.nextOp := rfl
@[simp] theorem storeP_tags (v) : (s.storeP x y v).tags = s.tags := rfl
@[simp] theorem storeP_cqs (v) : (s.storeP x y v).cqs = s.cqs := rfl
@[simp] theorem storeP_pend (v) : (s.storeP x y v).pend = s.pend := rfl
@[simp] theorem storeP_chans (v) : (s.storeP x y v).chans = s.chans := rfl
@[simp] theorem storeP_lines (v) : (s.storeP x y v).lines = s.lines := rfl
@[simp] theorem storeP_clus (v) : (s.storeP x y v).clus = s.clus := rfl
@[simp] theorem storeP_sems (v) : (s.storeP x y v).sems = s.sems := rfl
@[simp] theorem storeP_rings (v) : (s.storeP x y v).rings = s.rings := rfl
@[simp] theorem storeP_streams (v) : (s.storeP x y v).streams = s.streams := rfl
@[simp] theorem storeP_peers (v) : (s.storeP x y v).peers = s.peers := rfl
@[simp] theorem storeP_txq (v) : (s.storeP x y v).txq = s.txq := rfl
@[simp] theorem storeP_rdv (v) : (s.storeP x y v).rdv = s.rdv := rfl
@[simp] theorem storeP_slots (v) : (s.storeP x y v).slots = s.slots := rfl
@[simp] theorem storeP_ports (v) : (s.storeP x y v).ports = s.ports := rfl
@[simp] theorem storeP_cnts (v) : (s.storeP x y v).cnts = s.cnts := rfl
@[simp] theorem storeP_gcnt (v) : (s.storeP x y v).gcnt = s.gcnt := rfl
@[simp] theorem storeP_hostl (v) : (s.storeP x y v).hostl = s.hostl := rfl
@[simp] theorem storeP_fw (v) : (s.storeP x y v).fw = s.fw := rfl
@[simp] theorem storeP_lc (v) : (s.storeP x y v).lc = s.lc := rfl
@[simp] theorem storeP_bist (v) : (s.storeP x y v).bist = s.bist := rfl
@[simp] theorem storeP_evqs (v) : (s.storeP x y v).evqs = s.evqs := rfl
@[simp] theorem storeP_evInt (v) : (s.storeP x y v).evInt = s.evInt := rfl
@[simp] theorem storeP_evNew (v) : (s.storeP x y v).evNew = s.evNew := rfl
@[simp] theorem storeP_vecDue (v) : (s.storeP x y v).vecDue = s.vecDue := rfl
@[simp] theorem storeP_taps (v) : (s.storeP x y v).taps = s.taps := rfl

@[simp] theorem gadd_pending : (s.gadd x n).pending = s.pending := rfl
@[simp] theorem gadd_work : (s.gadd x n).work = s.work := rfl
@[simp] theorem gadd_free : (s.gadd x n).free = s.free := rfl
@[simp] theorem gadd_now : (s.gadd x n).now = s.now := rfl
@[simp] theorem gadd_mem : (s.gadd x n).mem = s.mem := rfl
@[simp] theorem gadd_cfg : (s.gadd x n).cfg = s.cfg := rfl
@[simp] theorem gadd_inForce : (s.gadd x n).inForce = s.inForce := rfl
@[simp] theorem gadd_ready : (s.gadd x n).ready = s.ready := rfl
@[simp] theorem gadd_droopLow : (s.gadd x n).droopLow = s.droopLow := rfl
@[simp] theorem gadd_objs : (s.gadd x n).objs = s.objs := rfl
@[simp] theorem gadd_dir : (s.gadd x n).dir = s.dir := rfl
@[simp] theorem gadd_ctxs : (s.gadd x n).ctxs = s.ctxs := rfl
@[simp] theorem gadd_seqs : (s.gadd x n).seqs = s.seqs := rfl
@[simp] theorem gadd_icache : (s.gadd x n).icache = s.icache := rfl
@[simp] theorem gadd_parts : (s.gadd x n).parts = s.parts := rfl
@[simp] theorem gadd_ops : (s.gadd x n).ops = s.ops := rfl
@[simp] theorem gadd_nextOp : (s.gadd x n).nextOp = s.nextOp := rfl
@[simp] theorem gadd_tags : (s.gadd x n).tags = s.tags := rfl
@[simp] theorem gadd_cqs : (s.gadd x n).cqs = s.cqs := rfl
@[simp] theorem gadd_pend : (s.gadd x n).pend = s.pend := rfl
@[simp] theorem gadd_chans : (s.gadd x n).chans = s.chans := rfl
@[simp] theorem gadd_lines : (s.gadd x n).lines = s.lines := rfl
@[simp] theorem gadd_clus : (s.gadd x n).clus = s.clus := rfl
@[simp] theorem gadd_sems : (s.gadd x n).sems = s.sems := rfl
@[simp] theorem gadd_rings : (s.gadd x n).rings = s.rings := rfl
@[simp] theorem gadd_streams : (s.gadd x n).streams = s.streams := rfl
@[simp] theorem gadd_peers : (s.gadd x n).peers = s.peers := rfl
@[simp] theorem gadd_txq : (s.gadd x n).txq = s.txq := rfl
@[simp] theorem gadd_rdv : (s.gadd x n).rdv = s.rdv := rfl
@[simp] theorem gadd_slots : (s.gadd x n).slots = s.slots := rfl
@[simp] theorem gadd_ports : (s.gadd x n).ports = s.ports := rfl
@[simp] theorem gadd_cnts : (s.gadd x n).cnts = s.cnts := rfl
@[simp] theorem gadd_hostl : (s.gadd x n).hostl = s.hostl := rfl
@[simp] theorem gadd_fw : (s.gadd x n).fw = s.fw := rfl
@[simp] theorem gadd_lc : (s.gadd x n).lc = s.lc := rfl
@[simp] theorem gadd_bist : (s.gadd x n).bist = s.bist := rfl
@[simp] theorem gadd_evqs : (s.gadd x n).evqs = s.evqs := rfl
@[simp] theorem gadd_evInt : (s.gadd x n).evInt = s.evInt := rfl
@[simp] theorem gadd_evNew : (s.gadd x n).evNew = s.evNew := rfl
@[simp] theorem gadd_vecDue : (s.gadd x n).vecDue = s.vecDue := rfl
@[simp] theorem gadd_taps : (s.gadd x n).taps = s.taps := rfl

@[simp] theorem cadd_pending : (s.cadd x y n).pending = s.pending := rfl
@[simp] theorem cadd_work : (s.cadd x y n).work = s.work := rfl
@[simp] theorem cadd_free : (s.cadd x y n).free = s.free := rfl
@[simp] theorem cadd_now : (s.cadd x y n).now = s.now := rfl
@[simp] theorem cadd_mem : (s.cadd x y n).mem = s.mem := rfl
@[simp] theorem cadd_cfg : (s.cadd x y n).cfg = s.cfg := rfl
@[simp] theorem cadd_inForce : (s.cadd x y n).inForce = s.inForce := rfl
@[simp] theorem cadd_ready : (s.cadd x y n).ready = s.ready := rfl
@[simp] theorem cadd_droopLow : (s.cadd x y n).droopLow = s.droopLow := rfl
@[simp] theorem cadd_objs : (s.cadd x y n).objs = s.objs := rfl
@[simp] theorem cadd_dir : (s.cadd x y n).dir = s.dir := rfl
@[simp] theorem cadd_ctxs : (s.cadd x y n).ctxs = s.ctxs := rfl
@[simp] theorem cadd_seqs : (s.cadd x y n).seqs = s.seqs := rfl
@[simp] theorem cadd_icache : (s.cadd x y n).icache = s.icache := rfl
@[simp] theorem cadd_parts : (s.cadd x y n).parts = s.parts := rfl
@[simp] theorem cadd_ops : (s.cadd x y n).ops = s.ops := rfl
@[simp] theorem cadd_nextOp : (s.cadd x y n).nextOp = s.nextOp := rfl
@[simp] theorem cadd_tags : (s.cadd x y n).tags = s.tags := rfl
@[simp] theorem cadd_cqs : (s.cadd x y n).cqs = s.cqs := rfl
@[simp] theorem cadd_pend : (s.cadd x y n).pend = s.pend := rfl
@[simp] theorem cadd_chans : (s.cadd x y n).chans = s.chans := rfl
@[simp] theorem cadd_lines : (s.cadd x y n).lines = s.lines := rfl
@[simp] theorem cadd_clus : (s.cadd x y n).clus = s.clus := rfl
@[simp] theorem cadd_sems : (s.cadd x y n).sems = s.sems := rfl
@[simp] theorem cadd_rings : (s.cadd x y n).rings = s.rings := rfl
@[simp] theorem cadd_streams : (s.cadd x y n).streams = s.streams := rfl
@[simp] theorem cadd_peers : (s.cadd x y n).peers = s.peers := rfl
@[simp] theorem cadd_txq : (s.cadd x y n).txq = s.txq := rfl
@[simp] theorem cadd_rdv : (s.cadd x y n).rdv = s.rdv := rfl
@[simp] theorem cadd_slots : (s.cadd x y n).slots = s.slots := rfl
@[simp] theorem cadd_ports : (s.cadd x y n).ports = s.ports := rfl
@[simp] theorem cadd_gcnt : (s.cadd x y n).gcnt = s.gcnt := rfl
@[simp] theorem cadd_hostl : (s.cadd x y n).hostl = s.hostl := rfl
@[simp] theorem cadd_fw : (s.cadd x y n).fw = s.fw := rfl
@[simp] theorem cadd_lc : (s.cadd x y n).lc = s.lc := rfl
@[simp] theorem cadd_bist : (s.cadd x y n).bist = s.bist := rfl
@[simp] theorem cadd_evqs : (s.cadd x y n).evqs = s.evqs := rfl
@[simp] theorem cadd_evInt : (s.cadd x y n).evInt = s.evInt := rfl
@[simp] theorem cadd_evNew : (s.cadd x y n).evNew = s.evNew := rfl
@[simp] theorem cadd_vecDue : (s.cadd x y n).vecDue = s.vecDue := rfl
@[simp] theorem cadd_taps : (s.cadd x y n).taps = s.taps := rfl

/-- An operation that is gone frees its channel, which may end a draining one (R203). -/
theorem delOp_frame : s.delOp x = { s with ops := s.ops.filter fun p => p.id ≠ x, work := (s.delOp x).work } := by
  unfold State.delOp
  split
  · split <;> rfl
  · rfl
@[simp] theorem delOp_pending : (s.delOp x).pending = s.pending := by rw [delOp_frame]
@[simp] theorem delOp_free : (s.delOp x).free = s.free := by rw [delOp_frame]
@[simp] theorem delOp_now : (s.delOp x).now = s.now := by rw [delOp_frame]
@[simp] theorem delOp_mem : (s.delOp x).mem = s.mem := by rw [delOp_frame]
@[simp] theorem delOp_cfg : (s.delOp x).cfg = s.cfg := by rw [delOp_frame]
@[simp] theorem delOp_inForce : (s.delOp x).inForce = s.inForce := by rw [delOp_frame]
@[simp] theorem delOp_ready : (s.delOp x).ready = s.ready := by rw [delOp_frame]
@[simp] theorem delOp_droopLow : (s.delOp x).droopLow = s.droopLow := by rw [delOp_frame]
@[simp] theorem delOp_objs : (s.delOp x).objs = s.objs := by rw [delOp_frame]
@[simp] theorem delOp_dir : (s.delOp x).dir = s.dir := by rw [delOp_frame]
@[simp] theorem delOp_ctxs : (s.delOp x).ctxs = s.ctxs := by rw [delOp_frame]
@[simp] theorem delOp_seqs : (s.delOp x).seqs = s.seqs := by rw [delOp_frame]
@[simp] theorem delOp_icache : (s.delOp x).icache = s.icache := by rw [delOp_frame]
@[simp] theorem delOp_parts : (s.delOp x).parts = s.parts := by rw [delOp_frame]
@[simp] theorem delOp_nextOp : (s.delOp x).nextOp = s.nextOp := by rw [delOp_frame]
@[simp] theorem delOp_tags : (s.delOp x).tags = s.tags := by rw [delOp_frame]
@[simp] theorem delOp_cqs : (s.delOp x).cqs = s.cqs := by rw [delOp_frame]
@[simp] theorem delOp_pend : (s.delOp x).pend = s.pend := by rw [delOp_frame]
@[simp] theorem delOp_chans : (s.delOp x).chans = s.chans := by rw [delOp_frame]
@[simp] theorem delOp_lines : (s.delOp x).lines = s.lines := by rw [delOp_frame]
@[simp] theorem delOp_clus : (s.delOp x).clus = s.clus := by rw [delOp_frame]
@[simp] theorem delOp_sems : (s.delOp x).sems = s.sems := by rw [delOp_frame]
@[simp] theorem delOp_rings : (s.delOp x).rings = s.rings := by rw [delOp_frame]
@[simp] theorem delOp_streams : (s.delOp x).streams = s.streams := by rw [delOp_frame]
@[simp] theorem delOp_peers : (s.delOp x).peers = s.peers := by rw [delOp_frame]
@[simp] theorem delOp_txq : (s.delOp x).txq = s.txq := by rw [delOp_frame]
@[simp] theorem delOp_rdv : (s.delOp x).rdv = s.rdv := by rw [delOp_frame]
@[simp] theorem delOp_slots : (s.delOp x).slots = s.slots := by rw [delOp_frame]
@[simp] theorem delOp_ports : (s.delOp x).ports = s.ports := by rw [delOp_frame]
@[simp] theorem delOp_cnts : (s.delOp x).cnts = s.cnts := by rw [delOp_frame]
@[simp] theorem delOp_gcnt : (s.delOp x).gcnt = s.gcnt := by rw [delOp_frame]
@[simp] theorem delOp_hostl : (s.delOp x).hostl = s.hostl := by rw [delOp_frame]
@[simp] theorem delOp_fw : (s.delOp x).fw = s.fw := by rw [delOp_frame]
@[simp] theorem delOp_lc : (s.delOp x).lc = s.lc := by rw [delOp_frame]
@[simp] theorem delOp_bist : (s.delOp x).bist = s.bist := by rw [delOp_frame]
@[simp] theorem delOp_evqs : (s.delOp x).evqs = s.evqs := by rw [delOp_frame]
@[simp] theorem delOp_evInt : (s.delOp x).evInt = s.evInt := by rw [delOp_frame]
@[simp] theorem delOp_evNew : (s.delOp x).evNew = s.evNew := by rw [delOp_frame]
@[simp] theorem delOp_vecDue : (s.delOp x).vecDue = s.vecDue := by rw [delOp_frame]
@[simp] theorem delOp_taps : (s.delOp x).taps = s.taps := by rw [delOp_frame]
@[simp] theorem delOp_ops : (s.delOp x).ops = s.ops.filter fun p => p.id ≠ x := by rw [delOp_frame]

theorem setReg_frame (v : Nat) : setReg s x v = { s with cfg := (setReg s x v).cfg } := rfl

end Sys2Proof.Machine
end

