-- ==== Sys2Proof/Laws/Table.lean ====
section
/-!
SUPPORT. Sparse tables and the accessors over them: what was written reads back, and every other entry is left alone.
-/

namespace Sys2Proof.Machine

@[simp] theorem tget_tset_same {α : Type} (t : Tbl α) (k : Nat) (v d : α) : tget (tset t k v) k d = v := by
  induction t with
  | nil => simp [tset, tget]
  | cons e r ih =>
    obtain ⟨i, u⟩ := e
    by_cases h : i = k <;> by_cases h2 : k < i <;> simp [tset, tget, h, h2, ih]

@[simp] theorem tget_tset_other {α : Type} (t : Tbl α) (k j : Nat) (v d : α) (h : j ≠ k) : tget (tset t k v) j d = tget t j d := by
  induction t with
  | nil => simp [tset, tget, Ne.symm h]
  | cons e r ih =>
    obtain ⟨i, u⟩ := e
    unfold tset
    split
    · next h1 => subst h1; simp [tget, Ne.symm h]
    · split
      · simp [tget, Ne.symm h]
      · simp [tget, ih]

theorem tget_tset {α : Type} (t : Tbl α) (k j : Nat) (v d : α) : tget (tset t k v) j d = if j = k then v else tget t j d := by
  by_cases h : j = k
  · subst h; simp
  · simp [h]

/-- A deleted entry reads as the default, every other entry as before. -/
theorem tget_tdel {α : Type} (t : Tbl α) (k j : Nat) (d : α) : tget (tdel t k) j d = if j = k then d else tget t j d := by
  induction t with
  | nil => simp [tdel, tget]
  | cons e r ih =>
    obtain ⟨i, u⟩ := e
    simp only [tdel, List.filter_cons] at *
    by_cases h1 : i = k <;> by_cases h3 : i = j <;> by_cases h2 : j = k <;> simp_all [tget]

@[simp] theorem obj_setObj (s : State) (k : Nat) (v) : (s.setObj k v).obj k = v := tget_tset_same _ _ _ _
@[simp] theorem obj_setObj_other (s : State) (k j : Nat) (v) (h : j ≠ k) : (s.setObj k v).obj j = s.obj j := tget_tset_other _ _ _ _ _ h
@[simp] theorem obj_modObj (s : State) (k : Nat) (f) : (s.modObj k f).obj k = f (s.obj k) := tget_tset_same _ _ _ _
@[simp] theorem obj_modObj_other (s : State) (k j : Nat) (f) (h : j ≠ k) : (s.modObj k f).obj j = s.obj j := tget_tset_other _ _ _ _ _ h
@[simp] theorem ctx_setCtx (s : State) (k : Nat) (v) : (s.setCtx k v).ctx k = v := tget_tset_same _ _ _ _
@[simp] theorem ctx_setCtx_other (s : State) (k j : Nat) (v) (h : j ≠ k) : (s.setCtx k v).ctx j = s.ctx j := tget_tset_other _ _ _ _ _ h
@[simp] theorem ctx_modCtx (s : State) (k : Nat) (f) : (s.modCtx k f).ctx k = f (s.ctx k) := tget_tset_same _ _ _ _
@[simp] theorem ctx_modCtx_other (s : State) (k j : Nat) (f) (h : j ≠ k) : (s.modCtx k f).ctx j = s.ctx j := tget_tset_other _ _ _ _ _ h
@[simp] theorem part_setPart (s : State) (k : Nat) (v) : (s.setPart k v).part k = v := tget_tset_same _ _ _ _
@[simp] theorem part_setPart_other (s : State) (k j : Nat) (v) (h : j ≠ k) : (s.setPart k v).part j = s.part j := tget_tset_other _ _ _ _ _ h
@[simp] theorem part_modPart (s : State) (k : Nat) (f) : (s.modPart k f).part k = f (s.part k) := tget_tset_same _ _ _ _
@[simp] theorem part_modPart_other (s : State) (k j : Nat) (f) (h : j ≠ k) : (s.modPart k f).part j = s.part j := tget_tset_other _ _ _ _ _ h
@[simp] theorem seq_setSeq (s : State) (k : Nat) (v) : (s.setSeq k v).seq k = v := tget_tset_same _ _ _ _
@[simp] theorem seq_setSeq_other (s : State) (k j : Nat) (v) (h : j ≠ k) : (s.setSeq k v).seq j = s.seq j := tget_tset_other _ _ _ _ _ h
@[simp] theorem cq_setCq (s : State) (k : Nat) (v) : (s.setCq k v).cq k = v := tget_tset_same _ _ _ _
@[simp] theorem cq_setCq_other (s : State) (k j : Nat) (v) (h : j ≠ k) : (s.setCq k v).cq j = s.cq j := tget_tset_other _ _ _ _ _ h
@[simp] theorem chan_setChan (s : State) (k : Nat) (v) : (s.setChan k v).chan k = v := tget_tset_same _ _ _ _
@[simp] theorem chan_setChan_other (s : State) (k j : Nat) (v) (h : j ≠ k) : (s.setChan k v).chan j = s.chan j := tget_tset_other _ _ _ _ _ h
@[simp] theorem chan_modChan (s : State) (k : Nat) (f) : (s.modChan k f).chan k = f (s.chan k) := tget_tset_same _ _ _ _
@[simp] theorem chan_modChan_other (s : State) (k j : Nat) (f) (h : j ≠ k) : (s.modChan k f).chan j = s.chan j := tget_tset_other _ _ _ _ _ h
@[simp] theorem line_setLine (s : State) (k : Nat) (v) : (s.setLine k v).line k = v := tget_tset_same _ _ _ _
@[simp] theorem line_setLine_other (s : State) (k j : Nat) (v) (h : j ≠ k) : (s.setLine k v).line j = s.line j := tget_tset_other _ _ _ _ _ h
@[simp] theorem cluster_setCluster (s : State) (k : Nat) (v) : (s.setCluster k v).cluster k = v := tget_tset_same _ _ _ _
@[simp] theorem cluster_setCluster_other (s : State) (k j : Nat) (v) (h : j ≠ k) : (s.setCluster k v).cluster j = s.cluster j := tget_tset_other _ _ _ _ _ h
@[simp] theorem sem_setSem (s : State) (k : Nat) (v) : (s.setSem k v).sem k = v := tget_tset_same _ _ _ _
@[simp] theorem sem_setSem_other (s : State) (k j : Nat) (v) (h : j ≠ k) : (s.setSem k v).sem j = s.sem j := tget_tset_other _ _ _ _ _ h
@[simp] theorem ring_setRing (s : State) (k : Nat) (v) : (s.setRing k v).ring k = v := tget_tset_same _ _ _ _
@[simp] theorem ring_setRing_other (s : State) (k j : Nat) (v) (h : j ≠ k) : (s.setRing k v).ring j = s.ring j := tget_tset_other _ _ _ _ _ h
@[simp] theorem bar_setBar (s : State) (k : Nat) (v) : (s.setBar k v).bar k = v := tget_tset_same _ _ _ _
@[simp] theorem bar_setBar_other (s : State) (k j : Nat) (v) (h : j ≠ k) : (s.setBar k v).bar j = s.bar j := tget_tset_other _ _ _ _ _ h
@[simp] theorem node_setNode (s : State) (k : Nat) (v) : (s.setNode k v).node k = v := tget_tset_same _ _ _ _
@[simp] theorem node_setNode_other (s : State) (k j : Nat) (v) (h : j ≠ k) : (s.setNode k v).node j = s.node j := tget_tset_other _ _ _ _ _ h
@[simp] theorem peer_setPeer (s : State) (k : Nat) (v) : (s.setPeer k v).peer k = v := tget_tset_same _ _ _ _
@[simp] theorem peer_setPeer_other (s : State) (k j : Nat) (v) (h : j ≠ k) : (s.setPeer k v).peer j = s.peer j := tget_tset_other _ _ _ _ _ h
@[simp] theorem tgrp_setTgrp (s : State) (k : Nat) (v) : (s.setTgrp k v).tgrp k = v := tget_tset_same _ _ _ _
@[simp] theorem tgrp_setTgrp_other (s : State) (k j : Nat) (v) (h : j ≠ k) : (s.setTgrp k v).tgrp j = s.tgrp j := tget_tset_other _ _ _ _ _ h
@[simp] theorem hset_setHset (s : State) (k : Nat) (v) : (s.setHset k v).hset k = v := tget_tset_same _ _ _ _
@[simp] theorem hset_setHset_other (s : State) (k j : Nat) (v) (h : j ≠ k) : (s.setHset k v).hset j = s.hset j := tget_tset_other _ _ _ _ _ h
@[simp] theorem slot_setSlot (s : State) (k : Nat) (v) : (s.setSlot k v).slot k = v := tget_tset_same _ _ _ _
@[simp] theorem slot_setSlot_other (s : State) (k j : Nat) (v) (h : j ≠ k) : (s.setSlot k v).slot j = s.slot j := tget_tset_other _ _ _ _ _ h
@[simp] theorem port_setPort (s : State) (k : Nat) (v) : (s.setPort k v).port k = v := tget_tset_same _ _ _ _
@[simp] theorem port_setPort_other (s : State) (k j : Nat) (v) (h : j ≠ k) : (s.setPort k v).port j = s.port j := tget_tset_other _ _ _ _ _ h
@[simp] theorem port_modPort (s : State) (k : Nat) (f) : (s.modPort k f).port k = f (s.port k) := tget_tset_same _ _ _ _
@[simp] theorem port_modPort_other (s : State) (k j : Nat) (f) (h : j ≠ k) : (s.modPort k f).port j = s.port j := tget_tset_other _ _ _ _ _ h
@[simp] theorem group_setGroup (s : State) (k : Nat) (v) : (s.setGroup k v).group k = v := tget_tset_same _ _ _ _
@[simp] theorem group_setGroup_other (s : State) (k j : Nat) (v) (h : j ≠ k) : (s.setGroup k v).group j = s.group j := tget_tset_other _ _ _ _ _ h
@[simp] theorem evq_setEvq (s : State) (k : Nat) (v) : (s.setEvq k v).evq k = v := tget_tset_same _ _ _ _
@[simp] theorem evq_setEvq_other (s : State) (k j : Nat) (v) (h : j ≠ k) : (s.setEvq k v).evq j = s.evq j := tget_tset_other _ _ _ _ _ h
@[simp] theorem tapOf_setTap (s : State) (k : Nat) (v) : (s.setTap k v).tapOf k = v := tget_tset_same _ _ _ _
@[simp] theorem tapOf_setTap_other (s : State) (k j : Nat) (v) (h : j ≠ k) : (s.setTap k v).tapOf j = s.tapOf j := tget_tset_other _ _ _ _ _ h
@[simp] theorem core_setCore (s : State) (k : Nat) (v) : (s.setCore k v).core k = v := tget_tset_same _ _ _ _
@[simp] theorem core_setCore_other (s : State) (k j : Nat) (v) (h : j ≠ k) : (s.setCore k v).core j = s.core j := tget_tset_other _ _ _ _ _ h
@[simp] theorem lock_setLock (s : State) (k : Nat) (v) : (s.setLock k v).lock k = v := tget_tset_same _ _ _ _
@[simp] theorem lock_setLock_other (s : State) (k j : Nat) (v) (h : j ≠ k) : (s.setLock k v).lock j = s.lock j := tget_tset_other _ _ _ _ _ h

/-- Streams are numbered four to a carrier: a class below 4 of a carrier is no other stream. -/
@[simp] theorem stream_setStream (s : State) (k c : Nat) (v) : (s.setStream k c v).stream k c = v := tget_tset_same _ _ _ _
@[simp] theorem stream_setStream_other (s : State) (k c j d : Nat) (v) (hc : c < 4) (hd : d < 4) (h : ¬(j = k ∧ d = c)) : (s.setStream k c v).stream j d = s.stream j d :=
  tget_tset_other _ _ _ _ _ (by omega)

/-- A configuration register reads what was written to it, every other one what it held. -/
theorem reg_setReg (s : State) (a b v : Nat) : reg (setReg s a v) b = if b = a then v % 2 ^ 64 else reg s b := by
  unfold reg setReg
  simp only [tget_tset]
  by_cases h : b = a
  · simp [h]
  · simp only [h, if_false]
    have : cfgReset { s with cfg := tset s.cfg a (BitVec.ofNat 64 v) } b = cfgReset s b := rfl
    rw [this]

end Sys2Proof.Machine
end

