-- ==== Sys2Proof/WellFormed.lean ====
section
/-!
DEFINITION. Which commands are well formed: their operands name something the block has, in the form in which the outside can bring it. The machine does not depend on it: a
command that is not well formed is answered all the same, as the spec says or as an event that cannot arise.
-/

namespace Sys2Proof

/-- Ports of Table 10.1. -/
def portOk (n : BitVec 5) : Bool := n.toNat < 31
/-- Ports with target channels (R263, R268): the tensor ports and PP. -/
def targetPortOk (n : BitVec 5) : Bool := n.toNat < 16 || n.toNat = 22
/-- Cores of the firmware complex (Table 11.1). -/
def coreOk (n : BitVec 4) : Bool := n.toNat < 11
/-- Tags of a command port (R147). -/
def cqTagOk (n : Byte) : Bool := n.toNat < 32
/-- The width of an access and its place (Table 14.3): 32 or 64 bits, aligned to its width. -/
def accessOk (off : BitVec 20) (width : Nat) : Bool := (width = 32 && off.toNat % 4 = 0) || (width = 64 && off.toNat % 8 = 0)
/-- Rows of Table 12.6 that a slice can be of. -/
def sliceKindOk (k : BitVec 4) : Bool := 1 ≤ k.toNat && k.toNat < 10
/-- The carrier's power-up: T1 holds the directory region (R10), banks and slices of the marches exist. -/
def powerUpOk (u : PowerUp) : Bool := 134217728 ≤ u.t1Size && 0 < u.tfMHz && 0 < u.bmMHz && 0 < u.peerMHz && 0 < u.coreMHz && u.marches.all fun m => m.kind = 5 || m.kind = 6

/-- The command is well formed. -/
def Instr.wellFormed (i : Instr) : Bool :=
  match i with
  | .readResponse port _ _ _ _ => portOk port
  | .writeResponse port _ _ => portOk port
  | .portTimeout port _ => portOk port
  | .portRetire port => portOk port
  | .portReset port => portOk port
  | .restore port => portOk port
  | .portResetAck port _ => portOk port
  | .portResetTimeout port => portOk port
  | .targetRequest port _ _ _ _ len beats _ _ => targetPortOk port && beats.length ≤ 64 * (len.toNat + 1)
  | .sourceReset port _ => targetPortOk port
  | .sourceResetEnd port _ => targetPortOk port
  | .heartbeatTimeout core => coreOk core
  | .protectionFault core _ => coreOk core
  | .coreRejoin core => coreOk core
  | .lockAcquire _ cores => cores ≠ 0
  | .lockRenew _ core => coreOk core
  | .lockRelease _ core => coreOk core
  | .logRecord sev core _ _ _ => coreOk core && sev.toNat < 4
  | .stepTimeout _ tag => cqTagOk tag
  | .budgetTableWrite _ _ k _ => k.toNat < 12
  | .evqHeadWrite q _ => q.toNat < 17
  | .calUserWrite e _ => e.toNat < 12
  | .registerWrite off width _ => accessOk off width
  | .atsCompletion p _ perm => p.toNat ≤ 16 && perm.all fun log => log.toNat ≤ 18
  | .pageResponse p _ _ => p.toNat ≤ 16
  | .invalidationRequest p _ _ => p.toNat ≤ 16
  | .throttleLevel sensors => sensors.length = 8
  | .bistSliceEnd kind _ _ _ _ => sliceKindOk kind
  | .marchYield kind => sliceKindOk kind
  | .coldReset u => powerUpOk u
  | .warmReset u => powerUpOk u
  | .resetCtlWarm _ u => powerUpOk u
  | .imageInstrumentWrite _ u => powerUpOk u
  | .agerVisit x => x ≠ 0
  | .sealWatchdog x => x ≠ 0
  | .hello h _ _ _ => h.ver ≠ 0
  | .nop .. | .decl .. | .bind .. | .retire .. | .pin .. | .unpin .. | .keep .. | .sqz .. | .spill .. | .drop .. | .stock .. | .fetch .. | .promote .. | .demote ..
  | .rcpdef .. | .rcprun .. | .rngcap .. | .rngset .. | .gather .. | .sweep .. | .land .. | .tstream .. | .xchg .. | .snap .. | .bounce .. | .fill .. | .cmp ..
  | .inline .. | .wait .. | .signal .. | .fence .. | .bar .. | .markdep .. | .deadline .. | .epoch .. | .budget .. | .watch .. | .report .. | .jump .. | .loop ..
  | .halt .. | .opcodeUnassigned .. | .unreportedFailure .. | .icacheFill .. | .directoryMissFill .. | .load .. | .planLoadDone .. | .start .. | .stopDrain ..
  | .stopAbort .. | .resume .. | .reset .. | .unload .. | .contextSwitch .. | .ladleIssue .. | .watchdog .. | .wfgBuild .. | .windowBoundary .. | .burstSlot ..
  | .moveStart .. | .latestStart .. | .moveDone .. | .recipeDispatch .. | .stepLaunch .. | .recipeDone .. | .inputWaitTimeout .. | .chanDoorbell ..
  | .descriptorFetch .. | .copy .. | .descFill .. | .descCmp .. | .igather .. | .descNop .. | .chanEnable .. | .chanDisableDrain .. | .chanDisableAbort ..
  | .partEnable .. | .partDisableDrain .. | .partDisableAbort .. | .cqHeadWrite .. | .pacingRequest .. | .overrun .. | .plStuck .. | .pairCheck .. | .stuckClear ..
  | .clusterHung .. | .orphanTags .. | .semWrite .. | .semAdd .. | .ack .. | .nak .. | .token .. | .verify .. | .vreply .. | .release .. | .decline ..
  | .shardreq .. | .xnotice .. | .cnotice .. | .data .. | .rdone .. | .replayTimeout .. | .relink .. | .relinkAll .. | .landCutoff .. | .backLaneCheck ..
  | .satTrainingTimeout .. | .done .. | .rngAck .. | .rngData .. | .snoop .. | .hostLinkDown .. | .hotReset .. | .hostResponseTimeout ..
  | .hostTagOrphan .. | .reattach .. | .droop .. | .droopHoldEnd .. | .partitionReset .. | .restartCore .. | .update .. | .imageStaged .. | .switch .. | .discard ..
  | .acceptance .. | .leaseexp .. | .fwNegGo .. | .logHeadWrite .. | .frequencyCheck .. | .provision .. | .user .. | .rma .. | .scrap .. | .vppTimeout ..
  | .vppLoss .. | .install .. | .remove .. | .bistSlice .. | .unitMask .. | .force .. | .hsetClear .. | .tgrpValidate .. | .barGroupValid .. | .cntSnap ..
  | .gcntSnap .. | .watchSel .. | .shareSel .. | .watchSample .. | .traceHeadWrite .. | .wfgBusyClear .. | .badacc .. | .h2dResponse .. | .backLaneCredits ..
  | .controllerResetDone .. | .vppOk .. | .supplyFail .. | .keyCommandDone .. => true

end Sys2Proof
end

