-- ==== Sys2Proof/Tests/Slice0.lean ====
section
/-!
SUPPORT. The model's own tests: ill-formed commands are refused by the check, words and layouts written out from the tables, one state per statement that meets its hypotheses,
and small results. Every expected value is computed by hand from the rule it cites.
-/

namespace Sys2Proof.Tests

open Sys2Proof Sys2Proof.Machine

set_option Elab.async false

/-- Partition 0 has semaphores, rings, recipe slots, queues and lines from number 0 on, a quota of 100 entries, a window in T1 from 160 MiB and one in T3 of 16 MiB. -/
def cfg0 : Tbl W64 :=
  [(0x84500, 100), (0x8C040, 16 * 2 ^ 32), (0x8C048, 4 * 2 ^ 32), (0x8C050, 8 * 2 ^ 32), (0x8C058, 4 * 2 ^ 12 + 4 * 2 ^ 40), (0xF0010, 0xA000000), (0xF0018, 0x100000), (0xF0038, 0x1000000)]

/-- The address of the plan image, and addresses of objects, in T1 above the directory region. -/
def planAt : Nat := tqa 1 0x8000000
/-- An object of partition 0, RESIDENT in T1. -/
def live (n : Nat) (len : Nat := 0x1000) : Obj :=
  { gen := 1, st := .resident, lat := 31, disp := 1, home := 1, rawlen := len, homeaddr := tqa 1 (0x8000000 + 0x100000 * n), storlen := len, resv := len }
/-- The handle of entry x with generation 1. -/
def hd (x : Nat) : Nat := x * 2048 + 1
/-- A base word of opcode, NEXT, AREG, BREG, OPA, OPB and AUX. -/
def word (op next areg breg opa opb aux : Nat) : Nat := encodeBase ⟨op, next, 0, 2, 0, 0, 0, areg, breg, 0, 0, opa, opb, aux⟩

/-- A block after READY. -/
def base : State := { State.reset with ready := true, t1Size := 0x10000000, t2Size := 0x10000000, cfg := cfg0, inForce := [] }
/-- The state in which context 0 is on sequencer 0 at the first of the words, in a plan image that is object 1, with more objects, all held by the directory cache. -/
def atWords (ws : List Nat) (objs : Tbl Obj := []) (g : Tbl W64 := []) : State :=
  let plan : Slot := { valid := true, handle := hd 1, format := 2, len := 0x400, entry := 0x40 }
  let v : Ctx := { st := .active, seq := some 0, slot0 := plan, pc := 0x40, g := g }
  let img : Obj := { live 0 0x400 with plan := true }
  let s : State := { base with
    ctxs := [(0, v)], seqs := [(0, { ctx := some 0 })], icache := [(hd 1, 0)], objs := (1, img) :: objs,
    dir := { fresh := 100, sets := ((1, img) :: objs).map fun e => (e.1, [(0, e.1)]) } }
  s.store (planAt + 0x40) (ws.flatMap (leBytes 16))


/- Witnesses: the instructions. -/

theorem witness_step : { base with pending := [.droop] }.pending = .droop :: [] ∧ State.reset.pending = [] := by decide +kernel

theorem witness_nop_decl :
    atIssue (atWords [word 0 0 0 0 0 0 0]) 0 0x00 = true ∧
    let s := atWords [word 0x01 1 0 0 0 0 0x301F, 0x1000]
    let b := atBody s 0
    atIssue s 0 0x01 = true ∧ declOk b (insOf s 0) = true ∧ quotaOk b (insOf s 0).p = true ∧ dirTurn b (.retryCtx (insOf s 0).c) = true ∧ dirFree b = some 100 := by decide +kernel

theorem witness_bind :
    let s := atWords [word 0x02 1 1 0 3 0 0x51, 1] [(2, { live 2 with st := .declared, home := 0, homeaddr := 0, resv := 0, storlen := 0 })] [(3, 4097)]
    let b := atBody s 0
    let i := insOf s 0
    let x := hIdx (hdlA b i)
    atIssue s 0 0x02 = true ∧ operandOk b i.p (hdlA b i) false = true ∧ i.b.opb < semCount b i.p ∧ i.e 0 15 0 ≠ 0 ∧ bindTierOk (b.obj x) (i.aux 1 0) = true ∧ (b.obj x).st = .declared ∧
      (b.obj x).holds = 0 ∧ storeWaits b i.c = false ∧ (getSpace b i.p (i.aux 1 0) (b.obj x).rawlen false .none (some i.c) (.retryCtx i.c)).1 = some (0x8000000 + 0x400) := by decide +kernel

theorem witness_retire_pin_unpin :
    let f := fun (op : Nat) => atWords [word op 0 0 0 (hd 2) 0 0] [(2, live 2)]
    atIssue (f 0x03) 0 0x03 = true ∧ operandOk (atBody (f 0x03) 0) 0 (hdlA (atBody (f 0x03) 0) (insOf (f 0x03) 0)) true = true ∧ ((atBody (f 0x03) 0).obj 2).holds = 0 ∧
      hIdx (hdlA (atBody (f 0x03) 0) (insOf (f 0x03) 0)) = 2 ∧ ((atBody (f 0x03) 0).obj 2).st = .resident ∧
    atIssue (f 0x04) 0 0x04 = true ∧ operandOk (atBody (f 0x04) 0) 0 (hdlA (atBody (f 0x04) 0) (insOf (f 0x04) 0)) false = true ∧
    atIssue (f 0x05) 0 0x05 = true ∧ operandOk (atBody (f 0x05) 0) 0 (hdlA (atBody (f 0x05) 0) (insOf (f 0x05) 0)) false = true := by decide +kernel

/-- An object with a recipe, captured. -/
def recip (n : Nat) (st : ObjSt) : Obj := { live n with st := st, rvalid := true, recipe := 0, rngcap := true, clmask := 1 }
/-- A state with recipe slot 0 valid for objects of 4 KiB. -/
def slotted (s : State) : State := { s with slots := [(0, { valid := true, outlen := 0x1000, clmask := 1, capmask := 3 })] }

theorem witness_dispositions : ∀ e ∈ [(0x10, 1), (0x11, 2), (0x12, 3), (0x13, 4), (0x17, 5)], ∀ st ∈ [ObjSt.declared, .bound, .resident],
    let s := slotted (atWords [word e.1 0 0 0 (hd 2) 0 0] [(2, recip 2 st)])
    let b := atBody s 0
    let i := insOf s 0
    let x := hIdx (hdlA b i)
    atIssue s 0 e.1 = true ∧ operandOk b i.p (hdlA b i) false = true ∧ dispOk b x e.2 = true ∧ (b.obj x).holds = 0 ∧ (b.obj x).st = st := by decide +kernel

theorem witness_fetch_promote : ∀ op ∈ [0x14, 0x15], ∀ st ∈ [ObjSt.resident, .dropped],
    let s := slotted (atWords [word op 0 0 0 (hd 2) 0 1] [(2, recip 2 st)])
    let b := atBody s 0
    let i := insOf s 0
    let x := hIdx (hdlA b i)
    atIssue s 0 op = true ∧ dlOf b i (b.ctx i.c).dlbase = some .none ∧ fetchOk b i (hdlA b i) = true ∧ (b.obj x).holds = 0 ∧ (b.obj x).st = st ∧
      slotFor b x = true ∧ maskUp b (b.slot (b.obj x).recipe).clmask = true ∧ classBarred b i.p 2 = false := by decide +kernel

theorem witness_demote :
    let s := atWords [word 0x16 0 0 0 (hd 2) 0 3] [(2, { live 2 with home := 1 })]
    let b := atBody s 0
    let i := insOf s 0
    let x := hIdx (hdlA b i)
    atIssue s 0 0x16 = true ∧ operandOk b i.p (hdlA b i) false = true ∧ demoteTo b x (i.aux 1 0) (i.aux 2 2 = 1) = some (.tier 3 .enc) ∧ (b.obj x).st = .resident ∧
      (b.obj x).holds = 0 ∧ (b.obj x).snapHold = 0 ∧ (b.obj x).pinned = false ∧ (b.obj x).home < 3 ∧ classBarred b i.p 1 = false := by decide +kernel

theorem witness_fetch_ahead :
    let s := (atWords [word 0x14 0 0 0 (hd 2) 0 1] [(2, live 2)]).modCtx 0 fun v => { v with ahead := [⟨0, 0x40, 5⟩] }
    let v := s.ctx 0
    let i := insOf s 0
    seated s 0 = true ∧ pcOk v v.pc = true ∧ icNeed s 0 = none ∧ i.b.opcode = 0x14 ∧ baseBad s 0 v.pc = [] ∧ nextBad s 0 v.pc = false ∧ extBad s 0 v.pc = [] ∧
      (v.ahead.any fun a => a.slot = v.aslot && a.pc = v.pc) = true := by decide +kernel

theorem witness_rcpdef :
    (let s := slotted (atWords [word 0x20 0 0 0 0 0 1])
     atIssue s 0 0x20 = true ∧ (insOf s 0).b.opa < rcpCount (atBody s 0) 0 ∧ slotRefs (atBody s 0) 0 = 0 ∧ (insOf s 0).aux 0 0 = 1) ∧
    let s := atWords [word 0x20 1 0 0 0 0 0, tqa 1 0xA000000 + 64 * 2 ^ 64]
    let b := atBody s 0
    let i := insOf s 0
    atIssue s 0 0x20 = true ∧ i.b.opa < rcpCount b i.p ∧ slotRefs b (rcpBase b i.p + i.b.opa) = 0 ∧ i.aux 0 0 = 0 ∧ inWindow b i.p (i.e 0 63 0) (i.e 0 95 64) = true ∧
      i.e 0 95 64 % 16 = 0 ∧ 64 ≤ i.e 0 95 64 ∧ i.e 0 95 64 ≤ 65536 ∧ tqaTier (i.e 0 63 0) = 1 ∧ quotaOk b i.p = true ∧ classBarred b i.p 11 = false := by decide +kernel

theorem witness_rcprun :
    (let s := slotted (atWords [word 0x21 0 0 0 (hd 2) 0 1] [(2, recip 2 .dropped)])
     let b := atBody s 0
     let i := insOf s 0
     atIssue s 0 0x21 = true ∧ dlOf b i (b.ctx i.c).dlbase = some .none ∧ operandOk b i.p (hdlA b i) false = true ∧ (b.obj 2).st = .dropped ∧ hIdx (hdlA b i) = 2 ∧ i.b.opb = 0 ∧
       i.aux 7 4 = 0 ∧ i.aux 1 0 = 1 ∧ slotFor b 2 = true) ∧
    let s := slotted (atWords [word 0x21 0 0 0 (hd 2) 0 1] [(2, { recip 2 .declared with resv := 0 })])
    let b := atBody s 0
    let i := insOf s 0
    let n := rcpBase b i.p + i.b.opb
    atIssue s 0 0x21 = true ∧ dlOf b i (b.ctx i.c).dlbase = some .none ∧ operandOk b i.p (hdlA b i) false = true ∧ hIdx (hdlA b i) = 2 ∧ (b.obj 2).st = .declared ∧
      (b.obj 2).clsP = false ∧ (b.obj 2).holds = 0 ∧ i.aux 1 0 < 2 ∧ i.b.opb < rcpCount b i.p ∧ (b.slot n).valid = true ∧ (b.slot n).outlen = (b.obj 2).rawlen ∧
      maskUp b (b.slot n).clmask = true ∧ classBarred b i.p 2 = false ∧ (getSpace b i.p (i.aux 1 0) (b.obj 2).rawlen false .none (some i.c) (.retryCtx i.c)).1 = some 0x8000400 := by decide +kernel

theorem witness_rngcap_rngset :
    (∀ st ∈ [ObjSt.declared, .bound],
     let s := atWords [word 0x22 0 0 0 (hd 2) 0 3] [(2, live 2)]
     let s := s.modObj 2 fun o => { o with st := st }
     let b := atBody s 0
     let i := insOf s 0
     atIssue s 0 0x22 = true ∧ operandOk b i.p (hdlA b i) false = true ∧ (b.obj 2).clsP = false ∧ (b.obj 2).st = st ∧ hIdx (hdlA b i) = 2 ∧ i.aux 7 0 ≠ 0 ∧ maskUp b (i.aux 7 0) = true) ∧
    let s := slotted (atWords [word 0x23 0 0 0 (hd 2) 0 3] [(2, recip 2 .resident)])
    let b := atBody s 0
    let i := insOf s 0
    let x := hIdx (hdlA b i)
    let m := i.aux 7 0
    let cap := (b.slot (b.obj x).recipe).capmask
    atIssue s 0 0x23 = true ∧ operandOk b i.p (hdlA b i) false = true ∧ (b.obj x).rngcap = true ∧ m ≠ 0 ∧ m ||| cap = cap ∧ maskUp b m = true := by decide +kernel

/-- A PERSISTENT object of partition 0, RESIDENT in T1. -/
def pers (n : Nat) (len : Nat := 0x1000) : Obj := { live n len with clsP := true, lat := 1, disp := 0 }
/-- An object that is DECLARED. -/
def decl (o : Obj) : Obj := { o with st := .declared, home := 0, homeaddr := 0, storlen := 0, resv := 0, disp := 0 }
/-- Partition 0 is carrier 0 of a job of four; traffic groups 5 (GATHER: one shard of 1,024 elements) and 6 (LAND) are its own; satellites of cluster 0 are there. -/
def grouped (s : State) : State :=
  { s with
    cfg := (0xB3500, BitVec.ofNat 64 (2 ^ 48 + 7 * 2 ^ 32 + 3 * 2 ^ 16)) :: s.cfg
    tgrps := [(5, { w0 := 1, w2 := 0x1000 }), (6, { w0 := 3 })]
    sat := { present := 0xFF } }

theorem witness_gather :
    (let s := grouped (atWords [word 0x30 1 0 0 (hd 2) (hd 3) 5, 5] [(2, pers 2), (3, decl (pers 3))])
     let b := atBody s 0
     let i := insOf s 0
     atIssue s 0 0x30 = true ∧ dlOf b i (b.ctx i.c).dlbase = some .none ∧ gatherOk b i = true ∧ classBarred b i.p 3 = false ∧
       (getSpace b i.p (i.aux 1 0) (b.obj (hIdx (hdlB b i))).rawlen false .none (some i.c) (.retryCtx i.c)).1 = some 0x8000400) ∧
    let s := grouped (atWords [word 0x30 2 0 0 (hd 2) (hd 3) 0x45, 5, hd 4 + 16 * 2 ^ 32 + 64 * 2 ^ 64] [(2, pers 2), (3, decl (pers 3)), (4, live 4)])
    let b := atBody s 0
    let i := insOf s 0
    atIssue s 0 0x30 = true ∧ dlOf b i (b.ctx i.c).dlbase = some .none ∧ gatherOk b i = true ∧ gatherIdx i = some (hd 4, 16, 64) ∧ classBarred b i.p 3 = false ∧
      (getSpace b i.p (i.aux 1 0) (b.obj (hIdx (hdlB b i))).rawlen false .none (some i.c) (.retryCtx i.c)).1 = some 0x8000400 := by decide +kernel

theorem witness_sweep :
    let s := grouped (atWords [word 0x31 1 0 0 (hd 2) (hd 3) 0, hd 4 + hd 5 * 2 ^ 32] [(2, pers 2), (3, pers 3 0x2000), (4, pers 4 0x2000), (5, pers 5 0x3000)])
    let s := { s with cfg := (0xB0118, 0x4400000000) :: s.cfg }
    atIssue s 0 0x31 = true ∧ sweepOk (atBody s 0) (insOf s 0) = true ∧ classBarred (atBody s 0) 0 4 = false ∧ (insOf s 0).p = 0 := by decide +kernel

theorem witness_land :
    let s := grouped (atWords [word 0x32 1 0 0 (hd 2) (hd 3) 0, 6 * 2 ^ 16 + 1] [(2, pers 2), (3, pers 3 0x3000)])
    let b := atBody s 0
    let i := insOf s 0
    atIssue s 0 0x32 = true ∧ dlOf b i (b.ctx i.c).dlbase = some .none ∧ landOk b i = true ∧ classBarred b i.p 5 = false := by decide +kernel

theorem witness_tstream :
    let s := grouped (atWords [word 0x33 1 0 0 (hd 2) 0 0, 1] [(2, pers 2)])
    let b := atBody s 0
    let i := insOf s 0
    atIssue s 0 0x33 = true ∧ dlOf b i (b.ctx i.c).dlbase = some .none ∧ teachOk b i = true ∧ teachUp b i = true ∧ classBarred b i.p 3 = false := by decide +kernel

theorem witness_xchg : ∀ dir ∈ [0, 1, 2],
    let s := grouped (atWords [word 0x34 1 0 0 (if dir = 1 then 0 else hd 2) (if dir = 0 then 0 else hd 3) (if dir = 0 then 0 else 1), 2 + dir * 2 ^ 16 + 9 * 2 ^ 32]
      [(2, live 2), (3, decl (live 3))])
    let b := atBody s 0
    let i := insOf s 0
    atIssue s 0 0x34 = true ∧ dlOf b i (b.ctx i.c).dlbase = some .none ∧ xchgOk b i = true ∧ classBarred b i.p 6 = false ∧ i.e 0 17 16 = dir := by decide +kernel

theorem witness_snap :
    let s := grouped (atWords [word 0x35 0 0 0 (hd 2) 0 4] [(2, pers 2)])
    let b := atBody s 0
    let i := insOf s 0
    let o := b.obj (hIdx (hdlA b i))
    atIssue s 0 0x35 = true ∧ residentP b i.p (hdlA b i) = true ∧ quotaOk b i.p = true ∧ b.hostl.detached = false ∧ o.prot = false ∧ classBarred b i.p 8 = false ∧
      (dirFree b).isSome = true ∧ place b i.p 3 (formSize o .raw) false = some 0 := by decide +kernel

theorem witness_bounce : ∀ up ∈ [0, 1],
    let s := atWords [word 0x36 2 0 0 (hd 2) 0 up, tqa 3 0x100, 64 + 128 * 2 ^ 48] [(2, live 2)]
    let b := atBody s 0
    let i := insOf s 0
    let h := hdlA b i
    let o := b.obj (hIdx h)
    atIssue s 0 0x36 = true ∧ inWindow b i.p (i.e 0 63 0) (i.e 1 95 48) = true ∧ tqaTier (i.e 0 63 0) = 3 ∧ operandOk b i.p h false = true ∧
      rangeOk o 64 (i.e 1 47 0) (i.e 1 95 48) = true ∧ o.prot = false ∧ o.home < 3 ∧ writable o = true ∧ (i.aux 0 0 = 1 → o.st = .resident) ∧ b.hostl.detached = false ∧
      classBarred b i.p 7 = false := by decide +kernel

theorem witness_fill_cmp :
    (let s := atWords [word 0x37 2 0 0 (hd 2) 0 0, 8 + 16 * 2 ^ 48, 5] [(2, live 2)]
     let b := atBody s 0
     let i := insOf s 0
     let h := hdlA b i
     let o := b.obj (hIdx h)
     atIssue s 0 0x37 = true ∧ operandOk b i.p h false = true ∧ rangeOk o 8 (i.e 0 47 0) (i.e 0 95 48) = true ∧ writable o = true ∧ ¬(o.home = 3 ∧ b.hostl.detached = true) ∧
       classBarred b i.p 11 = false) ∧
    let s := atWords [word 0x38 1 0 0 (hd 2) (hd 3) 0, 8 + 16 * 2 ^ 48] [(2, live 2), (3, live 3)]
    let b := atBody s 0
    let i := insOf s 0
    let o := b.obj (hIdx (hdlA b i))
    let q := b.obj (hIdx (hdlB b i))
    atIssue s 0 0x38 = true ∧ operandOk b i.p (hdlA b i) false = true ∧ operandOk b i.p (hdlB b i) false = true ∧ o.st = .resident ∧ q.st = .resident ∧
      rangeOk o 8 (i.e 0 47 0) (i.e 0 95 48) = true ∧ rangeOk q 8 (i.e 0 47 0) (i.e 0 95 48) = true ∧ ¬((o.home = 3 ∨ q.home = 3) ∧ b.hostl.detached = true) ∧
      (o.form = .enc ∨ q.form = .enc → decUsable b = true) ∧ classBarred b i.p 11 = false := by decide +kernel

theorem witness_inline :
    let s := atWords [word 0x39 1 1 0 4 0 8, 5] [] [(4, BitVec.ofNat 64 (tqa 1 0xA000000))]
    let b := atBody s 0
    let i := insOf s 0
    let a := (b.ctx i.c).gr (i.b.opa % 16)
    let n := i.aux 6 0
    atIssue s 0 0x39 = true ∧ i.b.areg = 1 ∧ n ≠ 0 ∧ n ≤ 16 * nextMax (b.ctx i.c).plan.format ∧ a % 4096 + n ≤ 4096 ∧ inWindow b i.p a n = true ∧ t3Away b a = false ∧
      classBarred b i.p 11 = false ∧ isHeld (go b i (rqOf s 0)) i.c = false := by decide +kernel

theorem witness_wait_sem :
    (∀ n ∈ [3, 0],
     let s := (atWords [word 0x40 0 0 0 2 n 0]).setSem 2 { val := n }
     let b := atBody s 0
     let i := insOf s 0
     atIssue s 0 0x40 = true ∧ i.aux 0 0 = 0 ∧ i.b.opa < semCount b i.p ∧ (b.sem (semBase b i.p + i.b.opa)).q = [] ∧ i.b.opb ≤ (b.sem (semBase b i.p + i.b.opa)).val) ∧
    let s := (atWords [word 0x40 0 0 0 2 3 0]).setSem 2 { val := 2 }
    let b := atBody s 0
    let i := insOf s 0
    atIssue s 0 0x40 = true ∧ i.aux 0 0 = 0 ∧ i.b.opa < semCount b i.p ∧ i.b.opb ≠ 0 ∧ (b.sem (semBase b i.p + i.b.opa)).val < i.b.opb ∧ storeFull b = false := by decide +kernel

theorem witness_wait_ring : ∀ t ∈ [0, 1],
    let s := (atWords [word 0x40 0 0 0 2 0 0x31]).setRing 2 { cfg := 2, tail := t }
    let s := { s with ringStore := [(0, hd 7)] }
    let b := atBody s 0
    let i := insOf s 0
    let n := ringBase b i.p + i.b.opa
    atIssue s 0 0x40 = true ∧ i.aux 0 0 = 1 ∧ ringOkFor b i.p i.b.opa = true ∧ (ringPop b n (.ctx i.c)).1 = (if t = 1 then some (hd 7) else none) ∧ ringCount' (b.ring n) = t := by
  decide +kernel

theorem witness_signal :
    (let s := atWords [word 0x41 0 0 0 2 3 0]
     let b := atBody s 0
     let i := insOf s 0
     atIssue s 0 0x41 = true ∧ i.aux 0 0 = 0 ∧ i.b.opa < semCount b i.p ∧ isHeld b i.c = false) ∧
    ∀ t ∈ [0, 2],
    let s := (atWords [word 0x41 0 0 0 2 (hd 2) 1] [(2, live 2)]).setRing 2 { cfg := 1, tail := t }
    let b := atBody s 0
    let i := insOf s 0
    let h := hdlB b i
    let n := ringBase b i.p + i.b.opa
    atIssue s 0 0x41 = true ∧ i.aux 0 0 = 1 ∧ ringOkFor b i.p i.b.opa = true ∧ operandOk b i.p h false = true ∧ isHeld (touch b (hIdx h)) i.c = false ∧
      (ringPush (touch b (hIdx h)) n h (.ctx i.c) none).2 = decide (t = 0) := by decide +kernel

theorem witness_fence_markdep :
    atIssue (atWords [word 0x42 0 0 0 0 0 0]) 0 0x42 = true ∧
    let s := atWords [word 0x44 0 0 0 2 0 0]
    atIssue s 0 0x44 = true ∧ (insOf s 0).b.opa < semCount (atBody s 0) (insOf s 0).p := by decide +kernel

/-- Barrier group 3, LGROUP 9, of partition 0 has leaf node 4, the root; contexts 0 and 7 are its children. -/
def barred (s : State) : State :=
  { s with
    bars := [(3, { cfg := 1 + 9 * 2 ^ 8 + 4 * 2 ^ 16 })]
    cfg := [(0xB4040, BitVec.ofNat 64 (7 + 2 ^ 12 + 3 * 2 ^ 16)), (0xB5100, BitVec.ofNat 64 (2 ^ 31)), (0xB5104, BitVec.ofNat 64 (2 ^ 31 + 7))] ++ s.cfg }

theorem witness_bar :
    let s := barred (atWords [word 0x43 0 0 0 9 0 0])
    let b := atBody s 0
    let i := insOf s 0
    atIssue s 0 0x43 = true ∧ barFor b i.p (i.b.opa % 256) = some 3 ∧ barChild b 3 i.c = true ∧ ((b.bar 3).latched.find? fun l => l.1 = i.c) = none ∧
      (b.node (barLeaf b 3)).arrived.any (fun e => e.1 = i.c) = false ∧ b.ops.any (fun o => o.req.who = .ctx i.c && o.kind = .heldBar 3) = false ∧ isHeld b i.c = false := by decide +kernel

theorem witness_deadline :
    (∀ e ∈ [(0, 0, 0, 0), (1, 1, 3, 0), (2, 0, 7, 9), (3, 0, 0, 0)],
     let s := atWords [word 0x45 0 e.2.1 0 e.2.2.1 e.2.2.2 e.1]
     let i := insOf s 0
     atIssue s 0 0x45 = true ∧ i.aux 1 0 = e.1 ∧ i.b.areg = e.2.1 ∧ i.b.opb = e.2.2.2) := by decide +kernel

theorem witness_epoch : ∀ l ∈ [none, some 5],
    let s := (atWords [word 0x50 0 0 0 0 0 0]).modCtx 0 fun v => { v with slot1 := { v.slot1 with loading := l } }
    let b := retireTransient (epochStep (atBody s 0) 0 0) 0 0
    let v := b.ctx 0
    atIssue s 0 0x50 = true ∧ (v.slotAt (1 - v.aslot)).loading = l ∧ (v.slotAt (1 - v.aslot)).valid = false ∧ (insOf s 0).c = 0 ∧ (insOf s 0).p = 0 := by decide +kernel

theorem witness_budget_watch :
    (∀ k ∈ [0, 11], let s := atWords [word 0x51 0 0 0 7 9 k]; atIssue s 0 0x51 = true ∧ (insOf s 0).aux 3 0 = k) ∧
    (let s := (atWords [word 0x52 0 0 0 0 3 0x20]).setTap 3 { armed := true }
     let b := atBody s 0
     let i := insOf s 0
     atIssue s 0 0x52 = true ∧ i.aux 5 5 = 1 ∧ (b.tapOf i.b.opb).armed = true ∧ (b.tapOf i.b.opb).part = i.p ∧ i.b.opa = 0 ∧ i.aux 3 0 = 0) ∧
    ∀ m ∈ [0x10, 4],
    let s := atWords [word 0x52 0 0 0 (hd 2) 0 m] [(2, live 2)]
    let s := { s with cfg := (0xB9600, 4) :: s.cfg }
    let b := atBody s 0
    let i := insOf s 0
    atIssue s 0 0x52 = true ∧ i.aux 5 5 = 0 ∧ freeTap b i.p = some 0 ∧ operandOk b i.p (hdlA b i) false = true ∧ (b.obj (hIdx (hdlA b i))).st = .resident ∧ i.b.opb = 0 ∧
      i.aux 3 0 ≤ 4 ∧ (i.aux 3 0 ≠ 0 ∨ i.aux 4 4 = 1) := by decide +kernel

theorem witness_report :
    (let s := atWords [word 0x53 0 0 0 7 9 0]
     atIssue s 0 0x53 = true ∧ (insOf s 0).aux 1 0 = 0) ∧
    ∀ m ∈ [1, 2, 3],
    let s := atWords [word 0x53 1 0 0 (if m = 1 then hd 2 else 0) 9 m, tqa 1 0xA000000] [(2, live 2)]
    let b := atBody s 0
    let i := insOf s 0
    let a := i.e 0 63 0
    let bs := if i.aux 1 0 = 1 then leBytes 64 (entryWord b (hIdx (hdlA b i))) else if i.aux 1 0 = 2 then cntBlock b i.c else poolBlock b i.p
    atIssue s 0 0x53 = true ∧ i.aux 1 0 = m ∧ inWindow b i.p a bs.length = true ∧ (i.aux 1 0 = 1 → operandOk b i.p (hdlA b i) true = true) ∧ a % 64 = 0 ∧ tqaTier a = 1 ∧
      t3Away b a = false ∧ classBarred b i.p 11 = false := by decide +kernel

theorem witness_loop :
    (∀ n ∈ [0, 1, 2 ^ 32 - 1],
     let s := atWords [word 0x55 0 0 0 n 0x40 0]
     atIssue s 0 0x55 = true ∧ (insOf s 0).aux 0 0 = 0 ∧ ((atBody s 0).ctx 0).loops.length < 4 ∧ opA (atBody s 0) (insOf s 0) % 2 ^ 32 = n ∧
       pcOk ((atBody s 0).ctx 0) (insOf s 0).b.opb = true) ∧
    ∀ n ∈ [1, 2],
    let s := (atWords [word 0x55 0 0 0 0 0 1]).modCtx 0 fun v => { v with loops := [(n, 0x40)] }
    atIssue s 0 0x55 = true ∧ (insOf s 0).aux 0 0 = 1 ∧ ((atBody s 0).ctx 0).loops = [(n, 0x40)] ∧ (insOf s 0).b.opa = 0 ∧ (insOf s 0).b.opb = 0 ∧ (insOf s 0).b.areg = 0 := by
  decide +kernel

theorem witness_jump_halt :
    (∀ e ∈ [(0, 0x40, true, true), (0, 0x30, true, false), (1, 0x3F0, true, true), (2, 0x40, false, true), (3, 0x50, false, true)],
     let s := atWords [word 0x54 0 0 0 e.2.1 0 e.1]
     let i := insOf s 0
     let b := atBody s 0
     let g := (b.ctx i.c).gr (i.aux 7 4) % 2 ^ 32
     let taken : Bool := i.aux 1 0 = 0 || (i.aux 1 0 = 1 && g = 0) || (i.aux 1 0 = 2 && g ≠ 0) || (i.aux 1 0 = 3 && bitOf (b.part i.p).nf ((b.ctx i.c).step % 4))
     atIssue s 0 0x54 = true ∧ taken = e.2.2.1 ∧ pcOk (b.ctx i.c) (i.b.opa % 2 ^ 32) = e.2.2.2) ∧
    atIssue (atWords [word 0x5F 0 0 0 0 0 7]) 0 0x5F = true := by decide +kernel

theorem witness_exceptions :
    (let s := atWords [word 0x06 0 0 0 0 0 0]
     seated s 0 = true ∧ pcOk (s.ctx 0) (s.ctx 0).pc = true ∧ icNeed s 0 = none ∧ outOfTable s 0 (decodeBase (planWord s 0 0x40)).opcode = true ∧ baseBad s 0 0x40 ≠ [] ∧
       (s.ctx 0).pc = 0x40) ∧
    (let s := (atWords [word 0 0 0 0 0 0 0]).modCtx 0 fun v => { v with fails := [⟨0x40, 0x10, 0x12, 0, 0⟩] }
     (s.ctx 0).st = .active ∧ (s.ctx 0).seq.isSome = true ∧ (s.ctx 0).waitKind = 0 ∧ (s.ctx 0).miss = none ∧ (s.ctx 0).fails ≠ []) ∧
    (let s : State := { atWords [word 0 0 0 0 0 0 0] with icache := [] }
     seated s 0 = true ∧ pcOk (s.ctx 0) (s.ctx 0).pc = true ∧ s.icache.contains ((s.ctx 0).plan.handle, 0) = false ∧ 0 = (s.ctx 0).pc / 128) ∧
    (let s := (atWords [0, 0, 0, word 0x37 2 0 0 (hd 2) 0 0, 8 + 16 * 2 ^ 48, 5]).modCtx 0 fun v => { v with pc := 0x70 }
     let last := ((s.ctx 0).pc + 16 * (wordsAt s 0 (s.ctx 0).pc).2.length) / 128
     seated s 0 = true ∧ pcOk (s.ctx 0) (s.ctx 0).pc = true ∧ s.icache.contains ((s.ctx 0).plan.handle, (s.ctx 0).pc / 128) = true ∧
       s.icache.contains ((s.ctx 0).plan.handle, last) = false ∧ 1 = last) ∧
    (let s := (atWords [word 0 0 0 0 0 0 0]).modCtx 0 fun v => { v with miss := some 2 }
     (s.ctx 0).st = .active ∧ (s.ctx 0).miss = some 2) ∧
    (let s := atWords [word 0x37 2 0 0 (hd 2) 0 1]
     (Instr.fill 0, 0x37) ∈ kwemalRows 0 ∧ seated s 0 = true ∧ pcOk (s.ctx 0) (s.ctx 0).pc = true ∧ icNeed s 0 = none ∧ (insOf s 0).b.opcode = 0x37 ∧ baseBad s 0 (s.ctx 0).pc ≠ []) ∧
    (let s := atWords [word 0x37 1 0 0 (hd 2) 0 0]
     icNeed s 0 = none ∧ (insOf s 0).b.opcode = 0x37 ∧ baseBad s 0 (s.ctx 0).pc = [] ∧ nextBad s 0 (s.ctx 0).pc = true) ∧
    (let s := atWords [word 0x37 2 0 0 (hd 2) 0 0, 8 + 16 * 2 ^ 48, 2 ^ 100]
     icNeed s 0 = none ∧ (insOf s 0).b.opcode = 0x37 ∧ baseBad s 0 (s.ctx 0).pc = [] ∧ nextBad s 0 (s.ctx 0).pc = false ∧ extBad s 0 (s.ctx 0).pc ≠ []) := by decide +kernel

/- Witnesses: contexts, transfers, recipes. -/

/-- Context 0 in a state, with a plan in slot 0. -/
def ctxIn (st : CtxSt) (saved : Bool := false) : State :=
  { base with ctxs := [(0, { st := st, saved := saved, slot0 := { valid := true, handle := hd 1, format := 2, len := 0x400, entry := 0x40 } })], objs := [(1, { live 0 0x400 with plan := true })] }

theorem witness_load :
    let s := ({ base with cfg := (0x88008, BitVec.ofNat 64 (tqa 3 0)) :: cfg0 }.store (tqa 3 0) (leBytes 32 (0x4C4D574B + 2 * 2 ^ 32 + 0x400 * 2 ^ 64 + 0x40 * 2 ^ 96)))
    let t := raiseFails s 0
    let src := reg t (0x88008 + 0x40 * 0 + 8 * 0)
    canRing s 0 = true ∧ t.bist.fatal = false ∧ t.lc.held = false ∧ loadRej (t.ctx 0) 0 = false ∧ t.hostl.detached = false ∧ tqaTier src = 3 ∧ tqaRsv src = 0 ∧
      headerBad t (ctxPart t 0) src (rdNumP t (ctxPart t 0) src 64) = 0 := by decide +kernel

theorem witness_start : ∀ st ∈ [CtxSt.loaded, .stopped, .halted, .faulted],
    let s := ctxIn st
    let t := raiseFails s 0
    let v := t.ctx 0
    canRing s 0 = true ∧ t.bist.fatal = false ∧ mayStart t = true ∧ v.st = st ∧ (v.slotAt 0).valid = true ∧ (v.slotAt 0).loading = none ∧ (t.part (ctxPart t 0)).st = 0 := by
  decide +kernel

theorem witness_stop_reset_unload :
    (let s := ctxIn .active; canRing s 0 = true ∧ ((raiseFails s 0).ctx 0).st = .active ∧ ((raiseFails s 0).ctx 0).resetting = none) ∧
    (∀ st ∈ [CtxSt.stopped, .faulted], let s := ctxIn st true; canRing s 0 = true ∧ ((raiseFails s 0).ctx 0).st = st ∧ ((raiseFails s 0).ctx 0).saved = true) ∧
    (let s := ctxIn .loaded; canRing s 0 = true ∧ ((raiseFails s 0).ctx 0).st ≠ .active ∧ ((raiseFails s 0).ctx 0).st ≠ .stopping) ∧
    (let s := (ctxIn .loaded).modCtx 0 fun v => { v with slot1 := { v.slot1 with loading := some 3 } }
     canRing s 0 = true ∧ (((raiseFails s 0).ctx 0).slotAt 1).loading.isSome = true) ∧
    let s := (ctxIn .loaded).modCtx 0 fun v => { v with slot1 := { v.slot0 with handle := hd 2 } }
    let s := s.setObj 2 { live 2 with plan := true }
    let t := raiseFails s 0
    let u := dropPlan t 0 1
    canRing s 0 = true ∧ (t.ctx 0).st = .loaded ∧ ((t.ctx 0).slotAt 1).loading = none ∧ (u.ctx 0).st = .loaded ∧ (u.ctx 0).slot0.valid = true := by decide +kernel

theorem witness_fifth_command : let s := base.modCtx 0 fun v => { v with cmds := [⟨3, 0, 1⟩, ⟨3, 0, 2⟩, ⟨3, 0, 3⟩, ⟨3, 0, 4⟩] }; s.ready = true ∧ 4 ≤ (s.ctx 0).cmds.length := by
  decide +kernel

theorem witness_plan_load_done :
    let o : Op := { id := 3, req := {}, kind := .plan 0 1 (hd 2) (tqa 3 0) 0x400 7, phase := .running }
    let s := { base with ops := [o] }
    planOp s 0 1 = some o ∧ o.phase = .running ∧ xferDone s o = true := by decide +kernel

theorem witness_context_switch :
    (let s := { ctxIn .active with inForce := [(0x8C000, 0xFFFF)], fw := { base.fw with cores := [(2, { up := true })] } }
     frozen s = false ∧ seqFree s 3 = true ∧ pick s 3 = some 0 ∧ (s.seq 3).ctx = none) ∧
    let s := { ctxIn .active with inForce := [(0x8C000, 0xFFFF)], fw := { base.fw with cores := [(2, { up := true })] } }
    let t := { s with seqs := [(3, { ctx := some 5 })] }
    frozen t = false ∧ seqFree t 3 = true ∧ pick t 3 = some 0 ∧ (t.seq 3).ctx = some 5 ∧
    let u := { t with ctxs := [] }
    frozen u = false ∧ seqFree u 3 = true ∧ pick u 3 = none ∧ (u.seq 3).ctx = some 5 ∧ mayStay u 3 5 = false := by decide +kernel

theorem witness_ladle_watchdog_graph :
    (let s := { ctxIn .active with inForce := [(0x94080, 0x40)] }
     (s.ctx 0).st = .active ∧ lookahead s (ctxPart s 0) ≠ 0 ∧ (s.ctx 0).ahead.length < 256) ∧
    (let s := { (ctxIn .active).modCtx 0 fun v => { v with waitKind := 1, wstart := 5 } with now := 100000006 }
     let v := s.ctx 0
     v.st = .active ∧ v.waitKind ≠ 0 ∧ frozen s = false ∧ (if bitsOf (ctxCfg s 0) 47 32 = 0 then 100 else bitsOf (ctxCfg s 0) 47 32) * 1000000 < s.now - v.wstart - v.wfrozen) ∧
    let s := { base with parts := [(0, { wfgPending := some 7 })], fw := { base.fw with cores := [(2, { up := true })] } }
    (s.part 0).wfgPending = some 7 ∧ (s.core 2).up = true ∧ (s.part 0).wfgBusy = false := by decide +kernel

theorem witness_seal_watchdog_ager :
    (let s := { base with objs := [(2, { live 2 with st := .bound, sealWait := some 5 })], now := 100000006 }
     frozen s = false ∧ (s.obj 2).sealWait = some 5 ∧ ctxWdog s (sealCtx s 2) < s.now - 5) ∧
    ({ base with objs := [(2, live 2)] }.obj 2).st ≠ .free := by decide +kernel

/-- A promotion of object 2 from T3, accepted, with a deadline at 500. -/
def fetchOp (ph : Phase) : Op := { id := 3, req := { dl := .at 500 }, kind := .move 2 1 .raw false, cls := 0, phase := ph, lstart := 100 }

theorem witness_move_starts :
    let s := { base with ops := [fetchOp .queued], objs := [(2, { live 2 with home := 3 })], now := 100, parts := [(0, { bal := [(0, 100)] })] }
    s.op 3 = some (fetchOp .queued) ∧ awaitsStart s (fetchOp .queued) = true ∧ startsEarly s (fetchOp .queued) = true ∧ (s.obj 2).st = .resident ∧ (fetchOp .queued).phase = .queued ∧
      (fetchOp .queued).lstart ≤ s.now := by decide +kernel

theorem witness_move_done :
    ∀ k ∈ [OpKind.move 2 1 .raw false, .fill 2 0 8 5, .cmp 2 4 0 8, .bounce 2 0 64 (tqa 3 0) true, .inline (tqa 1 0xA000000) [1], .report (tqa 1 0xA000000) [1]],
    let o : Op := { id := 3, req := {}, kind := k, phase := .running }
    let s := { base with ops := [o] }
    s.op 3 = some o ∧ o.phase = .running ∧ xferDone s o = true ∧ (completion s o).isSome = true := by decide +kernel

theorem witness_desc_done :
    ∀ d ∈ [({ op := 0 } : Desc), { op := 0, rpush := true }],
    let o : Op := { id := 3, req := {}, kind := .desc 3 d 0 0, phase := .running }
    let s := { base with ops := [o] }
    s.op 3 = some o ∧ o.phase = .running ∧ xferDone s o = true ∧ descReady s o d = true := by decide +kernel

/-- A recipe of one step on cluster 0 for object 2. -/
def rcp : Recipe := { obj := 2, body := { valid := true, clmask := 1, steps := [{ cl := 0, outunits := 1 }] }, prog := [{}] }
def rcpOp (r : Recipe) (ph : Phase) : Op := { id := 3, req := {}, kind := .recipe r, phase := ph, cls := 2 }

theorem witness_recipes :
    (let s := { base with ops := [rcpOp rcp .queued] }
     s.op 3 = some (rcpOp rcp .queued) ∧ rcp.failed = 0 ∧ inDispatch s < 64 ∧ recipeFirst s (rcpOp rcp .queued) = true) ∧
    (∀ d ∈ [(0, 0), (1, 3)],
     let r := { rcp with dispatched := true, prog := [{ drawn := d.2 }], body := { rcp.body with steps := [{ cl := 0, outunits := d.1 }] } }
     let s := { base with ops := [rcpOp r .running] }
     s.op 3 = some (rcpOp r .running) ∧ r.dispatched = true ∧ r.failed = 0 ∧ 0 = nextStep r ∧ 0 < r.body.steps.length ∧ r.temps = [] ∧ copUp s 0 = true ∧ cqTagFree s 0 = some 0 ∧
       needsRng s r 0 = false ∧ stepReady s r 0 = true ∧ ((stepAt r 0).outunits = 0 ∨ 0 < (RProg.at r.prog 0).drawn)) ∧
    (let r := { rcp with dispatched := true }
     let s := slotted { base with ops := [rcpOp r .running] }
     s.op 3 = some (rcpOp r .running) ∧ r.dispatched = true ∧ r.failed = 0 ∧ 0 = nextStep r ∧ 0 < r.body.steps.length ∧ r.temps = [] ∧ copUp s 0 = true ∧ cqTagFree s 0 = some 0 ∧
       (stepAt r 0).cl = 0 ∧ needsRng s r 0 = true ∧ tget s.baseHeld 0 0 = 0 ∧ baseWanted s (rcpOp r .running) 0 = false) ∧
    (∀ d ∈ [true, false],
     let r := { rcp with dispatched := true, reading := true, declared := d }
     let s := { base with ops := [rcpOp r .running] }
     let t : State := { s with tags := s.tags.filter fun t => t.op ≠ 3 || t.orphan }
     s.op 3 = some (rcpOp r .running) ∧ r.reading = true ∧ r.failed = 0 ∧ sidesDone (rcpOp r .running).x = true ∧ (s.tags.all fun t => t.op ≠ 3 || t.orphan || t.rb) = true ∧
       (rcpOp r .running).x.srcBad = false ∧ (rcpOp r .running).x.bad = 0 ∧ (r.declared = true ∨ checksDigest t r.obj = false)) ∧
    let r := { rcp with waitedInput := some 5 }
    let s := { base with ops := [rcpOp r .waitSpace], now := 100000006 }
    s.op 3 = some (rcpOp r .waitSpace) ∧ r.dispatched = false ∧ r.failed = 0 ∧ frozen s = false ∧ r.waitedInput = some 5 ∧
      ctxWdog s ((rcpOp r .waitSpace).acct.getD (partyNum (rcpOp r .waitSpace).req.who)) < s.now - 5 := by decide +kernel

theorem witness_cluster_answers :
    copUp base 3 = true ∧ (base.cqTags.find? fun e => e.1 = 32 * 3 + 7) = none ∧ 32 ≤ (32#8).toNat ∧ (7#8).toNat < 32 ∧
    let s := { base with cqTags := [(3 * 32 + 7, .launch 3 0, 5)], now := 30000000005 }
    copUp s 3 = true ∧ frozen s = false ∧ (s.cqTags.find? fun e => e.1 = 32 * 3 + 7) = some (3 * 32 + 7, .launch 3 0, 5) ∧ 5 + stepTmo s ≤ s.now := by decide +kernel

/- Witnesses: channels, queues, lines, peers. -/

/-- Host queue channel 3 of partition 0 in a state. -/
def chanIn (v : Chan) : State := { base with chans := [(3, { v with hostq := true })] }

theorem witness_doorbell : ∀ st ∈ [0, 1, 2],
    let s := chanIn { st := st }
    let v := s.chan 3
    s.ready = true ∧ v.hostq = true ∧ v.st = st ∧ v.chains.length < 16 ∧ tqa 1 0xA000000 % 64 = 0 ∧ (s.part v.part).st = 0 := by decide +kernel

theorem witness_descriptor_fetch :
    let a := tqa 1 0xA000000
    let s := { chanIn { st := 1, running := true, next := some a } with parts := [(0, { bal := [(11, 5)] })] }
    canFetch s 3 = true ∧ frozen s = false ∧ (s.chan 3).next = some a ∧ classBarred s 0 11 = false ∧ descAddrOk s 0 a = true ∧ (s.chan 3).part = 0 := by decide +kernel

theorem witness_descriptors : ∀ e ∈ ([(0, { src := tqa 1 0xA000000, dst := tqa 1 0xA001000, len := 64 }), (1, { dst := tqa 1 0xA001000, len := 64 }),
      (2, { src := tqa 1 0xA000000, dst := tqa 1 0xA001000, len := 64 }), (3, { src := tqa 1 0xA000000, dst := tqa 1 0xA001000, len := 64, aux := tqa 1 0xA002000, rowbytes := 64 }),
      (4, {}), (0, { dst := tqa 1 0xA001000, len := 64, rpop := true, rin := 2 })] : List (Nat × Desc)),
    let d := { e.2 with op := e.1, cls := 11 }
    let s := (chanIn { st := 1, running := true, ready := [(0, d)], popped := if d.rpop then some (hd 2) else none }).setRing 2 { cfg := 1 }
    canStart s 3 (fun n => n = e.1) = some (0, d) ∧ descOk s 3 d = true ∧ (d.rpop = true → (s.chan 3).popped = some (hd 2)) := by decide +kernel

theorem witness_enables :
    (chanIn { st := 6 }).ready = true ∧ ((chanIn { st := 6 }).chan 3).st = 6 ∧ ((chanIn { st := 1 }).chan 3).st < 5 ∧ ((chanIn { st := 1 }).chan 3).hostq = true ∧
    ({ base with parts := [(0, { st := 3 })] }.part 0).st = 3 ∧ ({ base with parts := [(0, { st := 3 })] }.part 0).resetting = false ∧ (base.part 0).st = 0 := by decide +kernel

theorem witness_heads :
    let s := { base with cqs := [(1, { head := 2, tail := 5 })], evqs := [(16, { head := 2 ^ 32 - 1, tail := 1 })], parts := [(2, { traceRing := { head := 0, tail := 9 } })],
                         fw := { base.fw with logPtr := { head := 3, tail := 3 } } }
    s.ready = true ∧ (5 + 2 ^ 32 - (s.cq 1).head) % 2 ^ 32 ≤ ((s.cq 1).tail + 2 ^ 32 - (s.cq 1).head) % 2 ^ 32 ∧
    ¬(6 + 2 ^ 32 - (s.cq 1).head) % 2 ^ 32 ≤ ((s.cq 1).tail + 2 ^ 32 - (s.cq 1).head) % 2 ^ 32 ∧ cqOwner s 1 = some 0 ∧ headOk (s.evq 16).head (s.evq 16).tail 1 = true ∧
    headOk (s.part 2).traceRing.head (s.part 2).traceRing.tail 9 = true ∧ headOk s.fw.logPtr.head s.fw.logPtr.tail 3 = true := by decide +kernel

theorem witness_lines :
    (∀ a ∈ [true, false], let s := { base with lines := [(2, { armed := a })] }
     (plOwner s 2).isSome = true ∧ (s.line 2).stuck = false ∧ (s.line 2).armed = a ∧ (s.line 2).level = false) ∧
    (let s := { base with lines := [(2, { level := true })], now := 100000000 }
     plOwner s 2 = some 0 ∧ (s.line 2).stuck = false ∧ (s.line 2).level = true ∧ pacedOn s 2 = [] ∧ stuckNs s ≤ s.now - (s.line 2).since ∧ frozen s = false) ∧
    let s := { base with lines := [(2, { stuck := true })] }
    s.ready = true ∧ (s.line 2).stuck = true := by decide +kernel

theorem witness_clusters :
    (let o : Op := { id := 3, req := {}, kind := .fill 2 0 64 5, phase := .running, chan := some 0, x := { wr := [{ tier := 1, addr := 0x8200000, len := 64, x := 2 }] } }
     let s := { base with ops := [o], now := 100000000, objs := [(2, live 2)], fw := { base.fw with cores := [(2, { up := true })] } }
     clusterHung s 0 = true) ∧
    let s := { base with clus := [(1, { st := 2, since := 5 })], now := 100000005 }
    (s.cluster 1).st = 2 ∧ underTest s 2 1 = false ∧ frozen s = false ∧ (s.cluster 1).since + clusterTmo s ≤ s.now := by decide +kernel

theorem witness_semaphores :
    base.ready = true ∧ (base.sem 8191).q = [] ∧ 0 < (0xFFFF#32).toNat ∧ (0xFFFF#32).toNat < 65536 ∧ (0xFFFFF#32).toNat < 2 ^ 20 := by decide +kernel

/-- A header from carrier 2 to partition 0's job, with a type's class. -/
def hdr (cls : BitVec 2) (id : W32 := 0) (arg : W64 := 0) (seq : BitVec 24 := 0) : Hdr :=
  { ver := 1, cls := cls, src := 2, dst := 0, jobtag := 7, seq := seq, ackv := false, unseq := false, ack := 0, id := id, arg := arg, crcOk := true, known := true }
/-- Partition 0 is carrier 0 of a job of four, and the peer has said hello. -/
def linked : State := { grouped base with peers := [(2, { hello := true, opened := true, ver := 1 })] }

theorem witness_streams :
    packetOk (grouped base) (hdr 0) pHello 0 = true ∧ (4#32).toNat = jobSize (headed (grouped base) (hdr 0) pHello 64 0) 0 ∧
    (7#16).toNat = jobTag (headed (grouped base) (hdr 0) pHello 64 0) 0 ∧ ((headed (grouped base) (hdr 0) pHello 64 0).peer 2).opened = false ∧
    bitOf (hdr 0).arg.toNat 0 = false ∧ bitOf (hdr 0 0 1).arg.toNat 0 = true ∧ packetOk (grouped base) (hdr 0 0 1) pHello 0 = true ∧
    (4#32).toNat = jobSize (headed (grouped base) (hdr 0 0 1) pHello 64 0) 0 ∧ (7#16).toNat = jobTag (headed (grouped base) (hdr 0 0 1) pHello 64 0) 0 ∧
    ((headed (grouped base) (hdr 0 0 1) pHello 64 0).peer 2).opened = false ∧ packetOk linked (hdr 0) pHello 0 = true ∧
    (4#32).toNat = jobSize (headed linked (hdr 0) pHello 64 0) 0 ∧ (7#16).toNat = jobTag (headed linked (hdr 0) pHello 64 0) 0 ∧
    ((headed linked (hdr 0) pHello 64 0).peer 2).opened = true ∧
    packetOk linked (hdr 2) pAck 0 = true ∧ packetOk linked (hdr 1 0 (2 ^ 32)) pNak 0 = true ∧ bitOf (hdr 1 0 (2 ^ 32)).arg.toNat 32 = true ∧ packetOk linked (hdr 1) pNak 0 = true ∧
    bitOf (hdr 1).arg.toNat 32 = false ∧ peerUp linked = true ∧ { hdr 1 with crcOk := false }.crcOk = false := by decide +kernel

theorem witness_replay_relink_cutoff :
    (let q : OutPkt := { typ := 0x30, dst := 2 }
     let s := { linked with streams := [(2 * 4 + 2, { unacked := [q] })], now := 100000000 }
     let t := s.stream 2 2
     t.unacked = q :: [] ∧ (s.peer 2).down = false ∧ (s.peer 2).refused = false ∧ t.progress + replayNs s ≤ s.now ∧ frozen s = false ∧ t.txBusy = false ∧ t.resends < retryMax s) ∧
    (let s := { base with fw := { base.fw with accepted := true, cores := [(2, { up := true })] } }
     writeOk s 0xB3588 32 2 = true ∧ writeOk s 0xB3588 32 65536 = true) ∧
    let l : LandOp := { acc := 2, gr := 4, grp := 6, step := 1, expect := 2, cutD := true, pol := 0, key := 0 }
    let o : Op := { id := 3, req := { dl := .at 500 }, kind := .land l, phase := .running }
    let s := { base with ops := [o], now := 500 }
    s.op 3 = some o ∧ l.cutD = true ∧ l.cut = false ∧ o.phase ≠ .ending ∧ o.due = some 500 ∧ 500 ≤ s.now := by decide +kernel

/-- Barrier group 3 of partition 0 has node 4, a root of two carriers: slot 0 is another carrier's. -/
def rooted (leaf : Nat) : State :=
  { linked with
    bars := [(3, { cfg := 1 + 9 * 2 ^ 8 + 4 * 2 ^ 16, gen := 6 })]
    cfg := [(0xB4040, BitVec.ofNat 64 (3 + 4 * leaf + 2 ^ 12 + 3 * 2 ^ 16)), (0xB5100, BitVec.ofNat 64 (2 ^ 31)), (0xB5104, BitVec.ofNat 64 (2 ^ 31 + 7))] ++ linked.cfg }

theorem witness_hawthorn :
    (let s := rooted 0
     let h := hdr 0 (4 + 2 ^ 8) 6
     let u := taken s h pToken 64 0
     packetOk s h pToken 0 = true ∧ inTurn s h pToken 64 0 = true ∧ genOk u 4 6 = true ∧ nodeLeaf u 4 = false ∧ (kidSlots u 4).contains 1 = true ∧
       ((u.node 4).arrived.any fun e => e.1 = 1) = false ∧ bitsOf h.id.toNat 5 0 = 4 ∧ bitsOf h.id.toNat 11 8 = 1) ∧
    (let s := rooted 1
     let h := hdr 0 4 6
     packetOk s h pVerify 0 = true ∧ inTurn s h pVerify 64 0 = true ∧ genOk (taken s h pVerify 64 0) 4 6 = true) ∧
    (let s := (rooted 0).setNode 4 { verifying := true }
     let h := hdr 0 (4 + 2 ^ 8) 6
     let u := taken s h pVreply 64 0
     packetOk s h pVreply 0 = true ∧ inTurn s h pVreply 64 0 = true ∧ genOk u 4 6 = true ∧ (u.node 4).verifying = true ∧ (kidSlots u 4).contains 1 = true ∧
       ((u.node 4).replies.any fun r => r.1 = 1) = false) ∧
    ∀ g ∈ [6, 5],
    let s := (rooted 1).setNode 4 { arrived := [(0, {})] }
    let h := hdr 0 4 (BitVec.ofNat 64 g)
    let u := taken s h pRelease 64 0
    packetOk s h pRelease 0 = true ∧ inTurn s h pRelease 64 0 = true ∧ nodeValid u 4 = true ∧ barValid u (nodeGrp u 4) = true ∧
      ((u.bar (nodeGrp u 4)).gen = g ∨ (u.bar (nodeGrp u 4)).gen = (g + 1) % 2 ^ 32) ∧ (u.node 4).arrived ≠ [] := by decide +kernel

theorem witness_traffic :
    (let h := hdr 1 (0x10003 + 5 * 2 ^ 17)
     packetOk linked h pShardreq 0 = true ∧ inTurn linked h pShardreq 12 0 = true ∧ idIsChan h.id.toNat = true) ∧
    (let h := hdr 1 5
     let u := taken linked h pShardreq 8 0
     packetOk linked h pShardreq 0 = true ∧ inTurn linked h pShardreq 8 0 = true ∧ idIsChan 5 = false ∧ (u.tgrp 5).valid = true ∧ (u.tgrp 5).part = 0 ∧ (u.tgrp 5).kind = 0) ∧
    (packetOk linked (hdr 1 3) pXnotice 0 = true ∧ inTurn linked (hdr 1 3) pXnotice 64 0 = true) ∧
    (let h := hdr 1 0x18006
     packetOk linked h pCnotice 0 = true ∧ inTurn linked h pCnotice 64 0 = true ∧ 0x8000 ≤ idCh h.id.toNat ∧ idCh h.id.toNat < 0x8400) ∧
    (let v : RecvOp := { x := 2, peer := 2, chan := 3, tier := 1, n := 5 }
     let o : Op := { id := 3, req := {}, kind := .xrecv v, phase := .running }
     let s := { linked with ops := [o] }
     let h := hdr 2 (0x10003 + 5 * 2 ^ 17)
     let u := taken s h pData 64 0
     packetOk s h pData 0 = true ∧ inTurn s h pData 64 0 = true ∧ idIsChan h.id.toNat = true ∧ idCh h.id.toNat < 0x8000 ∧ recvFor u 0 2 (idCh h.id.toNat) (idKey h.id.toNat) = some (o, v) ∧
       idIsChan 5 = false) ∧
    (let c : ContribOp := { land := 0, acc := 2, grp := 6, sender := 2, key := 5, step := 1, len := 64 }
     let o : Op := { id := 3, req := {}, kind := .contrib c, phase := .running }
     let h := hdr 2 (0x18006 + 5 * 2 ^ 17)
     let u := taken { linked with ops := [o] } h pData 64 0
     idIsChan h.id.toNat = true ∧ 0x8000 ≤ idCh h.id.toNat ∧ contribFor u 0 2 (idCh h.id.toNat - 0x8000) (idKey h.id.toNat) = some (o, c) ∧ o.phase ≠ .ending ∧
       h.arg.toNat = c.buf.length) ∧
    packetOk linked (hdr (BitVec.ofNat 2 (pktClass pRdone)) 0x10003) pRdone 0 = true ∧ inTurn linked (hdr (BitVec.ofNat 2 (pktClass pRdone)) 0x10003) pRdone 0 0 = true ∧
    packetOk linked (hdr (BitVec.ofNat 2 (pktClass pDecline)) 0x10003) pDecline 0 = true ∧ inTurn linked (hdr (BitVec.ofNat 2 (pktClass pDecline)) 0x10003) pDecline 0 0 = true := by
  decide +kernel

/- Witnesses: ports, host, resets, firmware, registers. -/

/-- Partition 0's firmware is there: every core runs and the image is accepted. -/
def running : State := { base with fw := { base.fw with st := 1, accepted := true, cores := (List.range 11).map fun n => (n, { up := true }) } }

theorem witness_responses :
    (∀ wr ∈ [true, false], ∀ orphan ∈ [true, false],
     let t : Tag := { port := 3, tag := 9, wr := wr, op := 3, orphan := orphan, pos := some 4 }
     let s := { base with tags := [t], ops := [{ id := 3, req := {}, kind := .fill 2 0 64 5, phase := .running }], ports := [(3, { rev := 1 })] }
     deaf s 3 = false ∧ (s.tags.find? fun t => t.port = 3 && t.tag = 9 && t.wr = wr) = some t ∧ t.orphan = orphan ∧ t.err = false ∧ (s.op t.op).isSome = true ∧ t.port ≠ 22 ∧
       t.rb = false ∧ t.pos = some 4 ∧ t.wr = wr) := by decide +kernel

theorem witness_other_responses :
    (∀ wr ∈ [true, false], deaf base 3 = false ∧ (base.tags.find? fun t => t.port = 3 && t.tag = 9 && t.wr = wr) = none) ∧
    (let t : Tag := { port := 3, tag := 9, wr := false, op := 3, rb := true, pos := some 0 }
     t.wr = false ∧ t.rb = true ∧ t.port ≠ 22 ∧ t.pos = some 0) ∧
    (let t : Tag := { port := 21, tag := 9, wr := false, op := 3 }
     let s := { base with tags := [t] }
     deaf s 21 = false ∧ (s.tags.find? fun t => t.port = 21 && t.tag = 9) = some t) ∧
    (base.tags.find? fun t => t.port = 21 && t.tag = 9) = none := by decide +kernel

theorem witness_targets :
    let s := { base with objs := [(2, { live 2 with home := 0, homeaddr := tqa 0 0x4000 })] }
    s.srcRst.contains (5, 1) = false ∧ deaf s 5 = false ∧ (5#5).toNat < 16 ∧ t0Allocated s 0x4000 64 = true ∧ t0Allocated s 0x4FE0 64 = false ∧ t0Allocated s 0x8000000 32 = false ∧
      (s.partials.find? fun p => p.port = 5 && p.src = 1 && p.tag = 2) = none ∧ (s.port 5).rev ≠ 1 ∧ ({ s with ports := [(5, { rev := 1 })] }.port 5).rev = 1 ∧
      deaf { s with ports := [(5, { rev := 1 })] } 5 = false ∧ { s with srcRst := [(22, 63)] }.srcRst.contains (22, 63) = true := by decide +kernel

theorem witness_ports :
    (let t : Tag := { port := 3, tag := 9, wr := true, op := 3, time := 5 }
     let s := { base with tags := [t], now := 100000000 }
     isLive s 3 = true ∧ frozen s = false ∧ t ∈ s.tags ∧ t.port = 3 ∧ 3 < 23 ∧ t.time + portTmo s ≤ s.now ∧ s.ready = true ∧ (s.port 30).st = 0) ∧
    ({ base with ports := [(30, { st := 2 })] }.port 30).st = 2 ∧
    (let s := { base with ports := [(22, { st := 1, req := true, since := some 5 })], now := 100000000 }
     (s.port 22).req = true ∧ (s.port 22).ack = false ∧ (s.port 22).since = some 5 ∧ 5 + portTmo s ≤ s.now) ∧
    (∀ n ∈ [0, 21, 22, 23, 30], ({ base with ports := [(n, { st := 1, ack := true })] }.port n).ack = true) ∧
    bitOf { base with sat := { present := 2 ^ 63, training := 1 } }.sat.present 63 = true ∧ bitOf { base with sat := { present := 2 ^ 63, training := 1 } }.sat.training 0 = true := by
  decide +kernel

theorem witness_host :
    (let s := { base with hostl := { base.hostl with hp0mode := 1, hp1mode := 1, ats := { asked := [(16, 7)], pri := [(16, 8)] } } }
     s.hostl.ats.asked.contains (16, 7) = true ∧ (s.hostl.ats.pri.take 256).contains (16, 8) = true ∧ s.hostl.hp0mode ≠ 0 ∧ s.hostl.hp1mode ≠ 0 ∧
       0 = s.hostl.ioPort ∧ 1 ≠ s.hostl.ioPort ∧ ioUp s = true ∧ s.hostl.detached = false) ∧
    ioUp { base with hostl := { base.hostl with hp0mode := 0, hp1mode := 1 } } = false ∧ ioUp { base with hostl := { base.hostl with hp0mode := (2#2).toNat, hp1mode := 1 } } = true ∧
    (let s := { base with tags := [{ port := 20, tag := 1, wr := false, op := 3 }], now := 1000000000 }
     hostOverdue s = true ∧ orphanDue { s with hostl := { s.hostl with detached := true } } = true ∧ s.ready = true ∧ { s with hostl := { s.hostl with detached := true } }.hostl.detached = true) ∧
    base.droopLow = false ∧ { base with droopLow := true }.droopLow = true ∧
    (let s := { base with droopOn := true, now := 100000000 }
     s.droopOn = true ∧ s.droopLow = false ∧ s.droopAt + droopHoldNs s ≤ s.now) := by
  decide +kernel

theorem witness_resets :
    base.ready = true ∧ (0#8) ≠ 0x5A ∧ writeOk running 0x50008 32 (2 + 256 * 15 + 2 ^ 24 * 0x5A) = true ∧ base.fw.imgA = none ∧ base.fw.imgB = none ∧ base.ready = true ∧
    State.reset.ready = false := by decide +kernel

/-- An image that passes R300 and R315, for settings of tag 0. -/
def goodImage : FwImage :=
  { magic := 0x46574D42, release := 3, ifMin := 1, ifMax := 3, setMin := 0, setMax := 3, setWrite := 0, len := 0x1000, offer := 0xFFFB, rsvZero := true, sigOk := true, body := [] }

theorem witness_cores_images :
    (running.core 10).up = true ∧ (let s := { running with now := 10 ^ 9 }; (s.core 10).started + hbeatNs s ≤ s.now) ∧ coreFaults running 10 (.point .budgets) = true ∧
    CoreFault.point .budgets ≠ .memErr ∧ coreFaults running 10 (.access 5) = true ∧ writeOk running 0x60008 32 (cmdWord 1 10 0x5A) = true ∧ (base.core 3).up = false ∧ { base with fw := { base.fw with st := 1 } }.fw.st = 1 ∧
    writeOk running 0x60008 32 (cmdWord 2 0 0x5A) = true ∧ (running.core 0).up = true ∧ running.fw.copying = false ∧
    (let o : Op := { id := 3, req := {}, kind := .fwCopy (tqa 3 0) 0x1000, phase := .running }
     let s := { running with ops := [o] }
     updCopy s = some (o, tqa 3 0, 0x1000) ∧ copyEnded s o = true ∧ o.phase ≠ .ending ∧ plainStatus o = 0 ∧ imageOk (readImage s o.req.part (tqa 3 0) 0x1000 true) = false ∧
       imageOk (readImage (s.store (memKey s 0 (tqa 3 0)) (leBytes 32 (0x46574D42 + 3 * 2 ^ 32 + 2 ^ 48 + 3 * 2 ^ 56 + 3 * 2 ^ 72 + 0x1000 * 2 ^ 96))) o.req.part (tqa 3 0) 0x1000
         true) = true) ∧
    (let s := { running with fw := { running.fw with staged := true } }
     writeOk s 0x60008 32 (cmdWord 3 0 0x5A) = true ∧ writeOk s 0x60008 32 (cmdWord 4 0 0x5A) = true ∧ (s.core 0).up = true ∧ s.fw.staged = true) ∧
    (let s := { base with fw := { base.fw with st := 2, imgA := some goodImage } }
     s.fw.st = 2 ∧ s.fw.accepted = false ∧ startable s = true ∧ s.now ≤ s.fw.started + acceptNs s ∧ startable { s with fw := { s.fw with imgA := none } } = false) ∧
    awaitsImage { State.reset with lastrst := 1 } = true ∧ State.reset.lc.inForce ≠ 4 := by decide +kernel

theorem witness_locks_logs_limits :
    (let s := { running with fw := { running.fw with locks := [(3, { holder := some 2, expires := 100 })] }, now := 99 }
     ((List.range 11).filter fun k => bitOf (0x404#11).toNat k && (s.core k).up).head? = some 2 ∧ (s.core 2).up = true ∧ (s.core 5).up = true ∧ (s.lock 4).holder = none ∧
       (s.lock 3).holder = some 2 ∧ s.now < (s.lock 3).expires ∧ (s.lock 3).expires ≤ { s with now := 100 }.now) ∧
    logWanted running 1 5 = true ∧ logWanted running 3 5 = false ∧ running.fw.logBuf.length < logBufSize ∧
    logBufSize ≤ { running with fw := { running.fw with logBuf := List.replicate 8192 0 } }.fw.logBuf.length ∧ underTest running 9 0 = false ∧ running.fw.overclk = false ∧
    levelFor running (hottest running [0, 0, 0, 0, 0, 0, 0, 0]) ≠ 3 ∧ running.fw.level ≠ 3 ∧ levelFor running (hottest running [2000, 0, 0, 0, 0, 0, 0, 0]) = 3 := by decide +kernel

theorem witness_lifecycle_keys :
    running.lc.inForce ≠ 4 ∧ (running.core 0).up = true ∧ running.lc.busy = none ∧ lcPermits running.lc.inForce 1 = true ∧ lcPermits running.lc.inForce 4 = true ∧
    lcPermits running.lc.inForce 2 = false ∧ lcPermits { running with lc := { running.lc with inForce := 1 } }.lc.inForce 2 = true ∧
    lcPermits { running with lc := { running.lc with inForce := 2 } }.lc.inForce 3 = true ∧
    (∀ t ∈ [1, 2, 3, 4], let s := { running with lc := { running.lc with busy := some t, vppEn := true }, now := 100000 }
      s.lc.busy = some t ∧ s.lc.vppEn = true ∧ (s.core 0).up = true ∧ s.lc.vppAt + 100000 ≤ s.now) ∧
    (let s := { running with lc := { running.lc with inForce := 2 } }
     writeOk s 0xF0410 32 (cmdWord 1 3 0x5A) = true ∧ writeOk s 0xF0410 32 (cmdWord 2 3 0x5A) = true ∧ keyCause s 3 = 0) ∧
    { running with lc := { running.lc with keyBusy := some 3 } }.lc.keyBusy = some 3 := by decide +kernel

theorem witness_self_test :
    (let s := { running with cfg := (0xF0740, 1) :: cfg0, now := 100000000 }
     visitDue s = some (0, 1, 0) ∧ sliceSkip { s with bist := { s.bist with pos := 1 % roundUnits.length } } 1 0 = false ∧
       sliceSkip { s with bist := { s.bist with pos := 1 % roundUnits.length }, fw := { s.fw with level := 2 } } 1 0 = true) ∧
    (let s := { running with bist := { running.bist with slices := [(5, 3, 0)] } }
     sliceOf? s 5 = some (5, 3, 0) ∧ sliceReady s (5, 3, 0) true = true ∧ sliceReady s (5, 3, 0) false = true) ∧
    let s := { running with bist := { running.bist with slices := [(5, 63, 0)] }, clus := [(1, { st := 2 })] }
    sliceOf? s 5 = some (5, 63, 0) ∧ marchNeeded s (5, 63, 0) = true := by decide +kernel

theorem witness_samples :
    let o : Op := { id := 3, req := {}, kind := .watch 7 (hd 2), phase := .running }
    let s := { base with taps := [(7, { armed := true, hdl := hd 2, digest := true })], objs := [(2, live 2)], ops := [o] }
    sampleOp s 7 = some o ∧ o.phase = .running ∧ xferDone s o = true ∧ hIdx (s.tapOf 7).hdl = 2 ∧ (s.tapOf 7).stat = 0 ∧ (s.tapOf 7).digest = true ∧ o.x.srcBad = false ∧ o.x.bad = 0 ∧
      (s.obj 2).st = .resident ∧ (s.obj 2).form = .raw ∧ { o with x := { o.x with srcBad := true } }.x.srcBad = true := by decide +kernel

theorem witness_register_writes :
    writeOk running 0x9A300 32 5 = true ∧ (0x9A300#20) ≠ 0x50008 ∧ base.ready = true ∧ accessKind 0x50002 32 true ≠ 0 ∧ accessKind 0x9A300 32 true = 0 ∧ rsvBits 0x9A300 32 5 = false ∧
    0x80000 ≤ (0x9A300#20).toNat ∧ shadow base = true ∧ base.fw.wrq.length < wrqSize ∧ goAgain base 0x9A300 5 = false ∧
    (let s := { base with fw := { base.fw with wrq := [(0xE0100, 64, BitVec.ofNat 64 (2 ^ 48))] } }
     s.ready = true ∧ accessKind 0xE0100 64 true = 0 ∧ rsvBits 0xE0100 64 (2 ^ 48) = false ∧ shadow s = true ∧ goAgain s 0xE0100 (2 ^ 48) = true) ∧
    (let s := ctxIn .active
     s.ready = true ∧ accessKind 0xC0000 64 false = 0 ∧ (locate 0xC0000).isSome = true ∧ ((locate 0xC0000).all fun p => p.d.reg = .ctxImage && !imageOpen s p.i) = true) := by decide +kernel

theorem witness_configuration_writes :
    writeOk running (0x94000 + 8 * 15) 64 (4 + 8 * b2n (running.part 15).slackEn) = true ∧
    (let off := 0x90000 + 0x200 * 15 + 0x100 * 1 + 8 * 11
     writeOk running off 64 (5 + 7 * 2 ^ 32) = true ∧ (running.part 15).budActive ≠ 1) ∧
    (let s := { running with cfg := (0x9A280, 5) :: cfg0 }
     writeOk s 0x9A288 64 ((s.hset 5).cfg ||| 65536) = true ∧ 0 < reg s 0x9A280 ∧ (bitOf (s.hset 5).cfg 0 = false) ∧ hsetBusy s 5 = false ∧ reg s 0x9A280 = 5) ∧
    (let s := { grouped running with cfg := (0xB0000, 9) :: (grouped running).cfg, tgrps := [(9, { w2 := 0x1000, w3 := tqa 1 0xA000000 })] }
     let w := 0 ||| 1
     let t := s.tgrp 9
     writeOk s 0xB0008 64 w = true ∧ t.valid = false ∧ reg s 0xB0000 = 9 ∧ grpErr s { t with w0 := w - bitsOf w 23 20 * 2 ^ 20 } (RdRes.ok ≠ .ok) = 0) ∧
    (let s := { running with cfg := [(0xB3500, BitVec.ofNat 64 (2 ^ 48 + 7 * 2 ^ 32 + 3 * 2 ^ 16)), (0xB3000, 3)] ++ (rooted 1).cfg }
     let w := (4 * 2 ^ 16 + 9 * 2 ^ 8) ||| 1
     writeOk s 0xB3008 64 w = true ∧ nodeValid s (bitsOf w 21 16) = true ∧ nodeLeaf s (bitsOf w 21 16) = true ∧ nodeGrp s (bitsOf w 21 16) = reg s 0xB3000 ∧
       carriersOk s (bitsOf w 7 4) (reg s 0xB3000) = true) ∧
    writeOk base 0x70200 32 255 = true ∧ writeOk base 0x70900 32 511 = true ∧ writeOk running 0x9A300 32 5 = true ∧
    (let s := { running with parts := [(3, { wfgBusy := true })] }
     writeOk s (0xB9500 + 8 * 3) 64 1 = true ∧ (s.part 3).wfgBusy = true) ∧
    writeOk running 0xF0728 64 1 = true ∧ writeOk running 0xF0720 64 1 = true ∧ writeOk running (0xE0100 + 8 * 15) 64 (0xFFFB ||| 2 ^ 48) = true ∧
    writeOk running (0xE0440 + 4 * 11) 32 5 = true := by decide +kernel

theorem witness_readiness_and_hard_stop :
    State.reset.ready = false ∧ (0x80000#20).toNat / 8 ≠ 1 ∧ frozen { base with fw := { base.fw with level := 3 } } = true := by decide +kernel

theorem witness_bad_handle : ∀ e ∈ [(0x02, 1, [1], false), (0x03, 0, [], true), (0x04, 0, [], false), (0x05, 0, [], false), (0x10, 0, [], false), (0x11, 0, [], false), (0x12, 0, [], false),
      (0x13, 0, [], false), (0x17, 0, [], false), (0x16, 0, [], false), (0x22, 0, [], false), (0x23, 0, [], false), (0x37, 2, [0, 0], false), (0x38, 1, [0], false)], ∀ h ∈ [0, hd 9],
    let s := { atWords (word e.1 e.2.1 0 0 h 0 0 :: e.2.2.1) with dir := { sets := [(1, [(0, 1)]), (9, [(0, 9)])] } }
    atIssue s 0 e.1 = true ∧ operandOk (atBody s 0) (insOf s 0).p (hdlA (atBody s 0) (insOf s 0)) e.2.2.2 = false := by decide +kernel

theorem witness_directory :
    let s := { base with objs := [(2097151, { live 2 with gen := 2047 })], dir := { fresh := 3, freed := [2] } }
    2097151 < 2 ^ 21 ∧ (s.obj 2097151).gen < 2048 ∧ 1 ≤ (s.obj 2097151).gen ∧ 1 ≤ s.dir.fresh ∧ ¬(0 ∈ s.dir.freed) ∧ dirFree s = some 3 := by decide +kernel

theorem witness_records_and_queues :
    (let r : Req := { dl := .at 500 }
     r.dl = .at 500 ∧ r.opcode ≠ 0x32 ∧ ({} : Req).due = none) ∧
    (let s := { base with sems := [(3, { val := 5, q := [.ctx 0 2, .ctx 1 9] })] }
     (s.sem 3).q.length < 3) ∧
    (∀ t ∈ [0, 1], let r : Ring := { cfg := 1, tail := t }
      r.popq = [] ∧ ringCount' r < ringDepth r ∧ r.tail < 65536 ∧ r.head < 65536 ∧ ringCount' r = t) ∧
    (base.partials.find? fun p => p.port = 5 && p.src = 1 && p.tag = 2) = none ∧
    place base 0 1 4096 false = some 0x8000000 ∧ (Base.fits ⟨0xFF, 7, 1, 3, 3, 0xFFF, 0x1FFF, 1, 1, 1, 15, 0xFFFFFFFF, 0xFFFFFFFF, 0xFFFF⟩) = true ∧
    (DlWord.fits ⟨3, 63, 255, 65535, 2 ^ 48 - 1, 2 ^ 48 - 1⟩) = true ∧ (List.replicate 512 (7 : Byte)).length = 512 ∧ (List.replicate (4096 * 1) (7 : Byte)).length = 4096 * 1 := by
  decide +kernel

/-- A next state of a command, where it answers one. -/
def next? (o : Host.Outcome State Fault Refusal) : Option State :=
  match o with
  | .next t => some t
  | _ => none

theorem witness_notes : (next? (exec .droop base)).isSome = true ∧ (next? (exec (.snoop (5, 7) true) base)).isSome = true ∧ (next? (exec (.overrun 2) { base with lines := [(2, { armed := false })] })).isSome = true := by decide +kernel

/- The form of commands: each check refuses a term and takes its neighbour. -/

def someUp : PowerUp :=
  { revs := 0, ioSel := 0, hp0mode := 1, hp1mode := 1, satPresent := 0, satFixed := 0, t1Size := 0x10000000, t2Size := 0, tfMHz := 1600, bmMHz := 1600, peerMHz := 1600, coreMHz := 1600, badUnits := 0,
    marches := [], badLanes := 0, badCore := false, heartbeats := 0x7FF, heartbeats2 := 0 }

theorem wellFormed_refuses :
    (Instr.portReset 31).wellFormed = false ∧ (Instr.sourceReset 16 0).wellFormed = false ∧ (Instr.targetRequest 0 0 0 true 0 0 (List.replicate 65 0) false true).wellFormed = false ∧
    (Instr.lockAcquire 0 0).wellFormed = false ∧ (Instr.logRecord 4 0 0 0 0).wellFormed = false ∧ (Instr.stepTimeout 0 32).wellFormed = false ∧ (Instr.atsCompletion 17 0 none).wellFormed = false ∧ (Instr.atsCompletion 0 0 (some 19)).wellFormed = false ∧
    (Instr.pageResponse 17 0 0).wellFormed = false ∧ (Instr.invalidationRequest 17 0 0).wellFormed = false ∧
    (Instr.budgetTableWrite 0 0 12 0).wellFormed = false ∧ (Instr.evqHeadWrite 17 0).wellFormed = false ∧ (Instr.calUserWrite 12 0).wellFormed = false ∧
    (Instr.registerWrite 4 64 0).wellFormed = false ∧ (Instr.registerWrite 4 16 0).wellFormed = false ∧ (Instr.throttleLevel [1]).wellFormed = false ∧
    (Instr.marchYield 0).wellFormed = false ∧ (Instr.marchYield 10).wellFormed = false ∧ (Instr.coldReset { someUp with t1Size := 5 }).wellFormed = false ∧
    (Instr.agerVisit 0).wellFormed = false ∧ (Instr.sealWatchdog 0).wellFormed = false ∧ (Instr.hello { hdr 0 with ver := 0 } 1 0 0).wellFormed = false := by decide +kernel

theorem wellFormed_takes :
    (Instr.portReset 30).wellFormed = true ∧ (Instr.sourceReset 22 0).wellFormed = true ∧ (Instr.targetRequest 0 0 0 true 0 0 (List.replicate 32 0) false true).wellFormed = true ∧
    (Instr.lockAcquire 0 0x400).wellFormed = true ∧ (Instr.logRecord 3 0 0 0 0).wellFormed = true ∧ (Instr.stepTimeout 0 31).wellFormed = true ∧ (Instr.atsCompletion 16 0 (some 18)).wellFormed = true ∧
    (Instr.pageResponse 16 0 0).wellFormed = true ∧ (Instr.invalidationRequest 16 0 0).wellFormed = true ∧
    (Instr.budgetTableWrite 0 0 11 0).wellFormed = true ∧ (Instr.evqHeadWrite 16 0).wellFormed = true ∧ (Instr.calUserWrite 11 0).wellFormed = true ∧
    (Instr.registerWrite 8 64 0).wellFormed = true ∧ (Instr.registerWrite 4 32 0).wellFormed = true ∧ (Instr.throttleLevel [1, 2, 3, 4, 5, 6, 7, 8]).wellFormed = true ∧
    (Instr.marchYield 9).wellFormed = true ∧ (Instr.coldReset someUp).wellFormed = true ∧ (Instr.agerVisit 1).wellFormed = true ∧ (Instr.sealWatchdog 1).wellFormed = true ∧
    (Instr.hello (hdr 0) 1 0 0).wellFormed = true := by decide +kernel

/- Results. -/

/-- The worked example of 02: the bytes of a FETCH and its deadline word. -/
theorem test_fetch_example :
    (let s := (atWords [0]).store (planAt + 0x40)
       [0x14, 0xE1, 0x05, 0x80, 0x02, 0x08, 0x03, 0x28, 1, 0, 0, 0, 0, 0, 1, 0, 0, 0, 0, 0, 0xA0, 0x25, 0x26, 0, 0, 0, 0, 0, 0, 0, 0, 0]
     let i := insOf s 0
     i.b.opcode = 0x14 ∧ i.len = 32 ∧ i.b.cmode = 3 ∧ i.b.cq = 5 ∧ i.b.csem = 40 ∧ hIdx i.b.opa = 37 ∧ hGen i.b.opa = 3 ∧ i.aux 1 0 = 1 ∧
       i.dl = some ⟨0, 0, 0, 0, 2500000, 0⟩ ∧ baseBad s 0 0x40 = [] ∧ nextBad s 0 0x40 = false ∧ extBad s 0 0x40 = []) := by decide +kernel

/-- A NOP moves PC by its 16 bytes. -/
theorem test_nop : ((next? (exec (.nop 0) (atWords [word 0 0 0 0 0 0 0]))).map fun t => ((t.ctx 0).pc, (t.ctx 0).instret)) = some (0x50, 1) := by decide +kernel

/-- A PIN sets PINNED of its object and of no other. -/
theorem test_pin :
    ((next? (exec (.pin 0) (atWords [word 0x04 0 0 0 (hd 2) 0 0] [(2, live 2), (3, live 3)]))).map fun t => ((t.obj 2).pinned, (t.obj 3).pinned)) = some (true, false) := by decide +kernel

/-- DECL takes the lowest entry that was never allocated, with generation 1, and writes its handle (R9, R12, R78). -/
theorem test_decl :
    ((next? (exec (.decl 0) (atWords [word 0x01 1 0 0 0 0 0x301F, 0x1000]))).map fun t => ((t.ctx 0).gr 3, (t.obj 100).st, (t.obj 100).rawlen)) =
      some (100 * 2048 + 1, .declared, 0x1000) := by decide +kernel

/-- A JUMP below the header raises PC_RANGE: the context is FAULTED (R65, R107). -/
theorem test_jump_out : ((next? (exec (.jump 0) (atWords [word 0x54 0 0 0 0x30 0 0]))).map fun t => ((t.ctx 0).st, bitsOf (t.ctx 0).lastexc 23 16)) = some (.faulted, 5) := by decide +kernel

/-- SEM_ADD stops at 65,535 and sets SAT (R236). -/
theorem test_sem_add_saturates :
    ((next? (exec (.semAdd 2 0xFFFF) (base.setSem 2 { val := 3 }))).map fun t => ((t.sem 2).val, (t.sem 2).sat)) = some (0xFFFF, true) := by decide +kernel

/-- A HEAD past TAIL is not taken (R192). -/
theorem test_head_past_tail :
    ((next? (exec (.cqHeadWrite 1 6) { base with cqs := [(1, { head := 2, tail := 5 })] })).map fun t => (t.cq 1).head) = some 2 := by decide +kernel

/-- An empty queue idles for 2 ns; a command is taken from the front. -/
theorem test_step :
    ((next? (step base)).map fun t => t.now) = some 2 ∧
    ((next? (step { base with pending := [.droop, .droopHoldEnd] })).map fun t => (t.pending, t.droops)) = some ([.droopHoldEnd], 1) := by decide +kernel

/-- The write before READY is dropped (R289). -/
theorem test_before_ready : ((next? (exec (.registerWrite 0x9A300 32 5) State.reset)).map fun t => reg t 0x9A300) = some 0 := by decide +kernel

/-- The worked example of 14: an addition and a write of 0x40000 in one clock; the waiter is served, then the written value stays and LOSTINC is set. -/
theorem test_semaphore_example :
    ((next? (exec (.semWrite 300 0x40000 1) (base.setSem 300 { val := 5, q := [.ctx 0 6] }))).map fun t => ((t.sem 300).val, (t.sem 300).lost, (t.sem 300).q)) = some (0, true, []) := by
  decide +kernel

/-- PRG_POOL_CAP_T0 with bank 17 unusable is 124 MiB, and the reserve stays in bank 63 (12). -/
theorem test_pool_capacity :
    let s := { base with bist := { base.bist with banks := 0xFFFFFFFFFFFFFFFF - 2 ^ 17 } }
    capacity s 0 = 0x7C00000 ∧ reserveBank s = 63 := by decide +kernel

/-- The negotiation example of 11: OFFER 0xEFFB, NEED 0x0F0B, WANT 0x1040 give AGREED 0x0F4B. -/
theorem test_agreed :
    let s := { running with fw := { running.fw with imgA := some { goodImage with offer := 0xEFFB } } }
    ((negotiate s 0 (0x0F0B + 0x1040 * 2 ^ 16 + 2 ^ 32 + 3 * 2 ^ 40 + 2 ^ 48)).part 0).agreed = 0x0F4B := by decide +kernel

/-- R335: codes of one source in one sample share a record whose CODE is the lowest; records go by CODE, then SRCKIND. R337: event queues by their lowest CODE, the global queue first. -/
theorem test_events_of_one_sample_share_a_record :
    ((newRecords [⟨16, 4, 3, 0, 3, 7, 0⟩, ⟨2, 1, 5, 0, 0x13, 9, 0⟩, ⟨2, 1, 5, 0, 0x11, 4, 0⟩, ⟨16, 0, 0, 0, 3, 1, 0⟩]).map fun r => (r.1.kind, r.1.id, r.1.code, r.1.arg, r.2)) =
      [(0, 0, 3, 1, 2 ^ 3), (4, 3, 3, 7, 2 ^ 3), (1, 5, 0x11, 4, 2 ^ 0x13 + 2 ^ 0x11)] := by decide
theorem test_vectors_go_out_in_order :
    (flushVecs { State.reset with vecDue := [⟨true, 7, 0, 70⟩, ⟨false, 2, 0x11, 20⟩, ⟨false, 16, 0x11, 160⟩, ⟨false, 5, 4, 50⟩] }).hostl.msgs = [50, 160, 20, 70] := by decide

end Sys2Proof.Tests
end

/-! Proofs for the residency model (chapter 01 of the spec). -/

namespace Sys2Proof.Machine

/-! ## The directory's free list

Accesses to the on-chip cache and the wake-up of waiting allocations leave every entry and the free list as they are. -/

/-- `t` has the entries and the free list of `s`. -/
structure SameEntries (s t : State) : Prop where
  objs : t.objs = s.objs
  fresh : t.dir.fresh = s.dir.fresh
  freed : t.dir.freed = s.dir.freed

theorem SameEntries.refl (s : State) : SameEntries s s := ⟨rfl, rfl, rfl⟩

theorem SameEntries.trans {s t u : State} (h₁ : SameEntries s t) (h₂ : SameEntries t u) : SameEntries s u :=
  ⟨h₂.objs.trans h₁.objs, h₂.fresh.trans h₁.fresh, h₂.freed.trans h₁.freed⟩

theorem SameEntries.obj {s t : State} (h : SameEntries s t) (x : Nat) : t.obj x = s.obj x := by
  rw [State.obj, h.objs]; rfl

theorem SameEntries.freeListOk_iff {s t : State} (h : SameEntries s t) : freeListOk t ↔ freeListOk s := by
  rw [freeListOk, freeListOk, h.fresh, h.freed]

theorem sameEntries_dirIO (s : State) (x : Nat) (wr : Bool) : SameEntries s (dirIO s x wr) := by
  unfold dirIO
  split <;> exact ⟨rfl, rfl, rfl⟩

theorem sameEntries_dirEvict (s : State) (e : Nat × Nat × Nat) : SameEntries s (dirEvict s e) := by
  unfold dirEvict
  split
  · exact .refl s
  · exact sameEntries_dirIO _ _ _

theorem sameEntries_dirTouch (s : State) (x : Nat) : SameEntries s (dirTouch s x) := by
  have put (t : State) (v : Tbl (List (Nat × Nat × Nat))) : SameEntries t { t with dir := { t.dir with sets := v } } := ⟨rfl, rfl, rfl⟩
  unfold dirTouch
  dsimp only
  split
  · exact put _ _
  split
  · exact (sameEntries_dirIO _ _ _).trans (put _ _)
  split
  · exact ((sameEntries_dirEvict _ _).trans (sameEntries_dirIO _ _ _)).trans (put _ _)
  · exact .refl s

theorem sameEntries_dirHit (s : State) (x : Nat) : SameEntries s (dirHit s x) :=
  have counted : SameEntries s (s.gadd 0x210 1) := ⟨rfl, rfl, rfl⟩
  counted.trans (sameEntries_dirTouch _ _)

theorem sameEntries_dirMiss (s : State) : SameEntries s (dirMiss s) := ⟨rfl, rfl, rfl⟩

theorem sameEntries_dirAccess (s : State) (x : Nat) : SameEntries s (dirAccess s x) := by
  unfold dirAccess
  split
  · exact sameEntries_dirHit _ _
  · exact (sameEntries_dirMiss s).trans (sameEntries_dirTouch _ _)

theorem sameEntries_todo (s : State) (w : Work) : SameEntries s (s.todo w) := ⟨rfl, rfl, rfl⟩

theorem sameEntries_foldl_todo (l : List Work) (s : State) : SameEntries s (l.foldl (fun s w => s.todo w) s) := by
  induction l generalizing s with
  | nil => exact .refl s
  | cons w l ih => exact (sameEntries_todo s w).trans (ih (s.todo w))

theorem sameEntries_dirWake (s : State) : SameEntries s (dirWake s) := sameEntries_foldl_todo _ s

/-- The entry that an allocation makes: what the caller gives, with the generation of R11 and the stamp of R29. -/
theorem dirAlloc_obj (s : State) (x : Nat) (o : Obj) :
    (dirAlloc s x o).obj x = { o with gen := if (s.obj x).gen = 0 then 1 else (s.obj x).gen, stamp := wNow s } := by
  unfold dirAlloc
  rw [(sameEntries_dirAccess _ _).obj, obj_setObj]
  split <;> rfl

theorem dirRelease_obj (s : State) (x : Nat) : (dirRelease s x).obj x = { gen := nextGen (s.obj x).gen } := by
  unfold dirRelease
  rw [(sameEntries_dirWake _).obj]
  exact obj_setObj s x _

theorem dirRelease_obj_other (s : State) {x y : Nat} (h : y ≠ x) : (dirRelease s x).obj y = s.obj y := by
  unfold dirRelease
  rw [(sameEntries_dirWake _).obj]
  exact obj_setObj_other s x y _ h

theorem freeListOk_dirAlloc (s : State) (x : Nat) (o : Obj) (h : freeListOk s) : freeListOk (dirAlloc s x o) := by
  obtain ⟨hfresh, hfreed⟩ := h
  unfold dirAlloc
  rw [(sameEntries_dirAccess _ _).freeListOk_iff]
  split
  · exact ⟨Nat.le_add_left _ _, hfreed⟩
  · exact ⟨hfresh, fun hmem => hfreed (List.mem_of_mem_tail hmem)⟩

theorem freeListOk_dirRelease (s : State) (x : Nat) (h : freeListOk s) (hx : x ≠ 0) : freeListOk (dirRelease s x) := by
  obtain ⟨hfresh, hfreed⟩ := h
  unfold dirRelease
  rw [(sameEntries_dirWake _).freeListOk_iff]
  exact ⟨hfresh, by simpa [hfreed] using hx.symm⟩

theorem dirFree_ne_zero (s : State) (x : Nat) (h : freeListOk s) (hx : dirFree s = some x) : x ≠ 0 := by
  obtain ⟨hfresh, hfreed⟩ := h
  unfold dirFree at hx
  split at hx
  · obtain rfl := Option.some.inj hx
    omega
  · rintro rfl
    exact hfreed (List.mem_of_head? hx)

/-- Settles O45: reset has an empty list of freed entries and starts the fresh ones at 1. -/
theorem theFreeListNeverHoldsEntryZero : Obligations.TheFreeListNeverHoldsEntryZero :=
  ⟨⟨Nat.le_refl 1, List.not_mem_nil⟩, freeListOk_dirAlloc, freeListOk_dirRelease⟩

/-! ## Handles (Table 1.1, R9, R11) -/

theorem hIdx_handleOf (s : State) (x : Nat) (hx : x < 2 ^ 21) (hg : (s.obj x).gen < 2048) : hIdx (handleOf s x) = x := by
  unfold hIdx bitsOf handleOf
  rw [Nat.shiftRight_eq_div_pow]
  omega

theorem hGen_handleOf (s : State) (x : Nat) (hg : (s.obj x).gen < 2048) : hGen (handleOf s x) = (s.obj x).gen := by
  unfold hGen bitsOf handleOf
  rw [Nat.shiftRight_zero]
  omega

theorem handleOf_lt (s : State) (x : Nat) (hx : x < 2 ^ 21) (hg : (s.obj x).gen < 2048) : handleOf s x < 2 ^ 32 := by
  unfold handleOf
  omega

theorem handleOk_null (s : State) (p : Nat) : handleOk s p 0 = false := rfl

theorem handleOk_of_free (s : State) (p h : Nat) (hst : (s.obj (hIdx h)).st = .free) : handleOk s p h = false := by
  simp [handleOk, hst]

theorem handleOk_of_gen_ne (s : State) (p h : Nat) (hg : (s.obj (hIdx h)).gen ≠ hGen h) : handleOk s p h = false := by
  simp [handleOk, hg]

/-- Settles O44: the layout is arithmetic, and `dirAlloc` replaces generation 0 by 1. -/
theorem handlesAreLaidOutAsTheTableSays : Obligations.HandlesAreLaidOutAsTheTableSays := by
  refine ⟨fun s x hx hg => ⟨handleOf_lt s x hx hg, hIdx_handleOf s x hx hg, hGen_handleOf s x hg⟩, dirFree_ne_zero, fun s x o => ?_, handleOk_null⟩
  rw [dirAlloc_obj]
  dsimp only
  split
  · exact Nat.one_ne_zero
  · assumption

theorem nextGen_ne_zero (g : Nat) : nextGen g ≠ 0 := by
  unfold nextGen
  split <;> omega

theorem nextGen_ne_self {g : Nat} : nextGen g ≠ g := by
  unfold nextGen
  split <;> omega

/-- Allocating a released entry again keeps the generation that the release gave it. -/
theorem dirAlloc_dirRelease_gen (s : State) (x : Nat) (o : Obj) : ((dirAlloc (dirRelease s x) x o).obj x).gen = nextGen (s.obj x).gen := by
  rw [dirAlloc_obj, dirRelease_obj]
  exact if_neg (nextGen_ne_zero _)

/-- Settles O46: a released entry is FREE, and the generation it has when it is allocated again is not the handle's. -/
theorem aReleasedHandleNamesNothing : Obligations.AReleasedHandleNamesNothing := by
  intro s x p o hx _ hg
  have hidx : hIdx (handleOf s x) = x := hIdx_handleOf s x hx (by omega)
  have hgen : hGen (handleOf s x) = (s.obj x).gen := hGen_handleOf s x (by omega)
  refine ⟨by rw [dirRelease_obj]; rfl, handleOk_of_free _ _ _ ?_, handleOk_of_gen_ne _ _ _ ?_, fun y hy => dirRelease_obj_other s hy⟩
  · rw [hidx, dirRelease_obj]
  · rw [hidx, hgen, dirAlloc_dirRelease_gen]
    exact nextGen_ne_self

/-! ## Placement (R31, R356) -/

/-- A run of n bytes at b lies inside the region and clear of every range of `occ`. -/
abbrev RunFree (region : Nat × Nat) (occ : List (Nat × Nat)) (n b : Nat) : Prop :=
  region.1 ≤ b ∧ b + n ≤ region.2 ∧ ∀ r ∈ occ, meets b n r.1 r.2 = false

theorem meets_eq_false_iff (a n b m : Nat) : meets a n b m = false ↔ n = 0 ∨ m = 0 ∨ a + n ≤ b ∨ b + m ≤ a := by
  simp only [meets, Bool.and_eq_false_iff, decide_eq_false_iff_not]
  omega

/-- A free run slides down until it stands at the region's start or at the end of an occupied range. -/
theorem RunFree.exists_candidate {region : Nat × Nat} {occ : List (Nat × Nat)} {n b : Nat} (h : RunFree region occ n b) :
    ∃ a ∈ region.1 :: occ.map (fun r => r.1 + r.2), a ≤ b ∧ RunFree region occ n a := by
  induction b with
  | zero => exact ⟨0, by simp [Nat.le_zero.mp h.1], Nat.le_refl _, h⟩
  | succ b ih =>
    by_cases hc : b + 1 ∈ region.1 :: occ.map fun r => r.1 + r.2
    · exact ⟨b + 1, hc, Nat.le_refl _, h⟩
    · obtain ⟨hlo, hhi, hocc⟩ := h
      simp only [List.mem_cons, List.mem_map, not_or, not_exists, not_and] at hc
      obtain ⟨hne, hends⟩ := hc
      have hfree : RunFree region occ n b := by
        refine ⟨by omega, by omega, fun r hr => ?_⟩
        have := (meets_eq_false_iff _ _ _ _).mp (hocc r hr)
        have := hends r hr
        rw [meets_eq_false_iff]
        omega
      obtain ⟨a, ha, hab, hfa⟩ := ih hfree
      exact ⟨a, ha, Nat.le_succ_of_le hab, hfa⟩

/-- `findRun` takes the least of the candidates that are free. -/
theorem findRun_eq_min? (s : State) (p t n : Nat) :
    findRun s p t n [] =
      (((region s p t).1 :: (occupied s p t).map fun r => r.1 + r.2).filter fun a => RunFree (region s p t) (occupied s p t) n a).min? := by
  have hocc : ((occupied s p t).filter fun r => !([] : List (Nat × Nat)).contains r) = occupied s p t := by simp
  have hgood : (fun a => decide ((region s p t).1 ≤ a) && decide (a + n ≤ (region s p t).2) && (occupied s p t).all fun r => !meets a n r.1 r.2) =
      fun a => decide (RunFree (region s p t) (occupied s p t) n a) := by
    funext a
    rw [Bool.eq_iff_iff]
    simp [RunFree, and_assoc]
  unfold findRun
  rw [hocc]
  dsimp only
  rw [hgood]
  split
  · next h => rw [h, List.min?_nil]
  · next h => rw [h, List.min?_cons']

theorem findRun_lowest (s : State) (p t n a : Nat) (h : findRun s p t n [] = some a) :
    RunFree (region s p t) (occupied s p t) n a ∧ ∀ b, RunFree (region s p t) (occupied s p t) n b → a ≤ b := by
  rw [findRun_eq_min?, List.min?_eq_some_iff] at h
  obtain ⟨hmem, hmin⟩ := h
  refine ⟨of_decide_eq_true (List.mem_filter.mp hmem).2, fun b hb => ?_⟩
  obtain ⟨c, hc, hcb, hfc⟩ := hb.exists_candidate
  exact (hmin c (List.mem_filter.mpr ⟨hc, decide_eq_true hfc⟩)).trans hcb

theorem place_eq_some_iff (s : State) (p t n a : Nat) (dl : Bool) : place s p t n dl = some a ↔ fits s p t n dl = true ∧ findRun s p t n [] = some a := by
  unfold place
  split <;> simp_all

/-- Settles O47: a free address lies above a free candidate, and the answer is the least of these. -/
theorem aRunIsPlacedAtTheLowestFreeAddress : Obligations.ARunIsPlacedAtTheLowestFreeAddress := by
  intro s p t n a dl h
  obtain ⟨hfits, hrun⟩ := (place_eq_some_iff s p t n a dl).mp h
  obtain ⟨hfree, hlow⟩ := findRun_lowest s p t n a hrun
  exact ⟨hfree, hlow, of_decide_eq_true hfits⟩

/-! ## Bad handles (R11, R45, R94, R238) -/

theorem isLate_of_no_deadline (s : State) (r : Req) (hd : r.dl = .none) : isLate s r = false := by
  simp [isLate, Req.due, hd]

theorem countDone_handle (s : State) (r : Req) (h st : Nat) : countDone s { r with handle := h } st false = countDone s r st false := by
  unfold countDone
  dsimp only
  split <;> rfl

/-- The handle of a request without a deadline shows in nothing that its completion does: only the event of a late one names it (R121). -/
theorem complete_handle (s : State) (r : Req) (h : Nat) (x : Res) (async : Bool) (hd : r.dl = .none) :
    complete s { r with handle := h } x async = complete s r x async := by
  unfold complete
  rw [isLate_of_no_deadline s r hd, isLate_of_no_deadline s { r with handle := h } hd]
  dsimp only
  rw [countDone_handle]
  rfl

theorem failI_handle (s : State) (i : Ins) (r : Req) (h st : Nat) (hd : r.dl = .none) : failI s i { r with handle := h } st = failI s i r st :=
  congrArg (retire · i) (complete_handle s r h _ false hd)

section BadHandle

variable {s : State} {i : Ins} (r : Req)

theorem bodyBind_badHandle (h : operandOk s i.p (hdlA s i) false = false) : bodyBind s i r = failI (storeLeave s i.c) i r 0x20 := by
  simp [bodyBind, h]

theorem bodyRetire_badHandle (h : operandOk s i.p (hdlA s i) true = false) : bodyRetire s i r = failI s i r 0x20 := by
  simp [bodyRetire, h]

theorem pinBody_badHandle (on : Bool) (h : operandOk s i.p (hdlA s i) false = false) : pinBody on s i r = failI s i r 0x20 := by
  simp [pinBody, h]

theorem bodyDisp_badHandle (hd : r.dl = .none) (h : operandOk s i.p (hdlA s i) false = false) : bodyDisp s i r = failI s i r 0x20 := by
  simp [bodyDisp, h, failI_handle s i r _ _ hd]

theorem bodyDemote_badHandle (h : operandOk s i.p (hdlA s i) false = false) : bodyDemote s i r = failI s i r 0x20 := by
  simp [bodyDemote, h]

theorem bodyRngcap_badHandle (h : operandOk s i.p (hdlA s i) false = false) : bodyRngcap s i r = failI s i r 0x20 := by
  simp [bodyRngcap, h]

theorem bodyRngset_badHandle (h : operandOk s i.p (hdlA s i) false = false) : bodyRngset s i r = failI s i r 0x20 := by
  simp [bodyRngset, h]

theorem bodyFill_badHandle (h : operandOk s i.p (hdlA s i) false = false) : bodyFill s i r = failI s i r 0x20 := by
  simp [bodyFill, h]

theorem bodyCmp_badHandle (h : operandOk s i.p (hdlA s i) false = false) : bodyCmp s i r = failI s i r 0x20 := by
  simp [bodyCmp, h]

end BadHandle

/-- Settles O43: each row's body refuses the handle before it does anything. -/
theorem aBadHandleIsPermission : Obligations.ABadHandleIsPermission := by
  intro c s k op snap hrow i b u hissue hbad
  have answers (body : Body) (hbody : body b i (rqOf s c.toNat) = failI u i (rqOf s c.toNat) 0x20) :
      kwemal s c.toNat op body = .next (settle (boundary c.toNat (failI u i (rqOf s c.toNat) 0x20))) :=
    hbody ▸ kwemal_atIssue s c.toNat op body hissue
  simp only [List.mem_cons, List.not_mem_nil, or_false, Prod.mk.injEq] at hrow
  rcases hrow with ⟨rfl, rfl, rfl⟩ | ⟨rfl, rfl, rfl⟩ | ⟨rfl, rfl, rfl⟩ | ⟨rfl, rfl, rfl⟩ | ⟨rfl, rfl, rfl⟩ | ⟨rfl, rfl, rfl⟩ | ⟨rfl, rfl, rfl⟩ |
    ⟨rfl, rfl, rfl⟩ | ⟨rfl, rfl, rfl⟩ | ⟨rfl, rfl, rfl⟩ | ⟨rfl, rfl, rfl⟩ | ⟨rfl, rfl, rfl⟩ | ⟨rfl, rfl, rfl⟩ | ⟨rfl, rfl, rfl⟩
  · exact answers bodyBind (bodyBind_badHandle _ hbad)
  · exact answers bodyRetire (bodyRetire_badHandle _ hbad)
  · exact answers (pinBody true) (pinBody_badHandle _ true hbad)
  · exact answers (pinBody false) (pinBody_badHandle _ false hbad)
  · exact answers bodyDisp (bodyDisp_badHandle _ rfl hbad)
  · exact answers bodyDisp (bodyDisp_badHandle _ rfl hbad)
  · exact answers bodyDisp (bodyDisp_badHandle _ rfl hbad)
  · exact answers bodyDisp (bodyDisp_badHandle _ rfl hbad)
  · exact answers bodyDisp (bodyDisp_badHandle _ rfl hbad)
  · exact answers bodyDemote (bodyDemote_badHandle _ hbad)
  · exact answers bodyRngcap (bodyRngcap_badHandle _ hbad)
  · exact answers bodyRngset (bodyRngset_badHandle _ hbad)
  · exact answers bodyFill (bodyFill_badHandle _ hbad)
  · exact answers bodyCmp (bodyCmp_badHandle _ hbad)

/-! ## Exceptions and fills (R10, R46, R64, R65, R71, R72) -/

section Issue

variable (s : State) (c : Nat) (mine : Nat → Bool) (body : Body)

/-- An instruction whose words the cache holds issues where its opcode is the row's. -/
theorem issueIf_seated (hs : seated s c = true) (hpc : pcOk (s.ctx c) (s.ctx c).pc = true) (hic : icNeed s c = none)
    (hop : mine (decodeBase (planWord s c (s.ctx c).pc)).opcode = true) : issueIf s c mine body = some (issueAt s c body) := by
  simp [issueIf, hs, hpc, hic, hop]

/-- Step 1 of R72. -/
theorem issueAt_baseBad (h : baseBad s c (s.ctx c).pc ≠ []) :
    issueAt s c body = raiseBad s c (s.ctx c).pc (insOf s c).b.opcode (baseBad s c (s.ctx c).pc) := by
  obtain ⟨b, l, hbl⟩ := List.exists_cons_of_ne_nil h
  unfold issueAt
  dsimp only
  rw [hbl]
  rfl

/-- Step 2 of R72. -/
theorem issueAt_nextBad (hb : baseBad s c (s.ctx c).pc = []) (hn : nextBad s c (s.ctx c).pc = true) :
    issueAt s c body = failI (s.cadd c 0 1) (insOf s c) (rqOf s c) 0x20 := by
  unfold issueAt
  dsimp only
  rw [hb, hn]
  rfl

/-- Step 3 of R72. -/
theorem issueAt_extBad (hb : baseBad s c (s.ctx c).pc = []) (hn : nextBad s c (s.ctx c).pc = false) (he : extBad s c (s.ctx c).pc ≠ []) :
    issueAt s c body = raiseBad s c (s.ctx c).pc (insOf s c).b.opcode (extBad s c (s.ctx c).pc) := by
  obtain ⟨b, l, hbl⟩ := List.exists_cons_of_ne_nil he
  unfold issueAt
  dsimp only
  rw [hb, hn, hbl]
  rfl

end Issue

/-- Each row of Table 2.6 is the instruction of its opcode at the context's PC, with a body of its own. -/
theorem exec_kwemalRow (c : BitVec 8) : ∀ e ∈ kwemalRows c, ∃ body, ∀ s, exec e.1 s = kwemal s c.toNat e.2 body := by
  unfold kwemalRows
  repeat
    rw [List.forall_mem_cons]
    refine ⟨⟨_, fun _ => rfl⟩, ?_⟩
  exact List.forall_mem_nil _

/-- A row whose instruction is reached answers what issuing it gives. -/
theorem kwemal_seated (s : State) (c op : Nat) (body : Body) (hs : seated s c = true) (hpc : pcOk (s.ctx c) (s.ctx c).pc = true) (hic : icNeed s c = none)
    (hop : (insOf s c).b.opcode = op) : kwemal s c op body = .next (settle (boundary c (issueAt s c body))) := by
  unfold kwemal
  rw [issueIf_seated s c (fun k => k = op) body hs hpc hic (decide_eq_true hop)]
  rfl

/-- The base word's line comes first (R46). -/
theorem icNeed_of_base_missing (s : State) (c : Nat) (hbase : s.icache.contains (icLine s c ((s.ctx c).pc / 128)) = false) :
    icNeed s c = some ((s.ctx c).pc / 128) := by
  simp only [icNeed, hbase, Bool.not_false, if_true]

/-- The last line of the instruction comes once the base word's is held (R46). -/
theorem icNeed_of_last_missing (s : State) (c : Nat) (hbase : s.icache.contains (icLine s c ((s.ctx c).pc / 128)) = true)
    (hlast : s.icache.contains (icLine s c (((s.ctx c).pc + 16 * (wordsAt s c (s.ctx c).pc).2.length) / 128)) = false) :
    icNeed s c = some (((s.ctx c).pc + 16 * (wordsAt s c (s.ctx c).pc).2.length) / 128) := by
  simp only [icNeed, hbase, hlast, Bool.not_true, Bool.not_false, if_true, Bool.false_eq_true, if_false]

/-- The bytes of an instruction-cache line are counted at the port that R258 chooses. -/
def lineRead (s : State) (c k : Nat) : State :=
  match portFor s (s.obj (planObj s c)).home (tqaOff (s.obj (planObj s c)).homeaddr + k * 128) (k / 32) 0 with
  | some n => s.gadd (0x10 * n) 128
  | none => s

theorem lineRead_ctxs (s : State) (c k : Nat) : (lineRead s c k).ctxs = s.ctxs := by
  unfold lineRead
  split <;> rfl

/-- A line that was read becomes the first of the 2,048 that the cache holds (R46). -/
theorem fillLine_ok (s : State) (c k : Nat) :
    fillLine s c k .ok = { lineRead s c k with icache := (((s.ctx c).plan.handle, k) :: (lineRead s c k).icache).take 2048 } := by
  have hctx : (lineRead s c k).ctx c = s.ctx c := by rw [State.ctx, lineRead_ctxs, State.ctx]
  rw [← hctx]
  rfl

theorem icacheFill_takesEffect (c : BitVec 8) (r : RdRes) (s : State) (k : Nat) (hs : seated s c.toNat = true)
    (hpc : pcOk (s.ctx c.toNat) (s.ctx c.toNat).pc = true) (hk : icNeed s c.toNat = some k) :
    exec (.icacheFill c r) s = .next (settle (fillLine s c.toNat k r)) := by
  have hdue : lineDue s c.toNat = some k := by simp [lineDue, hs, hpc, hk]
  change arises s ((lineDue s c.toNat).map fun k => fillLine s c.toNat k r) = _
  rw [hdue]
  rfl

theorem happens_of_true (can : Bool) (s t : State) (h : can = true) : happens can s t = .next (settle t) := by
  rw [happens, if_pos h]

/-- Settles O13: each event can arise under its hypotheses, and what it does is what its definition names; a row's checks come before its body. -/
theorem exceptionsAndFillsTakeEffect : Obligations.ExceptionsAndFillsTakeEffect := by
  refine ⟨⟨?unassigned, ?unreported, ?line, ?entry⟩, ?row⟩
  case unassigned =>
    intro c s
    dsimp only
    intro hs hpc hic hop hbad
    change arises s (issueIf s c.toNat (outOfTable s c.toNat) bodyNop) = _
    rw [issueIf_seated s c.toNat _ _ hs hpc hic hop, issueAt_baseBad s c.toNat _ hbad]
    rfl
  case unreported =>
    intro c s
    dsimp only
    intro hst hseq hwait hmiss hfails
    exact happens_of_true (failPending s c.toNat) s _ (by simp [failPending, hst, hseq, hwait, hmiss, hfails])
  case line =>
    intro c s k
    dsimp only
    intro hs hpc hk
    have hneed : icNeed s c.toNat = some k := by
      rcases hk with ⟨hbase, rfl⟩ | ⟨hbase, hlast, rfl⟩
      · exact icNeed_of_base_missing s c.toNat hbase
      · exact icNeed_of_last_missing s c.toNat hbase hlast
    have hfill (r : RdRes) := icacheFill_takesEffect c r s k hs hpc hneed
    refine ⟨?_, hfill .checkFail, hfill .portFault⟩
    rw [hfill, fillLine_ok]
    rfl
  case entry =>
    intro c s x hst hmiss
    have hfill : dirFill s c.toNat = (dirTouch s x).modCtx c.toNat fun v => { v with miss := none, filled := v.filled ++ [x] } := by
      unfold dirFill
      rw [hmiss]
    rw [← hfill]
    exact happens_of_true _ s _ (by simp [hst, hmiss])
  case row =>
    intro c s e he
    dsimp only
    intro hs hpc hic hop
    obtain ⟨body, hexec⟩ := exec_kwemalRow c e he
    rw [hexec, kwemal_seated s c.toNat e.2 body hs hpc hic hop, ← hop]
    refine ⟨fun hb => ?_, fun hb hn => ?_, fun hb hn hx => ?_⟩
    · rw [issueAt_baseBad s c.toNat body hb]
    · rw [issueAt_nextBad s c.toNat body hb hn]
    · rw [issueAt_extBad s c.toNat body hb hn hx]

/-! ## Context events (R21, R28, R39, R44, R66, R85, R113, R123, R347) -/

/-- Settles O15: each event can arise under its hypotheses, and what it does is what its definition names. -/
theorem contextEventsTakeEffect : Obligations.ContextEventsTakeEffect := by
  refine ⟨⟨?plan, ?switch, ?ladle, ?watchdog, ?graph⟩, ⟨?window, ?next, ?sealing⟩, ?ager⟩
  case plan =>
    intro c slot s o h src len hdr hop hkind hphase hdone
    have hcopied : planCopied s c.toNat slot.toNat = some (planDone s o c.toNat slot.toNat h src len hdr) := by
      simp [planCopied, hop, hkind, hphase, hdone]
    change arises s (planCopied s c.toNat slot.toNat) = _
    rw [hcopied]
    rfl
  case switch =>
    intro q s c hfrozen hfree
    have hexec : exec (.contextSwitch q) s = arises s (switchAt s q.toNat) := by
      change arises s (if frozen s ∨ !seqFree s q.toNat then none else switchAt s q.toNat) = _
      simp [hfrozen, hfree]
    rw [hexec]
    refine ⟨fun hpick hidle => ?_, fun d hpick hon => ?_, fun hpick hon hgo => ?_⟩
    · simp [arises, switchAt, hpick, hidle]
    · simp [arises, switchAt, hpick, hon]
    · simp [arises, switchAt, hpick, hon, hgo]
  case ladle =>
    intro c s hst hlook hahead
    exact happens_of_true _ s _ (by simp [hst, hlook, hahead])
  case watchdog =>
    intro c s
    dsimp only
    intro hst hwait hfrozen hover
    have hperiod : ctxWdog s c.toNat < s.now - (s.ctx c.toNat).wstart - (s.ctx c.toNat).wfrozen := hover
    exact happens_of_true (watchdogDue s c.toNat) s _ (by simp [watchdogDue, hst, hwait, hfrozen, hperiod])
  case graph =>
    intro p c s hpend hup hbusy
    exact happens_of_true (buildDue s p.toNat c.toNat) s _ (by simp [buildDue, hpend, hup, hbusy])
  case window =>
    intro tp cs s
    exact happens_of_true true s _ rfl
  case next =>
    intro s
    unfold nextWindow
    omega
  case sealing =>
    intro x s t hfrozen hwait hover
    exact happens_of_true (sealOverdue s x.toNat) s _ (by simp [sealOverdue, hfrozen, hwait, hover])
  case ager =>
    intro x s hst
    exact happens_of_true _ s (ager s x.toNat) (decide_eq_true hst)

end Sys2Proof.Machine

/-! Proofs for the context machine (chapter 02 of the spec) and for writes of the register window (chapters 10, 11 and 14). -/

namespace Sys2Proof.Machine

/-! ## Doorbell commands (R44, R47, R48, R50 to R53) -/

theorem canRing_iff (s : State) (c : Nat) : canRing s c = true ↔ s.ready = true ∧ (s.ctx c).cmds = [] ∧ midInstr s c = false := by
  simp [canRing, and_assoc]

theorem written_of_ready (s t : State) (h : s.ready = true) : written s t = .next (settle t) := by
  rw [written, if_pos h]

/-- Each command of the doorbell rings it with a number of its own (Table 2.4). -/
theorem exec_doorbellRow (c : BitVec 8) (slot : BitVec 1) (tag : BitVec 24) :
    ∀ k ∈ [Instr.load c slot tag, .start c slot tag, .stopDrain c slot tag, .stopAbort c slot tag, .resume c slot tag, .reset c slot tag, .unload c slot tag],
      ∃ cmd, ∀ s, exec k s = written s (ring s c cmd slot tag) := by
  repeat
    rw [List.forall_mem_cons]
    refine ⟨⟨_, fun _ => rfl⟩, ?_⟩
  exact List.forall_mem_nil _

/-- At an instruction boundary, with no command waiting, a command is applied at once, after the failures that are still to be raised. -/
theorem doorbell_atBoundary (s : State) (c : Nat) (k : Cmd) (h : canRing s c = true) : doorbell s c k = applyCmd (raiseFails s c) c k := by
  obtain ⟨-, hcmds, hmid⟩ := (canRing_iff s c).mp h
  simp [doorbell, hcmds, hmid]

theorem written_ring_atBoundary (s : State) (c : BitVec 8) (cmd : Nat) (slot : BitVec 1) (tag : BitVec 24) (h : canRing s c.toNat = true) :
    written s (ring s c cmd slot tag) = .next (settle (applyCmd (raiseFails s c.toNat) c.toNat ⟨cmd, slot.toNat, tag.toNat⟩)) := by
  rw [written_of_ready _ _ ((canRing_iff s c.toNat).mp h).1, ring, doorbell_atBoundary s c.toNat _ h]

/-- A command that finds four waiting is dropped and counted. -/
theorem doorbell_full (s : State) (c : Nat) (k : Cmd) (h : 4 ≤ (s.ctx c).cmds.length) :
    doorbell s c k = s.modCtx c fun v => { v with dberr := true, dbdrop := satAdd 16 v.dbdrop 1 } := by
  rw [doorbell, if_pos h]

section Commands

variable (t : State) (c : Nat) (k : Cmd)

/-- A LOAD with nothing against it queues the image's copy as an operation of its own. -/
theorem cmdLoad_accepted (hfatal : t.bist.fatal = false) (hheld : t.lc.held = false) (hrej : loadRej (t.ctx c) k.slot = false) (hdet : t.hostl.detached = false) :
    let p := ctxPart t c
    let src := reg t (0x88008 + 0x40 * c + 8 * k.slot)
    let hdr := rdNumP t p src 64
    tqaTier src = 3 → tqaRsv src = 0 → headerBad t p src hdr = 0 →
    cmdLoad t c k = ((accept t { id := 0, req := { part := p }, kind := .plan c k.slot 0 src (bitsOf hdr 95 64) hdr, cls := 11 } true).modCtx c fun v =>
      v.setSlot k.slot { v.slotAt k.slot with loading := some (nextId t), tag := k.tag }).todo (.tryOp (nextId t)) := by
  intro p src hdr htier hrsv hbad
  unfold cmdLoad
  dsimp only
  rw [if_neg (by simp [hfatal]), if_neg (by simp [hheld, hrej]), if_neg (by simp [hdet]), if_neg (not_or_intro (not_not_intro htier) (not_not_intro hrsv)), if_neg (not_not_intro hbad)]

/-- What START makes of a context (R48): G, DLBASE and STEP stay, the rest of a run begins anew. -/
def startedCtx (slot : Nat) (v : Ctx) : Ctx :=
  { v with st := .active, aslot := slot, pc := (v.slotAt slot).entry, loops := [], lastexc := 0, excSince := false, instret := 0, left := (0, 0, 0), aborting := false, saved := false,
           ladlePos := 0, ladleStop := 0, ahead := [] }

theorem cmdStart_accepted (hfatal : t.bist.fatal = false) (hmay : mayStart t = true)
    (hst : (t.ctx c).st = .loaded ∨ (t.ctx c).st = .stopped ∨ (t.ctx c).st = .halted ∨ (t.ctx c).st = .faulted)
    (hvalid : ((t.ctx c).slotAt k.slot).valid = true) (hload : ((t.ctx c).slotAt k.slot).loading = none) (hpart : (t.part (ctxPart t c)).st = 0) :
    cmdStart t c k = cmdRecord (t.setCtx c (startedCtx k.slot (t.ctx c))) c k 0 0 0 := by
  unfold cmdStart
  dsimp only
  rw [if_neg (by simp [hfatal]), if_neg (by simp [hmay, hst, hvalid, hload, hpart])]
  rfl

theorem stopCtx_active (abort : Bool) (hst : (t.ctx c).st = .active) :
    stopCtx t c abort =
      if abort then abortCtx (enterStopping (unlineCtx t c) c .stopped true) c else enterStopping (unlineCtx t c) c .stopped false := by
  unfold stopCtx
  dsimp only
  rw [if_pos hst]
  cases abort <;> rfl

theorem cmdResume_accepted (hst : (t.ctx c).st = .stopped ∨ (t.ctx c).st = .faulted) (hsaved : (t.ctx c).saved = true) :
    cmdResume t c k = cmdRecord (t.modCtx c fun v => { v with st := .active, excSince := false, left := (0, 0, 0), aborting := false }) c k 0 0 0 := by
  have hidle : (t.ctx c).st ≠ .active := by rcases hst with h | h <;> simp [h]
  unfold cmdResume
  dsimp only
  rw [if_neg hidle, if_pos ⟨hst, hsaved⟩]

/-- What every RESET does first (R53): the commands that wait complete with ABORTED, and the loads of both slots are called off. -/
def resetBegun : State :=
  cancelLoad (cancelLoad ((t.ctx c).cmds.foldl (fun s q => cmdRecord s c q 0x10 0 0) (t.modCtx c fun v => { v with cmds := [] })) c 0) c 1

theorem cmdReset_active (hone : (t.ctx c).resetting = none) (hst : (t.ctx c).st = .active) :
    cmdReset t c k = abortCtx ((enterStopping (unlineCtx (resetBegun t c) c) c .empty true).modCtx c fun v => { v with resetting := some k }) c := by
  unfold cmdReset
  dsimp only
  rw [if_neg (by simp [hone]), if_pos hst]
  rfl

theorem cmdReset_idle (hone : (t.ctx c).resetting = none) (hact : (t.ctx c).st ≠ .active) (hstop : (t.ctx c).st ≠ .stopping) :
    cmdReset t c k = finishReset (resetBegun t c) c k := by
  unfold cmdReset
  dsimp only
  rw [if_neg (by simp [hone]), if_neg hact, if_neg hstop]
  rfl

theorem cmdUnload_loading (hload : ((t.ctx c).slotAt k.slot).loading.isSome = true) : cmdUnload t c k = cmdRecord (cancelLoad t c k.slot) c k 0 0 0 := by
  unfold cmdUnload
  dsimp only
  rw [if_pos hload]

/-- Outside a run UNLOAD drops the slot's plan; a LOADED context with a plan left stays as the drop leaves it. -/
theorem cmdUnload_loaded (hst : (t.ctx c).st = .loaded) (hload : ((t.ctx c).slotAt k.slot).loading = none) :
    let u := dropPlan t c k.slot
    (u.ctx c).st = .loaded → (u.ctx c).slot0.valid = true ∨ (u.ctx c).slot1.valid = true →
    ∃ f : Ctx → Ctx, cmdUnload t c k = cmdRecord (u.modCtx c f) c k 0 0 0 ∧ f (u.ctx c) = u.ctx c := by
  intro u hu hleft
  unfold cmdUnload
  dsimp only
  rw [if_neg (by simp [hload]), if_neg (by simp [hst])]
  refine ⟨_, rfl, ?_⟩
  have hkeep : ¬((u.ctx c).st = .loaded ∧ (!(u.ctx c).slot0.valid) = true ∧ (!(u.ctx c).slot1.valid) = true) := by
    rcases hleft with h | h <;> simp [h]
  have hsame : ((u.ctx c).st = .stopped || (u.ctx c).st = .halted || (u.ctx c).st = .faulted) = false := by simp [hu]
  simp only [hsame, Bool.and_false, Bool.false_eq_true, if_false]
  exact if_neg hkeep

end Commands

/-- Settles O14: at a boundary the doorbell applies the command it names, and each command has its case; a fifth meets the full queue. -/
theorem doorbellCommandsTakeEffect : Obligations.DoorbellCommandsTakeEffect := by
  refine ⟨⟨?load, ?start, ?stop, ?resume, ?reset, ?unloading, ?unload⟩, ?fifth⟩
  case load =>
    intro c slot tag s
    dsimp only
    intro hring hfatal hheld hrej hdet htier hrsv hbad
    rw [← cmdLoad_accepted (raiseFails s c.toNat) c.toNat ⟨1, slot.toNat, tag.toNat⟩ hfatal hheld hrej hdet htier hrsv hbad]
    exact written_ring_atBoundary s c 1 slot tag hring
  case start =>
    intro c slot tag s
    dsimp only
    intro hring hfatal hmay hst hvalid hload hpart
    have hcmd := cmdStart_accepted (raiseFails s c.toNat) c.toNat ⟨2, slot.toNat, tag.toNat⟩ hfatal hmay hst hvalid hload hpart
    have hexec := written_ring_atBoundary s c 2 slot tag hring
    simp only [applyCmd, hcmd] at hexec
    refine ⟨_, hexec, ?_⟩
    rw [ctx_setCtx]
    exact ⟨rfl, rfl, rfl, rfl, rfl, rfl, rfl, rfl, rfl, fun d hd => ctx_setCtx_other _ _ _ _ hd⟩
  case stop =>
    intro c slot tag s abort
    dsimp only
    intro hring hst
    rw [← stopCtx_active (raiseFails s c.toNat) c.toNat abort hst]
    cases abort with
    | false => exact written_ring_atBoundary s c 3 slot tag hring
    | true => exact written_ring_atBoundary s c 4 slot tag hring
  case resume =>
    intro c slot tag s
    dsimp only
    intro hring hst hsaved
    rw [← cmdResume_accepted (raiseFails s c.toNat) c.toNat ⟨5, slot.toNat, tag.toNat⟩ hst hsaved]
    exact written_ring_atBoundary s c 5 slot tag hring
  case reset =>
    intro c slot tag s
    dsimp only
    intro hring hone
    have hexec := written_ring_atBoundary s c 6 slot tag hring
    refine ⟨fun hst => hexec.trans ?_, fun hact hstop => hexec.trans ?_⟩
    · exact congrArg (fun t => Host.Outcome.next (settle t)) (cmdReset_active (raiseFails s c.toNat) c.toNat ⟨6, slot.toNat, tag.toNat⟩ hone hst)
    · exact congrArg (fun t => Host.Outcome.next (settle t)) (cmdReset_idle (raiseFails s c.toNat) c.toNat ⟨6, slot.toNat, tag.toNat⟩ hone hact hstop)
  case unloading =>
    intro c slot tag s
    dsimp only
    intro hring hload
    rw [← cmdUnload_loading (raiseFails s c.toNat) c.toNat ⟨7, slot.toNat, tag.toNat⟩ hload]
    exact written_ring_atBoundary s c 7 slot tag hring
  case unload =>
    intro c slot tag s
    dsimp only
    intro hring hst hload hu hleft
    obtain ⟨f, hcmd, hf⟩ := cmdUnload_loaded (raiseFails s c.toNat) c.toNat ⟨7, slot.toNat, tag.toNat⟩ hst hload hu hleft
    have hexec := written_ring_atBoundary s c 7 slot tag hring
    simp only [applyCmd, hcmd] at hexec
    exact ⟨_, hexec, (ctx_modCtx _ _ _).trans hf, rfl⟩
  case fifth =>
    intro c slot tag s k hk hready hfull
    obtain ⟨cmd, hexec⟩ := exec_doorbellRow c slot tag k hk
    rw [hexec, written_of_ready _ _ hready, ring, doorbell_full s c.toNat _ hfull]
    rfl

/-! ## Accesses of the register window (R42, R280, R295, R304, R349 to R351, R354) -/

section Writes

variable (s : State) (off width v : Nat) (r : RdRes)

theorem writeOk_iff : writeOk s off width v = true ↔
    s.ready = true ∧ accessKind off width true = 0 ∧ rsvBits off width v = false ∧ ¬(0x80000 ≤ off ∧ shadow s = true) := by
  simp [writeOk, and_assoc, imp_iff_not_or]

/-- After READY a well-formed write without a 1 in a reserved bit has one thing left to pass: the shadow of the emulated region. -/
theorem hostWrite_wellFormed (hready : s.ready = true) (hkind : accessKind off width true = 0) (hrsv : rsvBits off width v = false) :
    hostWrite s off width v r =
      if 0x80000 ≤ off ∧ shadow s ∧ goAgain s off v then ctlErr s
      else if 0x80000 ≤ off ∧ shadow s then
        if s.fw.wrq.length < wrqSize then { s with fw := { s.fw with wrq := s.fw.wrq ++ [(off, width, BitVec.ofNat 64 v)] } } else loseWrites s 1
      else applyWrite s off width v r := by
  unfold hostWrite
  rw [if_neg (by simp [hready]), if_neg (not_not_intro hkind)]
  simp only [hrsv, Bool.false_eq_true, if_false]

theorem hostWrite_of_writeOk (h : writeOk s off width v = true) : hostWrite s off width v r = applyWrite s off width v r := by
  obtain ⟨hready, hkind, hrsv, hopen⟩ := (writeOk_iff s off width v).mp h
  rw [hostWrite_wellFormed s off width v r hready hkind hrsv, if_neg fun hgo => hopen ⟨hgo.1, hgo.2.1⟩, if_neg hopen]

theorem hostWrite_queued (hready : s.ready = true) (hkind : accessKind off width true = 0) (hrsv : rsvBits off width v = false) (hemu : 0x80000 ≤ off)
    (hshadow : shadow s = true) (hgo : goAgain s off v = false) (hroom : s.fw.wrq.length < wrqSize) :
    hostWrite s off width v r = { s with fw := { s.fw with wrq := s.fw.wrq ++ [(off, width, BitVec.ofNat 64 v)] } } := by
  rw [hostWrite_wellFormed s off width v r hready hkind hrsv, if_neg (by simp [hgo]), if_pos ⟨hemu, hshadow⟩, if_pos hroom]

theorem hostWrite_goAgain (hready : s.ready = true) (hkind : accessKind off width true = 0) (hrsv : rsvBits off width v = false) (hemu : 0x80000 ≤ off)
    (hshadow : shadow s = true) (hgo : goAgain s off v = true) : hostWrite s off width v r = ctlErr s := by
  rw [hostWrite_wellFormed s off width v r hready hkind hrsv, if_pos ⟨hemu, hshadow, hgo⟩]

/-- A malformed access is noted, with its kind and offset where no note stands yet. -/
theorem hrwError_malformed (kind : Nat) (h : kind ≠ 0) :
    hrwError s kind off = { s with
      badacc := true, errCount := min (s.errCount + 1) 0xFFFF, errKind := if s.badacc = false ∧ s.rsvwr = false then kind else s.errKind,
      errOff := if s.badacc = false ∧ s.rsvwr = false then off else s.errOff } := by
  simp [hrwError, h, satAdd]

/-- A read of a context image whose window is closed sets IMGBUSY. -/
theorem hostReadSets_imageClosed (p : Place) (hloc : locate off = some p) (hreg : p.d.reg = .ctxImage) (hclosed : imageOpen s p.i = false) :
    hostReadSets s off = s.modCtx p.i fun v => { v with imgbusy := true } := by
  simp [hostReadSets, hloc, hreg, hclosed]

end Writes

/-- A write that is not a warm reset goes to the window. -/
theorem exec_registerWrite (off : BitVec 20) (width : Nat) (v : W64) (s : State)
    (h : ¬(off = 0x50008 ∧ width = 32 ∧ bitsOf v.toNat 31 24 = 0x5A ∧ bitsOf v.toNat 1 0 = 1)) :
    exec (.registerWrite off width v) s = .next (settle (hostWrite s off.toNat width v.toNat .ok)) := by
  refine happens_of_true _ s _ ?_
  simp only [Bool.not_eq_true', ← Bool.not_eq_true, Bool.and_eq_true, decide_eq_true_eq]
  rintro ⟨⟨⟨⟨-, hoff⟩, hwidth⟩, hconfirm⟩, hkind⟩
  exact h ⟨hoff, hwidth, hconfirm, hkind⟩

/-- A malformed access of the window is noted after READY. -/
theorem exec_badacc_malformed (off : BitVec 20) (width : Nat) (wr : Bool) (s : State) (hready : s.ready = true) (hkind : accessKind off.toNat width wr ≠ 0) :
    exec (.badacc off width (if wr then .write else .read)) s = .next (settle (hrwError s (accessKind off.toNat width wr) off.toNat)) := by
  cases wr with
  | false => exact (happens_of_true _ s _ (by simp)).trans (by simp [hready, hkind])
  | true => exact (happens_of_true _ s _ (by simpa using hkind)).trans (by simp [hready, hkind])

/-- A well-formed read sets what `hostReadSets` says after READY. -/
theorem exec_badacc_read (off : BitVec 20) (width : Nat) (s : State) (hready : s.ready = true) (hkind : accessKind off.toNat width false = 0) :
    exec (.badacc off width .read) s = .next (settle (hostReadSets s off.toNat)) := by
  exact (happens_of_true _ s _ (by simp)).trans (by simp [hready, hkind])

/-- Settles O37: a write passes the window's checks in order, and each outcome is a case of `hostWrite`; an access that is no write is noted, sets IMGBUSY or is unsupported. -/
theorem registerWritesTakeEffect : Obligations.RegisterWritesTakeEffect := by
  refine ⟨⟨?write, ?malformed, ?image, ?foreign⟩, ?shadow⟩
  case write =>
    intro off width v s hok hcold
    rw [exec_registerWrite off width v s hcold, hostWrite_of_writeOk s off.toNat width v.toNat .ok hok]
  case malformed =>
    intro off width wr s hready hkind
    rw [exec_badacc_malformed off width wr s hready hkind, hrwError_malformed s off.toNat _ hkind]
  case image =>
    intro off width p s hready hkind hloc hreg hclosed
    rw [exec_badacc_read off width s hready hkind, hostReadSets_imageClosed s off.toNat p hloc hreg hclosed]
  case foreign =>
    intro off width s
    rfl
  case shadow =>
    intro off width v s hready hkind hrsv hemu hshadow
    have hexec := exec_registerWrite off width v s (by rintro ⟨rfl, -⟩; exact absurd hemu (by decide))
    refine ⟨fun hgo hroom => ?_, fun hgo => ?_⟩
    · rw [hexec, hostWrite_queued s off.toNat width v.toNat .ok hready hkind hrsv hemu hshadow hgo hroom, BitVec.ofNat_toNat, BitVec.setWidth_eq]
    · rw [hexec, hostWrite_goAgain s off.toNat width v.toNat .ok hready hkind hrsv hemu hshadow hgo]

end Sys2Proof.Machine

/-! Proofs for the Kwemal instructions (chapter 03 of the spec). -/

namespace Sys2Proof.Machine

/-! ## An instruction at issue -/

/-- A row whose instruction is at issue answers what its body makes of the state there. -/
theorem exec_of_body {k : Instr} {s t : State} {c op : Nat} {body : Body} (hexec : exec k s = kwemal s c op body) (hissue : atIssue s c op = true)
    (hbody : body (atBody s c) (insOf s c) (rqOf s c) = t) : exec k s = .next (settle (boundary c t)) := by
  rw [hexec, kwemal_atIssue s c op body hissue, hbody]

theorem opcode_of_atIssue {s : State} {c op : Nat} (h : atIssue s c op = true) : (insOf s c).b.opcode = op := by
  simp only [atIssue, Bool.and_eq_true, decide_eq_true_eq] at h
  obtain ⟨⟨⟨⟨⟨⟨⟨⟨⟨⟨-, hop⟩, -⟩, -⟩, -⟩, -⟩, -⟩, -⟩, -⟩, -⟩, -⟩ := h
  exact hop

/-- A field of two bits has four values. -/
theorem aux_two_bits (i : Ins) : i.aux 1 0 = 0 ∨ i.aux 1 0 = 1 ∨ i.aux 1 0 = 2 ∨ i.aux 1 0 = 3 := by
  have hlt : i.aux 1 0 < 4 := Nat.mod_lt _ (by decide)
  omega

theorem doneI_ops (s : State) (i : Ins) (r : Req) (x : Res) : (doneI s i r x).ops = s.ops :=
  ((noted_complete s r x false).trans (noted_modCtx _ _ _)).ops

/-! ## DEADLINE and JUMP (R102, R107) -/

section Control

variable {s : State} {i : Ins} (r : Req)

/-- DLBASE is v from now on, and RESULT says so (R102). -/
def setDlbase (s : State) (i : Ins) (r : Req) (v : Nat) : State := doneI (s.modCtx i.c fun k => { k with dlbase := v }) i r { result := v }

theorem setDlbase_ops (v : Nat) : (setDlbase s i r v).ops = s.ops := doneI_ops _ _ _ _

/-- The offset of DEADLINE (R102). -/
def dlOffset (i : Ins) : Nat := i.b.opa + i.b.opb * 2 ^ 32

theorem bodyDeadline_fromNow (hm : i.aux 1 0 = 0) (ha : i.b.areg = 0) : bodyDeadline s i r = setDlbase s i r (min (s.now + dlOffset i) (2 ^ 64 - 1)) := by
  unfold bodyDeadline
  dsimp only
  rw [if_neg (by simp [hm, ha]), if_pos hm]
  rfl

theorem bodyDeadline_fromReg (hm : i.aux 1 0 = 1) (ha : i.b.areg = 1) (hb : i.b.opb = 0) : bodyDeadline s i r = setDlbase s i r ((s.ctx i.c).gr (i.b.opa % 16)) := by
  unfold bodyDeadline
  dsimp only
  rw [if_neg (by simp [hm, ha, hb]), if_neg (by simp [hm]), if_pos hm]
  rfl

theorem bodyDeadline_fromDlbase (hm : i.aux 1 0 = 2) (ha : i.b.areg = 0) : bodyDeadline s i r = setDlbase s i r (min ((s.ctx i.c).dlbase + dlOffset i) (2 ^ 64 - 1)) := by
  unfold bodyDeadline
  dsimp only
  rw [if_neg (by simp [hm, ha]), if_neg (by simp [hm]), if_neg (by simp [hm])]
  rfl

theorem bodyDeadline_badMode (h : i.aux 1 0 = 3 ∨ (i.aux 1 0 = 1 ∧ (i.b.areg ≠ 1 ∨ i.b.opb ≠ 0)) ∨ (i.aux 1 0 ≠ 1 ∧ i.b.areg = 1)) :
    bodyDeadline s i r = failI s i r 0x20 :=
  if_pos h

/-- The condition of JUMP as R107 lists it by COND. -/
theorem jumpTaken_eq (s : State) (i : Ins) :
    jumpTaken s i = (i.aux 1 0 = 0 || (i.aux 1 0 = 1 && (s.ctx i.c).gr (i.aux 7 4) % 2 ^ 32 = 0) || (i.aux 1 0 = 2 && (s.ctx i.c).gr (i.aux 7 4) % 2 ^ 32 ≠ 0) ||
      (i.aux 1 0 = 3 && bitOf (s.part i.p).nf ((s.ctx i.c).step % 4))) := by
  unfold jumpTaken
  rcases aux_two_bits i with h | h | h | h <;> simp [h]

/-- Where JUMP goes (R107). -/
theorem jumpTarget_eq (s : State) (i : Ins) : opA s i % 2 ^ 32 = if i.b.areg = 1 then (s.ctx i.c).gr (i.b.opa % 16) % 2 ^ 32 else i.b.opa % 2 ^ 32 := by
  unfold opA
  split <;> rfl

theorem jumpTo_inPlan {t : Nat} (h : pcOk (s.ctx i.c) t = true) : jumpTo s i r t = (doneI s i r {}).modCtx i.c fun v => { v with pc := t, ladlePos := 0 } :=
  if_pos h

theorem jumpTo_outside {t : Nat} (h : pcOk (s.ctx i.c) t = false) : jumpTo s i r t = raiseBad s i.c i.pc i.b.opcode [⟨5, 0, 0⟩] :=
  if_neg (by simp [h])

theorem bodyJump_taken (h : jumpTaken s i = true) : bodyJump s i r = jumpTo s i r (opA s i % 2 ^ 32) := if_pos h

theorem bodyJump_untaken (h : jumpTaken s i = false) : bodyJump s i r = doneI s i r {} := if_neg (by simp [h])

end Control

/-- Settles O9: each mode has its case in the body, and what completes at issue leaves the operations alone. -/
theorem deadlineSetsDlbase : Obligations.DeadlineSetsDlbase := by
  intro c s i r b off set hissue
  have answers {t : State} (hbody : bodyDeadline b i r = t) : exec (.deadline c) s = .next (settle (boundary c.toNat t)) := exec_of_body rfl hissue hbody
  exact ⟨fun hm ha => answers (bodyDeadline_fromNow r hm ha), fun hm ha hb => answers (bodyDeadline_fromReg r hm ha hb),
    fun hm ha => answers (bodyDeadline_fromDlbase r hm ha), fun hbad => answers (bodyDeadline_badMode r hbad), setDlbase_ops r⟩

/-- Settles O11: a taken JUMP goes through `jumpTo`, which checks the target. -/
theorem jumpGoesWhereItsConditionSays : Obligations.JumpGoesWhereItsConditionSays := by
  intro c s i r b g dst taken hissue
  have answers {t : State} (hbody : bodyJump b i r = t) : exec (.jump c) s = .next (settle (boundary c.toNat t)) := exec_of_body rfl hissue hbody
  have htaken : jumpTaken b i = taken := jumpTaken_eq b i
  have hdst : opA b i % 2 ^ 32 = dst := jumpTarget_eq b i
  have hop : i.b.opcode = 0x54 := opcode_of_atIssue hissue
  refine ⟨fun hgo hin => answers ?_, fun hgo hout => answers ?_, fun hstay => answers (bodyJump_untaken r (htaken.trans hstay))⟩
  · rw [bodyJump_taken r (htaken.trans hgo), hdst, jumpTo_inPlan r hin]
  · rw [bodyJump_taken r (htaken.trans hgo), hdst, jumpTo_outside r hout, hop]

/-! ## HALT (R109) -/

/-- A context that is told to stop is STOPPING, on its way to the target (Table 2.4). -/
theorem enterStopping_stops (s : State) (c : Nat) (target : CtxSt) (abort : Bool) :
    ((enterStopping s c target abort).ctx c).st = .stopping ∧ ((enterStopping s c target abort).ctx c).target = target := by
  simp [enterStopping, State.ctx, State.modCtx, State.setCtx]

/-- Settles O12: the body is the record and the HALT event. -/
theorem haltWritesItsRecordAndStops : Obligations.HaltWritesItsRecordAndStops := by
  intro c s i t hissue
  exact ⟨exec_of_body (body := bodyHalt) rfl hissue rfl, enterStopping_stops _ _ _ _⟩

/-! ## What acceptance and a touch leave alone (R29, R74) -/

section Accepted

variable (s : State) (i : Ins) (r : Req) (x : Nat)

theorem isHeld_go (c : Nat) : isHeld (go s i r) c = isHeld s c := rfl

/-- A touch changes the entry's stamp and nothing else of it. -/
theorem touch_obj : (touch s x).obj x = { s.obj x with stamp := wNow s, ageSat := false } := obj_modObj s x _

theorem touch_go_st : ((touch (go s i r) x).obj x).st = (s.obj x).st := by
  rw [touch_obj]
  rfl

theorem touch_go_holds : ((touch (go s i r) x).obj x).holds = (s.obj x).holds := by
  rw [touch_obj]
  rfl

theorem touch_go_recipe : ((touch (go s i r) x).obj x).recipe = (s.obj x).recipe := by
  rw [touch_obj]
  rfl

theorem slotFor_go : slotFor (go s i r) x = slotFor s x := rfl

theorem slotFor_touch : slotFor (touch s x) x = slotFor s x := by
  unfold slotFor
  rw [touch_obj]
  rfl

theorem classBarred_go (p k : Nat) : classBarred (go s i r) p k = classBarred s p k := rfl

theorem classBarred_touch (p k : Nat) : classBarred (touch s x) p k = classBarred s p k := rfl

end Accepted

/-! ## NOP, DECL, BIND, RETIRE, PIN and UNPIN (R78, R80, R81) -/

section Objects

variable {s t : State} {i : Ins} (r : Req)

theorem bodyDecl_allocates {x : Nat} (hok : declOk s i = true) (hquota : quotaOk s i.p = true) (hturn : dirTurn s (.retryCtx i.c) = true) (hfree : dirFree s = some x) :
    let t := dirAlloc (dirLeave s (.retryCtx i.c)) x (declObj s i)
    bodyDecl s i r = doneI (setG t i.c (i.aux 15 12) (handleOf t x)) i r { handle := handleOf t x, result := i.e 0 47 0 } := by
  unfold bodyDecl
  dsimp only
  rw [if_neg (by simp [hok, hquota]), if_neg (by simp [hturn]), hfree]
  rfl

/-- BIND with space at hand: the object is BOUND there and its SEAL waits for the semaphore (R80). -/
theorem bodyBind_binds {a : Nat} (hop : operandOk s i.p (hdlA s i) false = true) (hsem : i.b.opb < semCount s i.p) (hamt : i.e 0 15 0 ≠ 0)
    (htier : bindTierOk (s.obj (hIdx (hdlA s i))) (i.aux 1 0) = true) (hst : (s.obj (hIdx (hdlA s i))).st = .declared) (hholds : (s.obj (hIdx (hdlA s i))).holds = 0)
    (hstore : storeWaits s i.c = false) (hgot : getSpace s i.p (i.aux 1 0) (s.obj (hIdx (hdlA s i))).rawlen false .none (some i.c) (.retryCtx i.c) = (some a, t)) :
    let x := hIdx (hdlA s i)
    let n := semBase s i.p + i.b.opb
    bodyBind s i r = joinSem (go (setG (touch ((bindAt (storeLeave t i.c) x (i.aux 1 0) a (s.obj x).rawlen).modObj x fun v =>
      { v with sealAt := some (n, i.e 0 15 0), sealReq := some { r with handle := hdlA s i } }) x) i.c (i.aux 7 4) (tqa (i.aux 1 0) a)) i r) n (.sealing x (i.e 0 15 0)) := by
  unfold bodyBind
  dsimp only
  rw [if_neg (by simp [hop, hsem, hamt, htier, hst, hholds]), if_neg (by simp [hstore]), hgot]

/-- RETIRE of an object that nothing holds and that is not on its way takes effect at once (Table 1.5). -/
theorem retireEv_free {x : Nat} (force : Bool) (hholds : (s.obj x).holds = 0)
    (hst : (s.obj x).st = .declared ∨ (s.obj x).st = .resident ∨ (s.obj x).st = .dropped ∨ (s.obj x).st = .poisoned) : retireEv s x force r = objFree s x (some r) := by
  unfold retireEv
  dsimp only
  rw [if_neg (by simp [hholds])]
  rcases hst with h | h | h | h <;> rw [h]

theorem bodyRetire_frees (hop : operandOk s i.p (hdlA s i) true = true) (hholds : (s.obj (hIdx (hdlA s i))).holds = 0)
    (hst : (s.obj (hIdx (hdlA s i))).st = .declared ∨ (s.obj (hIdx (hdlA s i))).st = .resident ∨ (s.obj (hIdx (hdlA s i))).st = .dropped ∨
      (s.obj (hIdx (hdlA s i))).st = .poisoned) :
    bodyRetire s i r = objFree (go s i r) (hIdx (hdlA s i)) (some { r with handle := hdlA s i }) := by
  unfold bodyRetire
  dsimp only
  rw [if_neg (by simp [hop])]
  exact retireEv_free _ _ hholds hst

theorem pinBody_ok (on : Bool) (hop : operandOk s i.p (hdlA s i) false = true) :
    pinBody on s i r = doneI (touch (s.modObj (hIdx (hdlA s i)) fun o => { o with pinned := on }) (hIdx (hdlA s i))) i r {} :=
  if_neg (by simp [hop])

end Objects

/-- Settles O3: each row's body passes its checks and does what is left of it. -/
theorem objectInstructionsTakeEffect : Obligations.ObjectInstructionsTakeEffect := by
  refine ⟨?nop, ?decl, ?bind, ?retire, ?pin, ?unpin⟩
  case nop =>
    intro c s hissue
    exact exec_of_body (body := bodyNop) rfl hissue rfl
  case decl =>
    intro c s x i b t hissue hok hquota hturn hfree
    exact exec_of_body rfl hissue (bodyDecl_allocates _ hok hquota hturn hfree)
  case bind =>
    intro c s a i r b h x o n got hissue hop hsem hamt htier hst hholds hstore hgot
    exact exec_of_body rfl hissue (bodyBind_binds _ hop hsem hamt htier hst hholds hstore (Prod.fst_eq_iff.mp hgot))
  case retire =>
    intro c s i r b h x hissue hop hholds hst
    exact exec_of_body rfl hissue (bodyRetire_frees _ hop hholds hst)
  case pin =>
    intro c s i b x hissue hop
    exact exec_of_body rfl hissue (pinBody_ok _ true hop)
  case unpin =>
    intro c s i b x hissue hop
    exact exec_of_body rfl hissue (pinBody_ok _ false hop)

/-! ## Dispositions and moves (R82 to R85) -/

/-- The rows of the five dispositions share a body, and each opcode names its disposition (Table 1.7). -/
theorem exec_dispRow (c : BitVec 8) :
    ∀ e ∈ [(Instr.keep c, 0x10, 1), (Instr.sqz c, 0x11, 2), (Instr.spill c, 0x12, 3), (Instr.drop c, 0x13, 4), (Instr.stock c, 0x17, 5)],
      (∀ s, exec e.1 s = kwemal s c.toNat e.2.1 bodyDisp) ∧ dispOf e.2.1 = e.2.2 := by
  repeat
    rw [List.forall_mem_cons]
    refine ⟨⟨fun _ => rfl, rfl⟩, ?_⟩
  exact List.forall_mem_nil _

/-- FETCH and PROMOTE share a body. -/
theorem exec_fetchRow (c : BitVec 8) : ∀ e ∈ [(Instr.fetch c, 0x14), (Instr.promote c, 0x15)], ∀ s, exec e.1 s = kwemal s c.toNat e.2 bodyFetch := by
  repeat
    rw [List.forall_mem_cons]
    refine ⟨fun _ => rfl, ?_⟩
  exact List.forall_mem_nil _

section Moves

variable {s : State} {i : Ins} (r : Req)

/-- Before the SEAL a disposition is fixed for it, and one fixed before ends ABORTED (R82). -/
theorem bodyDisp_fixes (hop : operandOk s i.p (hdlA s i) false = true) (hdisp : dispOk s (hIdx (hdlA s i)) (dispOf i.b.opcode) = true)
    (hholds : (s.obj (hIdx (hdlA s i))).holds = 0) (hst : (s.obj (hIdx (hdlA s i))).st = .declared ∨ (s.obj (hIdx (hdlA s i))).st = .bound) :
    let x := hIdx (hdlA s i)
    let r' := { r with handle := hdlA s i }
    bodyDisp s i r = (endFixed (touch (go s i r') x) x 0x10 false).modObj x fun v => { v with fixed := some (dispOf i.b.opcode, r') } := by
  unfold bodyDisp
  dsimp only
  rw [if_neg (by simp [hop, hdisp]), if_pos ⟨hst, hholds⟩]

/-- On a RESIDENT object a disposition is the event of its target (R82). -/
theorem bodyDisp_resident (hop : operandOk s i.p (hdlA s i) false = true) (hdisp : dispOk s (hIdx (hdlA s i)) (dispOf i.b.opcode) = true)
    (hst : (s.obj (hIdx (hdlA s i))).st = .resident) :
    let r' := { r with handle := hdlA s i }
    bodyDisp s i r = dispEv (touch (go s i r') (hIdx (hdlA s i))) (hIdx (hdlA s i)) r' := by
  unfold bodyDisp
  dsimp only
  rw [if_neg (by simp [hop, hdisp]), if_neg (by simp [hst]), if_neg (by simp [hst])]

theorem bodyFetch_promotes {d : Dl} (hdl : dlOf s i (s.ctx i.c).dlbase = some d) (hok : fetchOk s i (hdlA s i) = true) :
    bodyFetch s i r = promoteEv (touch (go s i r) (hIdx (hdlA s i))) (hIdx (hdlA s i)) (i.aux 1 0) (i.aux 2 2 = 1) { r with dl := d, handle := hdlA s i } := by
  unfold bodyFetch
  dsimp only
  rw [hdl]
  exact if_neg (by simp [hok])

/-- A FETCH or PROMOTE of a DROPPED object names T1, where a regeneration puts it (R83). -/
theorem tier_of_fetchOk_dropped {h : Nat} (hok : fetchOk s i h = true) (hst : (s.obj (hIdx h)).st = .dropped) : i.aux 1 0 = 1 := by
  simp only [fetchOk, Bool.and_eq_true] at hok
  obtain ⟨-, htier⟩ := hok
  simpa [tierBad, hst] using htier

theorem promoteEv_resident {x tier : Nat} {enc : Bool} (hholds : (s.obj x).holds = 0) (hst : (s.obj x).st = .resident) :
    promoteEv s x tier enc r = promoteResident s x tier enc r := by
  unfold promoteEv
  dsimp only
  rw [if_neg (by simp [hholds]), hst]

theorem promoteEv_dropped {x : Nat} {enc : Bool} (hholds : (s.obj x).holds = 0) (hst : (s.obj x).st = .dropped) (hslot : slotFor s x = true)
    (hup : maskUp s (s.slot (s.obj x).recipe).clmask = true) (hclass : classBarred s r.part 2 = false) : promoteEv s x 1 enc r = regenFor s x r false 1 false := by
  unfold promoteEv
  dsimp only
  rw [if_neg (by simp [hholds]), hst]
  dsimp only
  rw [if_neg (by simp [hslot]), if_neg (by simp [hup]), if_neg (by simp [hclass])]

theorem bodyFetch_resident {d : Dl} (hdl : dlOf s i (s.ctx i.c).dlbase = some d) (hok : fetchOk s i (hdlA s i) = true) (hholds : (s.obj (hIdx (hdlA s i))).holds = 0)
    (hst : (s.obj (hIdx (hdlA s i))).st = .resident) :
    let x := hIdx (hdlA s i)
    let r' := { r with dl := d, handle := hdlA s i }
    bodyFetch s i r = promoteResident (touch (go s i r') x) x (i.aux 1 0) (i.aux 2 2 = 1) r' := by
  intro x r'
  exact (bodyFetch_promotes r hdl hok).trans (promoteEv_resident r' ((touch_go_holds s i r x).trans hholds) ((touch_go_st s i r x).trans hst))

/-- The recipe of a DROPPED object regenerates it where its clusters and the class RCP let it (R83, Table 1.5). -/
theorem bodyFetch_dropped {d : Dl} (hdl : dlOf s i (s.ctx i.c).dlbase = some d) (hok : fetchOk s i (hdlA s i) = true) (hholds : (s.obj (hIdx (hdlA s i))).holds = 0)
    (hst : (s.obj (hIdx (hdlA s i))).st = .dropped) (hslot : slotFor s (hIdx (hdlA s i)) = true) (hup : maskUp s (s.slot (s.obj (hIdx (hdlA s i))).recipe).clmask = true)
    (hclass : classBarred s r.part 2 = false) :
    let x := hIdx (hdlA s i)
    let r' := { r with dl := d, handle := hdlA s i }
    bodyFetch s i r = regenFor (touch (go s i r') x) x r' false 1 false := by
  intro x r'
  rw [bodyFetch_promotes r hdl hok, tier_of_fetchOk_dropped hok hst]
  refine promoteEv_dropped r' ((touch_go_holds s i r x).trans hholds) ((touch_go_st s i r x).trans hst) ?_ ?_ ?_
  · rw [slotFor_touch, slotFor_go]
    exact hslot
  · rw [touch_go_recipe]
    exact hup
  · rw [classBarred_touch, classBarred_go]
    exact hclass

/-- The state in which DEMOTE is judged: with AUTO 1 an invalid slot is counted (R135). -/
theorem bodyDemote_evicts {tgt : Tgt} (hop : operandOk s i.p (hdlA s i) false = true) (hres : (s.obj (hIdx (hdlA s i))).st = .resident) :
    let auto : Bool := i.aux 2 2 = 1
    let b := if auto then demoteCount s (hIdx (hdlA s i)) else s
    demoteTo b (hIdx (hdlA s i)) (i.aux 1 0) auto = some tgt →
    bodyDemote s i r = evictEv (go b i r) (hIdx (hdlA s i)) tgt { r with handle := hdlA s i, auto := auto } := by
  intro auto b hto
  have hb : (if i.aux 2 2 = 1 ∧ (s.obj (hIdx (hdlA s i))).st = .resident then demoteCount s (hIdx (hdlA s i)) else s) = b := by simp [b, auto, hres]
  unfold bodyDemote
  dsimp only
  rw [if_neg (by simp [hop]), hb, hto]

/-- An eviction of a RESIDENT object to a slower tier is accepted as a move (Table 1.5). -/
theorem evictEv_moves {x t : Nat} {f : Form} (hholds : (s.obj x).holds = 0) (hsnap : (s.obj x).snapHold = 0) (hst : (s.obj x).st = .resident)
    (hpin : (s.obj x).pinned = false) (hhome : (s.obj x).home < t) (hclass : classBarred s r.part 1 = false) :
    evictEv s x (.tier t f) r = (accept s { id := 0, req := r, kind := .move x t f true, cls := 1 } true).todo (.tryOp (nextId s)) := by
  unfold evictEv
  dsimp only
  rw [if_neg (by simp [hholds, hsnap]), hst]
  dsimp only
  rw [if_neg (by simp [hpin]), if_neg (by omega), if_neg (by omega), if_neg (by simp [hclass])]

theorem bodyDemote_moves {t : Nat} {f : Form} (hop : operandOk s i.p (hdlA s i) false = true) (hres : (s.obj (hIdx (hdlA s i))).st = .resident) :
    let x := hIdx (hdlA s i)
    let auto : Bool := i.aux 2 2 = 1
    let b := if auto then demoteCount s x else s
    let r' := { r with handle := hdlA s i, auto := auto }
    demoteTo b x (i.aux 1 0) auto = some (.tier t f) → (b.obj x).st = .resident → (b.obj x).holds = 0 → (b.obj x).snapHold = 0 → (b.obj x).pinned = false →
    (b.obj x).home < t → classBarred (go b i r) r.part 1 = false →
    bodyDemote s i r = (accept (go b i r) { id := 0, req := r', kind := .move x t f true, cls := 1 } true).todo (.tryOp (nextId (go b i r))) := by
  intro x auto b r' hto
  have hbody : bodyDemote s i r = evictEv (go b i r) x (.tier t f) r' := bodyDemote_evicts r hop hres hto
  rw [hbody]
  clear_value b
  exact fun hst hholds hsnap hpin hhome hclass => evictEv_moves r' hholds hsnap hst hpin hhome hclass

/-- A FETCH that the Ladle has issued only retires (R85). -/
theorem issueOperands_ahead (s : State) (i : Ins) (body : Body) (hop : i.b.opcode = 0x14)
    (hahead : ((s.ctx i.c).ahead.any fun a => a.slot = (s.ctx i.c).aslot && a.pc = i.pc) = true) :
    issueOperands s i body = retire ((s.cadd i.c 0 1).modCtx i.c fun v => { v with ahead := v.ahead.filter fun a => !(a.slot = v.aslot && a.pc = i.pc) }) i :=
  if_pos ⟨hop, hahead⟩

/-- The words of an instruction pass steps 1 to 3 of R72. -/
theorem issueAt_wordsOk (s : State) (c : Nat) (body : Body) (hbase : baseBad s c (s.ctx c).pc = []) (hnext : nextBad s c (s.ctx c).pc = false)
    (hext : extBad s c (s.ctx c).pc = []) : issueAt s c body = issueOperands s (insOf s c) body := by
  unfold issueAt
  dsimp only
  rw [hbase, hnext, hext]
  exact if_neg Bool.false_ne_true

end Moves

/-- Settles O4: the bodies pass their checks, the object that is named is as it was but for its stamp, and its state picks the row of Table 1.5. -/
theorem dispositionsAndMovesTakeEffect : Obligations.DispositionsAndMovesTakeEffect := by
  refine ⟨?disp, ?fetch, ?demote, ?ahead⟩
  case disp =>
    intro c s k op d hrow i r b x o hissue hop hdisp hholds
    obtain ⟨hexec, hcode⟩ := exec_dispRow c _ hrow
    have hd : dispOf i.b.opcode = d := by rw [opcode_of_atIssue hissue]; exact hcode
    rw [← hd] at hdisp ⊢
    exact ⟨fun hst => exec_of_body (hexec s) hissue (bodyDisp_fixes _ hop hdisp hholds hst), fun hst => exec_of_body (hexec s) hissue (bodyDisp_resident _ hop hdisp hst)⟩
  case fetch =>
    intro c s d k op hrow i b h x o r hissue hdl hok hholds
    exact ⟨fun hst => exec_of_body (exec_fetchRow c _ hrow s) hissue (bodyFetch_resident _ hdl hok hholds hst),
      fun hst hslot hup hclass => exec_of_body (exec_fetchRow c _ hrow s) hissue (bodyFetch_dropped _ hdl hok hholds hst hslot hup hclass)⟩
  case demote =>
    intro c s t f i auto h x b o r u hissue hop hres hto hst hholds hsnap hpin hhome hclass
    exact exec_of_body rfl hissue (bodyDemote_moves _ hop hres hto hst hholds hsnap hpin hhome hclass)
  case ahead =>
    intro c s v i hseated hpc hcache hop hbase hnext hext hahead
    have hexec : exec (.fetch c) s = kwemal s c.toNat 0x14 bodyFetch := rfl
    rw [hexec, kwemal_seated s c.toNat 0x14 bodyFetch hseated hpc hcache hop, issueAt_wordsOk s c.toNat bodyFetch hbase hnext hext,
      issueOperands_ahead s (insOf s c.toNat) bodyFetch hop hahead]
    rfl

/-! ## RCPDEF, RCPRUN, RNGCAP and RNGSET (R86 to R88) -/

section Recompute

variable {s t : State} {i : Ins} (r : Req)

theorem bodyRcpdef_invalidates (hslot : i.b.opa < rcpCount s i.p) (hrefs : slotRefs s (rcpBase s i.p + i.b.opa) = 0) (hinv : i.aux 0 0 = 1) :
    bodyRcpdef s i r = rcpInval (go s i r) r (rcpBase s i.p + i.b.opa) := by
  unfold bodyRcpdef
  dsimp only
  rw [if_neg (by simp [hslot, hrefs]), if_pos hinv]

theorem bodyRcpdef_defines (hslot : i.b.opa < rcpCount s i.p) (hrefs : slotRefs s (rcpBase s i.p + i.b.opa) = 0) (hdef : i.aux 0 0 = 0)
    (hwin : inWindow s i.p (i.e 0 63 0) (i.e 0 95 64) = true) (hunit : i.e 0 95 64 % 16 = 0) (hmin : 64 ≤ i.e 0 95 64) (hmax : i.e 0 95 64 ≤ 65536)
    (htier : tqaTier (i.e 0 63 0) = 1) (hquota : quotaOk s i.p = true) (hclass : classBarred s i.p 11 = false) :
    bodyRcpdef s i r = rcpdefBegin (go s i r) r (rcpBase s i.p + i.b.opa) (i.e 0 63 0) (i.e 0 95 64) := by
  unfold bodyRcpdef
  dsimp only
  rw [if_neg (by simp [hslot, hrefs]), if_neg (by simp [hdef]), if_neg (by simp [hwin]), if_neg (by simp [hunit, hmin, hmax, htier]), if_neg (by simp [hquota]),
    if_neg (by simp [hclass])]

/-- RCPRUN of a DROPPED object promotes it to T1 (R88). -/
theorem bodyRcprun_dropped {d : Dl} (hdl : dlOf s i (s.ctx i.c).dlbase = some d) (hop : operandOk s i.p (hdlA s i) false = true)
    (hst : (s.obj (hIdx (hdlA s i))).st = .dropped) (hopb : i.b.opb = 0) (hdst : i.aux 7 4 = 0) (htier : i.aux 1 0 = 1) (hslot : slotFor s (hIdx (hdlA s i)) = true) :
    let x := hIdx (hdlA s i)
    let r' := { r with dl := d, handle := hdlA s i }
    bodyRcprun s i r = promoteEv (touch (go s i r') x) x 1 false r' := by
  unfold bodyRcprun
  dsimp only
  rw [hdl]
  dsimp only
  rw [if_neg (by simp [hop]), if_pos hst, if_neg (by simp [hopb, hdst, htier, hslot])]

/-- RCPRUN into a DECLARED object with space at hand: its recipe waits for dispatch (R88). -/
theorem bodyRcprun_declared {d : Dl} {a : Nat} (hdl : dlOf s i (s.ctx i.c).dlbase = some d) (hop : operandOk s i.p (hdlA s i) false = true)
    (hst : (s.obj (hIdx (hdlA s i))).st = .declared) (hcls : (s.obj (hIdx (hdlA s i))).clsP = false) (hholds : (s.obj (hIdx (hdlA s i))).holds = 0) (htier : i.aux 1 0 < 2)
    (hslot : i.b.opb < rcpCount s i.p) (hvalid : (s.slot (rcpBase s i.p + i.b.opb)).valid = true)
    (hlen : (s.slot (rcpBase s i.p + i.b.opb)).outlen = (s.obj (hIdx (hdlA s i))).rawlen) (hup : maskUp s (s.slot (rcpBase s i.p + i.b.opb)).clmask = true)
    (hclass : classBarred s i.p 2 = false)
    (hgot : getSpace s i.p (i.aux 1 0) (s.obj (hIdx (hdlA s i))).rawlen false .none (some i.c) (.retryCtx i.c) = (some a, t)) :
    bodyRcprun s i r = runInto t i { r with dl := d, handle := hdlA s i } (hIdx (hdlA s i)) (hdlA s i) (i.aux 1 0) a (rcpBase s i.p + i.b.opb) := by
  unfold bodyRcprun
  dsimp only
  rw [hdl]
  dsimp only
  rw [if_neg (by simp [hop]), if_neg (by simp [hst]), if_neg (by simp [hst, hcls, hholds, htier, hslot, hvalid, hlen]), if_neg (by simp [hup]), if_neg (by simp [hclass]), hgot]

theorem bodyRngcap_sets (hop : operandOk s i.p (hdlA s i) false = true) (hcls : (s.obj (hIdx (hdlA s i))).clsP = false)
    (hst : (s.obj (hIdx (hdlA s i))).st = .declared ∨ (s.obj (hIdx (hdlA s i))).st = .bound) (hmask : i.aux 7 0 ≠ 0) (hup : maskUp s (i.aux 7 0) = true) :
    bodyRngcap s i r = doneI ((touch s (hIdx (hdlA s i))).modObj (hIdx (hdlA s i)) fun v => { v with clmask := i.aux 7 0 }) i r {} := by
  unfold bodyRngcap
  dsimp only
  rw [if_neg (by simpa [hop, hcls, hmask] using hst.resolve_left), if_neg (by simp [hup])]

theorem bodyRngset_begins (hop : operandOk s i.p (hdlA s i) false = true) (hcap : (s.obj (hIdx (hdlA s i))).rngcap = true) (hmask : i.aux 7 0 ≠ 0)
    (hsub : i.aux 7 0 ||| (s.slot (s.obj (hIdx (hdlA s i))).recipe).capmask = (s.slot (s.obj (hIdx (hdlA s i))).recipe).capmask) (hup : maskUp s (i.aux 7 0) = true) :
    let u := touch (go s i r) (hIdx (hdlA s i))
    bodyRngset s i r =
      (accept u { id := 0, req := { r with handle := hdlA s i }, kind := .rngset (hIdx (hdlA s i)) (i.aux 7 0) 0 0, cls := 2, phase := .running } false).todo
        (.tryOp (nextId u)) := by
  unfold bodyRngset
  dsimp only
  rw [if_neg (by simp [hop, hcap, hmask, hsub]), if_neg (by simp [hup])]

end Recompute

/-- Settles O5: the bodies pass their checks; RCPRUN goes by the object's state. -/
theorem recomputeInstructionsTakeEffect : Obligations.RecomputeInstructionsTakeEffect := by
  refine ⟨?rcpdef, ?rcprun, ?rngcap, ?rngset⟩
  case rcpdef =>
    intro c s i r b n hissue hslot hrefs
    exact ⟨fun hinv => exec_of_body rfl hissue (bodyRcpdef_invalidates _ hslot hrefs hinv),
      fun hdef hwin hunit hmin hmax htier hquota hclass => exec_of_body rfl hissue (bodyRcpdef_defines _ hslot hrefs hdef hwin hunit hmin hmax htier hquota hclass)⟩
  case rcprun =>
    intro c s d a i b h x o t n r got hissue hdl hop
    exact ⟨fun hst hopb hdst htier hslot => exec_of_body rfl hissue (bodyRcprun_dropped _ hdl hop hst hopb hdst htier hslot),
      fun hst hcls hholds htier hslot hvalid hlen hup hclass hgot =>
        exec_of_body rfl hissue (bodyRcprun_declared _ hdl hop hst hcls hholds htier hslot hvalid hlen hup hclass (Prod.fst_eq_iff.mp hgot))⟩
  case rngcap =>
    intro c s i b h x hissue hop hcls hst hmask hup
    exact exec_of_body rfl hissue (bodyRngcap_sets _ hop hcls hst hmask hup)
  case rngset =>
    intro c s i r b h x m cap u hissue hop hcap hmask hsub hup
    exact exec_of_body rfl hissue (bodyRngset_begins _ hop hcap hmask hsub hup)

/-! ## GATHER, SWEEP, LAND, TSTREAM, XCHG and SNAP (R89 to R94) -/

section Streams

variable {s t : State} {i : Ins} (r : Req)

/-- The rows of an indexed GATHER, read from its index object: the object, ROWBYTES, and the row numbers (R199). -/
def gatherRows (s : State) (i : Ins) : Option (Nat × Nat) × List Nat :=
  match gatherIdx i with
  | some (h, n, rb) => (some (hIdx h, rb), fp32s n (objBytes s (hIdx h) 0 (4 * n)))
  | none => (none, [])

theorem bodyGather_begins {d : Dl} {a : Nat} (hdl : dlOf s i (s.ctx i.c).dlbase = some d) (hok : gatherOk s i = true) (hclass : classBarred s i.p 3 = false)
    (hgot : getSpace s i.p (i.aux 1 0) (s.obj (hIdx (hdlB s i))).rawlen false .none (some i.c) (.retryCtx i.c) = (some a, t)) :
    bodyGather s i r = gatherBegin (touchAll (go t i r) (named t i)) { r with dl := d } (hIdx (hdlA s i)) (hIdx (hdlB s i)) (i.aux 1 0) a (i.aux 5 2) (i.e 0 15 0)
      (gatherRows t i).1 (gatherRows t i).2 := by
  unfold bodyGather
  rw [hdl]
  dsimp only
  rw [if_neg (by simp [hok]), if_neg (by simp [hclass]), hgot]
  rfl

theorem bodySweep_begins (hok : sweepOk s i = true) (hclass : classBarred s i.p 4 = false) :
    bodySweep s i r = sweepBegin (touchAll (go s i r) (named s i)) r (hIdx (hdlA s i)) (hIdx (hdlB s i)) (hIdx (i.e 0 31 0)) (hIdx (i.e 0 63 32)) (i.e 0 79 64)
      (i.aux 0 0 = 1) := by
  unfold bodySweep
  rw [if_neg (by simp [hok]), if_neg (by simp [hclass])]

theorem bodyLand_begins {d : Dl} (hdl : dlOf s i (s.ctx i.c).dlbase = some d) (hok : landOk s i = true) (hclass : classBarred s i.p 5 = false) :
    bodyLand s i r = landBegin (touchAll (go s i r) (named s i)) { r with dl := d } (hIdx (hdlA s i)) (hIdx (hdlB s i)) (i.e 0 31 16) (i.e 0 15 0) (i.aux 0 0 = 1)
      (i.aux 1 1) := by
  unfold bodyLand
  rw [hdl]
  dsimp only
  rw [if_neg (by simp [hok]), if_neg (by simp [hclass])]

theorem bodyTstream_begins {d : Dl} (hdl : dlOf s i (s.ctx i.c).dlbase = some d) (hok : teachOk s i = true) (hup : teachUp s i = true)
    (hclass : classBarred s i.p 3 = false) :
    bodyTstream s i r = teachBegin (touchAll (go s i r) (named s i)) { r with dl := d } (hIdx (hdlA s i)) (i.aux 1 0) (i.e 0 7 0) (i.e 0 31 16) (hIdx (i.e 0 63 32))
      (hIdx (hdlB s i)) := by
  unfold bodyTstream
  rw [hdl]
  dsimp only
  rw [if_neg (by simp [hok]), if_neg (by simp [hup]), if_neg (by simp [hclass])]

/-- The operation of an XCHG of object x into object y, by its direction (R93). -/
def xchgBegin (s : State) (i : Ins) (r : Req) (x y : Nat) : State :=
  if i.e 0 17 16 = 0 then sendBegin s r x (i.e 0 15 0) (i.e 0 47 32) none
  else if i.e 0 17 16 = 1 then recvBegin s r y (i.e 0 15 0) (i.e 0 47 32) (i.aux 1 0) none
  else bothBegin s r x y (i.e 0 15 0) (i.e 0 47 32) (i.aux 1 0)

theorem xchgBegin_send {x y : Nat} (h : i.e 0 17 16 = 0) : xchgBegin s i r x y = sendBegin s r x (i.e 0 15 0) (i.e 0 47 32) none := if_pos h

theorem xchgBegin_recv {x y : Nat} (h : i.e 0 17 16 = 1) : xchgBegin s i r x y = recvBegin s r y (i.e 0 15 0) (i.e 0 47 32) (i.aux 1 0) none := by
  unfold xchgBegin
  rw [if_neg (by simp [h]), if_pos h]

theorem xchgBegin_both {x y : Nat} (h : i.e 0 17 16 = 2) : xchgBegin s i r x y = bothBegin s r x y (i.e 0 15 0) (i.e 0 47 32) (i.aux 1 0) := by
  unfold xchgBegin
  rw [if_neg (by simp [h]), if_neg (by simp [h])]

theorem bodyXchg_begins {d : Dl} (hdl : dlOf s i (s.ctx i.c).dlbase = some d) (hok : xchgOk s i = true) (hclass : classBarred s i.p 6 = false) :
    bodyXchg s i r = xchgBegin (touchAll (go s i r) (named s i)) i { r with dl := d } (hIdx (hdlA s i)) (hIdx (hdlB s i)) := by
  unfold bodyXchg
  rw [hdl]
  dsimp only
  rw [if_neg (by simp [hok]), if_neg (by simp [hclass])]
  rfl

theorem bodySnap_begins {a : Nat} (hres : residentP s i.p (hdlA s i) = true) (hquota : quotaOk s i.p = true) (hhost : s.hostl.detached = false)
    (hprot : (s.obj (hIdx (hdlA s i))).prot = true → aesUsable s ≠ [] ∧ (s.part i.p).nonce ≠ 2 ^ 64 - 1) (hclass : classBarred s i.p 8 = false)
    (hplace : place s i.p 3 (formSize (s.obj (hIdx (hdlA s i))) (if (s.obj (hIdx (hdlA s i))).prot then .prot else .raw)) false = some a) :
    bodySnap s i r = snapBegin (touch (go s i r) (hIdx (hdlA s i))) { r with gdst := i.aux 3 0 } (hIdx (hdlA s i)) a := by
  unfold bodySnap
  dsimp only
  rw [if_neg (by simp [hres, hquota]), if_neg (by simp [hhost]), if_neg fun h => (hprot h.1).1 h.2, if_neg fun h => (hprot h.1).2 h.2, if_neg (by simp [hclass]), hplace]

end Streams

/-- Settles O6: each body passes its checks and begins its operation; an XCHG goes by its direction. -/
theorem trainingInstructionsTakeEffect : Obligations.TrainingInstructionsTakeEffect := by
  refine ⟨⟨?gather, ?sweep, ?land, ?tstream⟩, ?xchg, ?snap⟩
  case gather =>
    intro c s d a i b m w got rows hissue hdl hok hclass hgot
    exact exec_of_body rfl hissue (bodyGather_begins _ hdl hok hclass (Prod.fst_eq_iff.mp hgot))
  case sweep =>
    intro c s i b hissue hok hclass
    exact exec_of_body rfl hissue (bodySweep_begins _ hok hclass)
  case land =>
    intro c s d i b hissue hdl hok hclass
    exact exec_of_body rfl hissue (bodyLand_begins _ hdl hok hclass)
  case tstream =>
    intro c s d i b hissue hdl hok hup hclass
    exact exec_of_body rfl hissue (bodyTstream_begins _ hdl hok hup hclass)
  case xchg =>
    intro c s d i b r u x y hissue hdl hok hclass
    have hbody : bodyXchg b i (rqOf s c.toNat) = xchgBegin u i r x y := bodyXchg_begins _ hdl hok hclass
    exact ⟨fun hdir => exec_of_body rfl hissue (hbody.trans (xchgBegin_send r hdir)), fun hdir => exec_of_body rfl hissue (hbody.trans (xchgBegin_recv r hdir)),
      fun hdir => exec_of_body rfl hissue (hbody.trans (xchgBegin_both r hdir))⟩
  case snap =>
    intro c s a i r b h o hissue hres hquota hhost hprot hclass hplace
    exact exec_of_body rfl hissue (bodySnap_begins _ hres hquota hhost hprot hclass hplace)

/-! ## BOUNCE, FILL, CMP and INLINE (R95 to R97) -/

section Bytes

variable {s : State} {i : Ins} (r : Req)

theorem bodyBounce_begins (hwin : inWindow s i.p (i.e 0 63 0) (i.e 1 95 48) = true) (htier : tqaTier (i.e 0 63 0) = 3) (hop : operandOk s i.p (hdlA s i) false = true)
    (hrange : rangeOk (s.obj (hIdx (hdlA s i))) 64 (i.e 1 47 0) (i.e 1 95 48) = true) (hprot : (s.obj (hIdx (hdlA s i))).prot = false)
    (hhome : (s.obj (hIdx (hdlA s i))).home < 3) (hwr : writable (s.obj (hIdx (hdlA s i))) = true) (hst : i.aux 0 0 = 1 → (s.obj (hIdx (hdlA s i))).st = .resident)
    (hhost : s.hostl.detached = false) (hclass : classBarred s i.p 7 = false) :
    bodyBounce s i r = bounceBegin (touch (go s i r) (hIdx (hdlA s i))) { r with handle := hdlA s i } (hIdx (hdlA s i)) (i.e 1 47 0) (i.e 1 95 48) (i.e 0 63 0)
      (i.aux 0 0 = 1) := by
  unfold bodyBounce
  dsimp only
  rw [if_neg (by simp [hwin]), if_neg (by simpa [hop, htier, hrange, hprot, hhome, hwr] using hst), if_neg (by simp [hhost]), if_neg (by simp [hclass])]

theorem bodyFill_begins (hop : operandOk s i.p (hdlA s i) false = true) (hrange : rangeOk (s.obj (hIdx (hdlA s i))) 8 (i.e 0 47 0) (i.e 0 95 48) = true)
    (hwr : writable (s.obj (hIdx (hdlA s i))) = true) (hhost : ¬((s.obj (hIdx (hdlA s i))).home = 3 ∧ s.hostl.detached = true)) (hclass : classBarred s i.p 11 = false) :
    bodyFill s i r = fillBegin (touch (go s i r) (hIdx (hdlA s i))) { r with handle := hdlA s i } (hIdx (hdlA s i)) (i.e 0 47 0) (i.e 0 95 48) (i.e 1 63 0) := by
  unfold bodyFill
  dsimp only
  rw [if_neg (by simp [hop, hrange, hwr]), if_neg hhost, if_neg (by simp [hclass])]

theorem bodyCmp_begins (hopA : operandOk s i.p (hdlA s i) false = true) (hopB : operandOk s i.p (hdlB s i) false = true)
    (hstA : (s.obj (hIdx (hdlA s i))).st = .resident) (hstB : (s.obj (hIdx (hdlB s i))).st = .resident)
    (hrangeA : rangeOk (s.obj (hIdx (hdlA s i))) 8 (i.e 0 47 0) (i.e 0 95 48) = true) (hrangeB : rangeOk (s.obj (hIdx (hdlB s i))) 8 (i.e 0 47 0) (i.e 0 95 48) = true)
    (hhost : ¬(((s.obj (hIdx (hdlA s i))).home = 3 ∨ (s.obj (hIdx (hdlB s i))).home = 3) ∧ s.hostl.detached = true))
    (hdec : (s.obj (hIdx (hdlA s i))).form = .enc ∨ (s.obj (hIdx (hdlB s i))).form = .enc → decUsable s = true) (hclass : classBarred s i.p 11 = false) :
    bodyCmp s i r = cmpBegin (touchAll (go s i r) (named s i)) { r with handle := hdlA s i } (hIdx (hdlA s i)) (hIdx (hdlB s i)) (i.e 0 47 0) (i.e 0 95 48) := by
  unfold bodyCmp
  dsimp only
  rw [if_neg (by simp [hopA, hopB, hstA, hstB, hrangeA, hrangeB]), if_neg hhost, if_neg (by simpa using hdec), if_neg (by simp [hclass])]

theorem bodyInline_begins (hareg : i.b.areg = 1) (hsome : i.aux 6 0 ≠ 0) (hfits : i.aux 6 0 ≤ 16 * nextMax (s.ctx i.c).plan.format)
    (hpage : (s.ctx i.c).gr (i.b.opa % 16) % 4096 + i.aux 6 0 ≤ 4096) (hwin : inWindow s i.p ((s.ctx i.c).gr (i.b.opa % 16)) (i.aux 6 0) = true)
    (haway : t3Away s ((s.ctx i.c).gr (i.b.opa % 16)) = false) (hclass : classBarred s i.p 11 = false) (hheld : isHeld s i.c = false) :
    bodyInline s i r = inlineBegin (go s i r) r ((s.ctx i.c).gr (i.b.opa % 16)) ((i.ext.flatMap (leBytes 16)).take (i.aux 6 0)) := by
  unfold bodyInline
  dsimp only
  rw [if_neg (by simp [hareg, hsome, hfits, hpage]), if_neg (by simp [hwin]), if_neg (by simp [haway]), if_neg (by simp [hclass]), if_neg (by simp [hheld])]

end Bytes

/-- Settles O7: each body passes its checks and begins its operation. -/
theorem byteInstructionsTakeEffect : Obligations.ByteInstructionsTakeEffect := by
  refine ⟨?bounce, ?fill, ?cmp, ?inline⟩
  case bounce =>
    intro c s i r b h o hissue hwin htier hop hrange hprot hhome hwr hst hhost hclass
    exact exec_of_body rfl hissue (bodyBounce_begins _ hwin htier hop hrange hprot hhome hwr hst hhost hclass)
  case fill =>
    intro c s i r b h o hissue hop hrange hwr hhost hclass
    exact exec_of_body rfl hissue (bodyFill_begins _ hop hrange hwr hhost hclass)
  case cmp =>
    intro c s i r b o q hissue hopA hopB hstA hstB hrangeA hrangeB hhost hdec hclass
    exact exec_of_body rfl hissue (bodyCmp_begins _ hopA hopB hstA hstB hrangeA hrangeB hhost hdec hclass)
  case inline =>
    intro c s i r b a n hissue hareg hsome hfits hpage hwin haway hclass hheld
    rw [isHeld_go] at hheld
    exact exec_of_body rfl hissue (bodyInline_begins _ hareg hsome hfits hpage hwin haway hclass hheld)

/-! ## WAIT, SIGNAL, FENCE, BAR and MARKDEP (R98 to R101) -/

section Sync

variable {s t : State} {i : Ins} (r : Req)

/-- An amount that is there, with nobody waiting before, is taken at once (R237). -/
theorem waitSem_served (hsem : i.b.opa < semCount s i.p) (hq : (s.sem (semBase s i.p + i.b.opa)).q = []) (hamt : i.b.opb ≤ (s.sem (semBase s i.p + i.b.opa)).val) :
    let n := semBase s i.p + i.b.opa
    waitSem s i r = doneI (s.setSem n { s.sem n with val := (s.sem n).val - i.b.opb }) i r { result := (s.sem n).val - i.b.opb } := by
  unfold waitSem
  dsimp only
  rw [if_neg (by simp [hsem]), if_pos (.inr ⟨hq, hamt⟩)]

/-- An amount that is not there, or that others wait for, blocks the context in the semaphore's queue (R237). -/
theorem waitSem_blocked (hsem : i.b.opa < semCount s i.p) (hsome : i.b.opb ≠ 0)
    (hwait : (s.sem (semBase s i.p + i.b.opa)).q ≠ [] ∨ (s.sem (semBase s i.p + i.b.opa)).val < i.b.opb) (hstore : storeWaits s i.c = false) :
    let n := semBase s i.p + i.b.opa
    waitSem s i r = joinSem (traceBegin (block s i.c 1 n r) i.c) n (.ctx i.c i.b.opb) := by
  have hnot : ¬(i.b.opb = 0 ∨ (s.sem (semBase s i.p + i.b.opa)).q = [] ∧ i.b.opb ≤ (s.sem (semBase s i.p + i.b.opa)).val) := by
    rintro (h | ⟨hq, hamt⟩)
    · exact hsome h
    · exact hwait.elim (fun h => h hq) (fun h => Nat.not_lt.mpr hamt h)
  unfold waitSem
  dsimp only
  rw [if_neg (by simp [hsem]), if_neg hnot, if_neg (by simp [hstore])]

theorem waitRing_popped {h : Nat} (hok : ringOkFor s i.p i.b.opa = true) (hpop : ringPop s (ringBase s i.p + i.b.opa) (.ctx i.c) = (some h, t)) :
    waitRing s i r = doneI (setG t i.c (i.aux 7 4) h) i r { handle := h, result := ringCount' (t.ring (ringBase s i.p + i.b.opa)) } := by
  unfold waitRing
  dsimp only
  rw [if_neg (by simp [hok]), hpop]

/-- A pop of an empty ring gets no handle (R241). -/
theorem ringPop_empty {n : Nat} (w : Party) (hempty : ringCount' (s.ring n) = 0) :
    ringPop s n w = (none, s.setRing n { s.ring n with popq := (s.ring n).popq ++ [w] }) :=
  if_pos hempty

theorem waitRing_empty (hok : ringOkFor s i.p i.b.opa = true) (hempty : ringCount' (s.ring (ringBase s i.p + i.b.opa)) = 0) :
    let n := ringBase s i.p + i.b.opa
    waitRing s i r = traceBegin (block (ringPop s n (.ctx i.c)).2 i.c 5 n { r with gdst := i.aux 7 4 }) i.c := by
  unfold waitRing
  dsimp only
  rw [if_neg (by simp [hok]), ringPop_empty _ hempty]

theorem bodyWait_sem (h : i.aux 0 0 = 0) : bodyWait s i r = waitSem s i r := if_neg (by simp [h])

theorem bodyWait_ring (h : i.aux 0 0 = 1) : bodyWait s i r = waitRing s i r := if_pos h

theorem bodySignal_sem (hkind : i.aux 0 0 = 0) (hsem : i.b.opa < semCount s i.p) (hheld : isHeld s i.c = false) :
    let n := semBase s i.p + i.b.opa
    bodySignal s i r = doneI (semAddTo s n i.b.opb (.ctx i.c)) i r { result := min ((s.sem n).val + i.b.opb) 0xFFFF } := by
  have hring : ¬(i.aux 0 0 = 1) := by simp [hkind]
  unfold bodySignal
  simp only [hring, if_false]
  rw [if_neg (by simp [hsem]), if_neg (by simp [hheld])]
  rfl

/-- A SIGNAL on a ring that no FENCE holds back is carried out at once (R98, R99). -/
theorem bodySignal_ring (hkind : i.aux 0 0 = 1) (hok : ringOkFor s i.p i.b.opa = true) (hop : operandOk s i.p (hdlB s i) false = true)
    (hheld : isHeld (touch s (hIdx (hdlB s i))) i.c = false) :
    bodySignal s i r = signalNow (touch s (hIdx (hdlB s i))) i r true (ringBase s i.p + i.b.opa) (hdlB s i) := by
  unfold bodySignal
  simp only [hkind, if_true]
  rw [if_neg (by simp [hok, hop]), if_neg (by simp [hheld])]
  rfl

theorem signalNow_pushed {n h : Nat} (hpush : ringPush s n h (.ctx i.c) none = (t, true)) : signalNow s i r true n h = doneI t i r { result := ringCount' (t.ring n) } := by
  unfold signalNow
  rw [if_pos rfl, hpush]

theorem signalNow_blocked {n h : Nat} (hpush : ringPush s n h (.ctx i.c) none = (t, false)) : signalNow s i r true n h = traceBegin (block t i.c 5 n r) i.c := by
  unfold signalNow
  rw [if_pos rfl, hpush]

/-- A child of the group that has neither a latched outcome nor an arrival that stands arrives, unless FENCE holds it back (R100, R246). -/
theorem bodyBar_arrives {g : Nat} (hgrp : barFor s i.p (i.b.opa % 256) = some g) (hchild : barChild s g i.c = true)
    (hlatch : ((s.bar g).latched.find? fun l => l.1 = i.c) = none) (harr : (s.node (barLeaf s g)).arrived.any (fun e => e.1 = i.c) = false)
    (hops : s.ops.any (fun o => o.req.who = .ctx i.c && o.kind = .heldBar g) = false) (hheld : isHeld s i.c = false) :
    bodyBar s i r = arriveCtx (block s i.c 2 g r) g i.c := by
  unfold bodyBar
  rw [hgrp]
  dsimp only
  rw [if_neg (by simp [hchild]), hlatch]
  dsimp only
  rw [if_neg (by rw [harr, hops]; simp), if_neg (by simp [hheld])]

theorem bodyMarkdep_done (h : i.b.opa < semCount s i.p) : bodyMarkdep s i r = doneI s i r {} := if_neg (by simp [h])

end Sync

/-- Settles O8: a semaphore or a ring that can serve the instruction does so at once, and one that cannot blocks the context. -/
theorem syncInstructionsTakeEffect : Obligations.SyncInstructionsTakeEffect := by
  refine ⟨?waitSem, ?waitRing, ?signalSem, ?signalRing, ?fence, ?bar, ?markdep⟩
  case waitSem =>
    intro c s i r b n m hissue hkind hsem
    exact ⟨fun hq hamt => exec_of_body rfl hissue ((bodyWait_sem _ hkind).trans (waitSem_served _ hsem hq hamt)),
      fun hsome hwait hstore => exec_of_body rfl hissue ((bodyWait_sem _ hkind).trans (waitSem_blocked _ hsem hsome hwait hstore))⟩
  case waitRing =>
    intro c s i r b n hissue hkind hok
    exact ⟨fun h hpop => exec_of_body rfl hissue ((bodyWait_ring _ hkind).trans (waitRing_popped _ hok (Prod.fst_eq_iff.mp hpop))),
      fun hempty => exec_of_body rfl hissue ((bodyWait_ring _ hkind).trans (waitRing_empty _ hok hempty))⟩
  case signalSem =>
    intro c s i r b n hissue hkind hsem hheld
    exact exec_of_body rfl hissue (bodySignal_sem _ hkind hsem hheld)
  case signalRing =>
    intro c s i r b h n got hissue hkind hok hop hheld
    exact ⟨fun hpush => exec_of_body rfl hissue ((bodySignal_ring _ hkind hok hop hheld).trans (signalNow_pushed _ (Prod.snd_eq_iff.mp hpush))),
      fun hpush => exec_of_body rfl hissue ((bodySignal_ring _ hkind hok hop hheld).trans (signalNow_blocked _ (Prod.snd_eq_iff.mp hpush)))⟩
  case fence =>
    intro c s i r b hissue
    exact exec_of_body (body := bodyFence) rfl hissue rfl
  case bar =>
    intro c s g i r b hissue hgrp hchild hlatch harr hops hheld
    exact exec_of_body rfl hissue (bodyBar_arrives _ hgrp hchild hlatch harr hops hheld)
  case markdep =>
    intro c s i b hissue hsem
    exact exec_of_body rfl hissue (bodyMarkdep_done _ hsem)

/-! ## EPOCH, BUDGET, WATCH, REPORT and LOOP (R103 to R106, R108) -/

section Programs

variable {s : State} {i : Ins} (r : Req)

/-- The state in which EPOCH looks at the other plan: STEP has gone on and the TRANSIENT objects are retired (R54, R79). -/
def epochState (s : State) (i : Ins) : State := retireTransient (epochStep s i.c i.p) i.c i.p

/-- The plan slot of a context that does not run. -/
def idleSlot (v : Ctx) : Slot := v.slotAt (1 - v.aslot)

theorem bodyEpoch_eq (s : State) (i : Ins) (r : Req) :
    bodyEpoch s i r = if (idleSlot ((epochState s i).ctx i.c)).loading.isSome = true then block (epochState s i) i.c 6 0 r else epochGo (epochState s i) i r true := rfl

theorem bodyEpoch_goes (hload : (idleSlot ((epochState s i).ctx i.c)).loading = none) : bodyEpoch s i r = epochGo (epochState s i) i r true := by
  rw [bodyEpoch_eq, if_neg (by simp [hload])]

theorem bodyEpoch_waits (hload : (idleSlot ((epochState s i).ctx i.c)).loading.isSome = true) : bodyEpoch s i r = block (epochState s i) i.c 6 0 r := by
  rw [bodyEpoch_eq, if_pos hload]

theorem bodyBudget_writes (h : i.aux 3 0 < 12) :
    let k := i.aux 3 0
    let ceil := reg s (0x92000 + 0x100 * i.p + 8 * k)
    let w := min (opA s i) (bitsOf ceil 31 0) + min (opB s i) (bitsOf ceil 63 32) * 2 ^ 32
    bodyBudget s i r = doneI ((setReg s (0x90000 + 0x200 * i.p + 0x100 * (1 - (s.part i.p).budActive) + 8 * k) w).modPart i.p fun v => { v with budDirty := true }) i r
      { result := w } :=
  if_neg (Nat.not_le.mpr h)

theorem bodyWatch_disarms (hoff : i.aux 5 5 = 1) (harmed : (s.tapOf i.b.opb).armed = true) (hpart : (s.tapOf i.b.opb).part = i.p) (hopa : i.b.opa = 0)
    (hstat : i.aux 3 0 = 0) : bodyWatch s i r = doneI (disarmTap s i.b.opb) i r { result := i.b.opb } := by
  unfold bodyWatch
  dsimp only
  rw [if_pos hoff, if_neg (by simp [harmed, hpart, hopa, hstat])]

theorem bodyWatch_arms {n : Nat} (hon : i.aux 5 5 = 0) (hfree : freeTap s i.p = some n) (hop : operandOk s i.p (hdlA s i) false = true)
    (hst : (s.obj (hIdx (hdlA s i))).st = .resident) (hopb : i.b.opb = 0) (hstat : i.aux 3 0 ≤ 4) (hsome : i.aux 3 0 ≠ 0 ∨ i.aux 4 4 = 1) :
    bodyWatch s i r = doneI (armTap s n i.p (hdlA s i) (i.aux 3 0) (i.aux 4 4 = 1)) i r { result := n } := by
  have hidle : ¬(i.aux 3 0 = 0 ∧ i.aux 4 4 = 0) := fun h => hsome.elim (fun hne => hne h.1) (fun hdig => by simp [h.2] at hdig)
  unfold bodyWatch
  dsimp only
  rw [if_neg (by simp [hon]), hfree]
  dsimp only
  rw [if_neg (by simpa [hop, hst, hopb, hstat] using hidle)]

theorem bodyReport_immediate (h : i.aux 1 0 = 0) : bodyReport s i r = doneI s i r { detail := i.b.opb, result := opA s i } := if_pos h

/-- The bytes that a REPORT to memory writes, by its KIND (R106). -/
def reportBytes (s : State) (i : Ins) : List Byte :=
  if i.aux 1 0 = 1 then leBytes 64 (entryWord s (hIdx (hdlA s i))) else if i.aux 1 0 = 2 then cntBlock s i.c else poolBlock s i.p

theorem bodyReport_begins (hkind : i.aux 1 0 ≠ 0) (hwin : inWindow s i.p (i.e 0 63 0) (reportBytes s i).length = true)
    (hop : i.aux 1 0 = 1 → operandOk s i.p (hdlA s i) true = true) (halign : i.e 0 63 0 % 64 = 0) (htier : tqaTier (i.e 0 63 0) = 1 ∨ tqaTier (i.e 0 63 0) = 3)
    (haway : t3Away s (i.e 0 63 0) = false) (hclass : classBarred s i.p 11 = false) :
    bodyReport s i r = reportBegin (go s i r) { r with detail := i.b.opb } (i.e 0 63 0) (reportBytes s i) := by
  unfold reportBytes at hwin ⊢
  unfold bodyReport
  dsimp only
  rw [if_neg hkind, if_neg (by simp [hwin]), if_neg (by simpa [halign, htier] using ⟨hop, htier.resolve_left⟩), if_neg (by simp [haway]), if_neg (by simp [hclass])]

theorem bodyLoop_enters (hend : i.aux 0 0 = 0) (hdepth : (s.ctx i.c).loops.length < 4) (hcount : opA s i % 2 ^ 32 ≠ 0) :
    bodyLoop s i r = (doneI s i r {}).modCtx i.c fun v => { v with loops := (opA s i % 2 ^ 32, i.pc + i.len) :: v.loops } := by
  unfold bodyLoop
  dsimp only
  rw [if_neg (by simp [hend]), if_neg (Nat.not_le.mpr hdepth), if_neg hcount]

/-- A LOOP with a count of 0 jumps over its body (R108). -/
theorem bodyLoop_skips (hend : i.aux 0 0 = 0) (hdepth : (s.ctx i.c).loops.length < 4) (hcount : opA s i % 2 ^ 32 = 0) : bodyLoop s i r = jumpTo s i r i.b.opb := by
  unfold bodyLoop
  dsimp only
  rw [if_neg (by simp [hend]), if_neg (Nat.not_le.mpr hdepth), if_pos hcount]

/-- LOOP with END leaves a loop in its last round, and goes back to the body before (R108). -/
theorem loopEnd_eq {n body : Nat} {l : List (Nat × Nat)} (hloops : (s.ctx i.c).loops = (n, body) :: l) (hopa : i.b.opa = 0) (hopb : i.b.opb = 0) (hareg : i.b.areg = 0) :
    loopEnd s i r = if n = 1 then (doneI s i r {}).modCtx i.c fun v => { v with loops := l }
      else (doneI s i r {}).modCtx i.c fun v => { v with loops := (n - 1, body) :: l, pc := body, ladlePos := 0 } := by
  unfold loopEnd
  rw [hloops]
  exact if_neg (by simp [hopa, hopb, hareg])

theorem bodyLoop_end (h : i.aux 0 0 = 1) : bodyLoop s i r = loopEnd s i r := if_pos h

end Programs

/-- Settles O10: each body passes its checks and takes the branch that its operands name. -/
theorem controlInstructionsTakeEffect : Obligations.ControlInstructionsTakeEffect := by
  refine ⟨⟨?epoch, ?budget, ?watch, ?report⟩, ?loop, ?loopEnd⟩
  case epoch =>
    intro c s i r b v next hissue
    exact ⟨fun hload => exec_of_body rfl hissue (bodyEpoch_goes _ hload), fun hload => exec_of_body rfl hissue (bodyEpoch_waits _ hload)⟩
  case budget =>
    intro c s i b k ceil w hissue hk
    exact exec_of_body rfl hissue (bodyBudget_writes _ hk)
  case watch =>
    intro c s i r b t h hissue
    exact ⟨fun hoff harmed hpart hopa hstat => exec_of_body rfl hissue (bodyWatch_disarms _ hoff harmed hpart hopa hstat),
      fun n hon hfree hop hst hopb hstat hsome => exec_of_body rfl hissue (bodyWatch_arms _ hon hfree hop hst hopb hstat hsome)⟩
  case report =>
    intro c s i r b a bs hissue
    exact ⟨fun hkind => exec_of_body rfl hissue (bodyReport_immediate _ hkind),
      fun hkind hwin hop halign htier haway hclass => exec_of_body rfl hissue (bodyReport_begins _ hkind hwin hop halign htier haway hclass)⟩
  case loop =>
    intro c s i r b n hissue hend hdepth
    exact ⟨fun hcount => exec_of_body rfl hissue (bodyLoop_enters _ hend hdepth hcount),
      fun hcount hin => exec_of_body rfl hissue ((bodyLoop_skips _ hend hdepth hcount).trans (jumpTo_inPlan _ hin))⟩
  case loopEnd =>
    intro c s n body l i r b hissue hend hloops hopa hopb hareg
    have hbody : bodyLoop b i r = _ := (bodyLoop_end r hend).trans (loopEnd_eq r hloops hopa hopb hareg)
    exact ⟨fun hlast => exec_of_body rfl hissue (hbody.trans (if_pos hlast)), fun hmore => exec_of_body rfl hissue (hbody.trans (if_neg hmore))⟩

end Sys2Proof.Machine

/-! Proofs for deadlines, budgets and the writes that configure the block (chapter 04 of the spec, with the writes that 06, 08, 09, 11, 12 and 13 give to the register window). -/

namespace Sys2Proof.Machine

/-! ## Budget entries (R124) -/

theorem bitsOf_lt (w hi lo : Nat) : bitsOf w hi lo < 2 ^ (hi + 1 - lo) := Nat.mod_lt _ (Nat.two_pow_pos _)

section Halves

variable {a : Nat} (b : Nat)

theorem bitsOf_lowHalf (ha : a < 2 ^ 32) : bitsOf (a + b * 2 ^ 32) 31 0 = a := by
  simp only [bitsOf, Nat.shiftRight_zero]
  omega

theorem bitsOf_highHalf (ha : a < 2 ^ 32) (hb : b < 2 ^ 32) : bitsOf (a + b * 2 ^ 32) 63 32 = b := by
  simp only [bitsOf, Nat.shiftRight_eq_div_pow]
  omega

end Halves

section Clip

variable (s : State) (p k v : Nat)

theorem clipBud_low : bitsOf (clipBud s p k v) 31 0 = min (bitsOf v 31 0) (bitsOf (reg s (0x92000 + 0x100 * p + 8 * k)) 31 0) :=
  bitsOf_lowHalf _ (min_lt_of_left_lt (bitsOf_lt v 31 0))

theorem clipBud_high : bitsOf (clipBud s p k v) 63 32 = min (bitsOf v 63 32) (bitsOf (reg s (0x92000 + 0x100 * p + 8 * k)) 63 32) :=
  bitsOf_highHalf _ (min_lt_of_left_lt (bitsOf_lt v 31 0)) (min_lt_of_left_lt (bitsOf_lt v 63 32))

end Clip

/-- Settles O51: each half of the stored entry is the lesser of what was written and of its ceiling. -/
theorem budgetEntriesStayUnderTheirCeilings : Obligations.BudgetEntriesStayUnderTheirCeilings := by
  intro s p k v
  dsimp only
  rw [clipBud_low, clipBud_high]
  exact ⟨min_le_right _ _, min_le_right _ _, min_eq_left, min_eq_left⟩

/-! ## Starts and ends of transfers (R115, R118, R127, R190) -/

section Transfers

variable {s t : State} {i : Nat} {o : Op}

theorem arises_some {u : Option State} (h : u = some t) : arises s u = .next (settle t) := by rw [h]; rfl

theorem waitingMove_eq_some {x tier : Nat} {f : Form} (hop : s.op i = some o) (hkind : o.kind = .move x tier f false) (hwaits : awaitsStart s o = true) :
    waitingMove s i = some (o, x, tier, f) := by
  simp [waitingMove, hop, hkind, hwaits]

theorem runningOp_eq_some (hop : s.op i = some o) (hphase : o.phase = .running) : runningOp s i = some o := by
  simp [runningOp, hop, hphase]

theorem exec_moveDone (hop : s.op i = some o) (hphase : o.phase = .running) (hdone : completion s o = some t) : exec (.moveDone i) s = .next (settle t) :=
  arises_some (by rw [runningOp_eq_some hop hphase]; exact hdone)

theorem whenSo_of_true {can : Bool} (h : can = true) : whenSo can s = some s := if_pos h

end Transfers

/-- Settles O16: a move that waits for its start is found by its number, and an operation that runs ends with the completion of its kind. -/
theorem transfersTakeEffect : Obligations.TransfersTakeEffect := by
  refine ⟨⟨?slot, ?early, ?latest⟩, ?done, ?kinds⟩
  case slot =>
    intro g rdy s
    exact happens_of_true true s _ rfl
  case early =>
    intro i s o x tier f hop hkind hwaits hearly hres
    refine arises_some ?_
    rw [waitingMove_eq_some hop hkind hwaits]
    exact if_pos ⟨hearly, hres⟩
  case latest =>
    intro i s o x tier f hop hkind hwaits hopen hcome
    refine arises_some ?_
    rw [waitingMove_eq_some hop hkind hwaits]
    exact if_pos ⟨by simp [hopen], hcome⟩
  case done =>
    intro i s t o hop hphase hdone
    exact exec_moveDone hop hphase hdone
  case kinds =>
    intro i s o hop hphase hx
    have ends {t : State} (hdone : completion s o = whenSo (xferDone s o) t) : exec (.moveDone i) s = .next (settle t) :=
      exec_moveDone hop hphase (hdone.trans (whenSo_of_true hx))
    exact ⟨fun _ _ _ _ hkind => ends (by simp only [completion, hkind]),
      fun _ _ _ _ hkind => ends (by simp only [completion, hkind]),
      fun _ _ _ _ hkind => ends (by simp only [completion, hkind]),
      fun _ _ _ _ _ hkind => ends (by simp only [completion, hkind]),
      fun _ _ hkind => ends (by simp only [completion, hkind]),
      fun _ _ hkind => ends (by simp only [completion, hkind]),
      fun _ _ _ _ hkind hready => exec_moveDone hop hphase (by simp only [completion, hkind, whenSo_of_true hready])⟩

/-! ## The register at a place of the window (R349)

`locate` takes the first definition of the region's table in which the offset falls: a register is found where every definition before its own ends before its own begins. -/

/-- The offset of register j of run i. -/
def RegDef.regOff (d : RegDef) (i j : Nat) : Nat := d.base + i * d.s1 + j * d.s2

/-- The first offset behind the last register of a definition. -/
def RegDef.stop (d : RegDef) : Nat := d.regOff (d.n1 - 1) (d.n2 - 1) + d.width / 8

/-- The registers of a definition lie apart: a run ends before the next one begins. -/
def RegDef.spaced (d : RegDef) : Bool := 0 < d.s1 && 0 < d.s2 && 8 ≤ d.width && (d.n1 = 1 || (d.n2 - 1) * d.s2 < d.s1)

section Hit

variable (d : RegDef) {i j off : Nat}

theorem hit_of_stop_le (h : d.stop ≤ off) : d.hit off = none := by
  have hj (r : Nat) : min (r / d.s2) (d.n2 - 1) * (if d.n2 = 1 then 0 else d.s2) ≤ (d.n2 - 1) * d.s2 :=
    Nat.mul_le_mul (min_le_right _ _) (by split <;> omega)
  have hi : min ((off - d.base) / d.s1) (d.n1 - 1) * (if d.n1 = 1 then 0 else d.s1) ≤ (d.n1 - 1) * d.s1 :=
    Nat.mul_le_mul (min_le_right _ _) (by split <;> omega)
  unfold RegDef.stop RegDef.regOff at h
  unfold RegDef.hit
  rw [if_neg (by omega)]
  refine if_neg ?_
  have hrun := hj (off - d.base - min ((off - d.base) / d.s1) (d.n1 - 1) * (if d.n1 = 1 then 0 else d.s1))
  omega

/-- Dividing by the stride finds the index, or there is one index only. -/
theorem index_eq {n stride rest : Nat} (hi : i < n) (hpos : 0 < stride) (hrest : n = 1 ∨ rest < stride) : min ((i * stride + rest) / stride) (n - 1) = i := by
  rcases hrest with rfl | hrest
  · obtain rfl := Nat.lt_one_iff.mp hi
    exact Nat.min_zero _
  · rw [Nat.mul_comm, Nat.mul_add_div hpos, Nat.div_eq_of_lt hrest]
    omega

theorem strided_eq {n stride : Nat} (hi : i < n) : i * (if n = 1 then 0 else stride) = i * stride := by
  split
  · simp [show i = 0 by omega]
  · rfl

theorem hit_at (hspaced : d.spaced = true) (hi : i < d.n1) (hj : j < d.n2) : d.hit (d.regOff i j) = some (i, j, d.regOff i j) := by
  simp only [RegDef.spaced, Bool.and_eq_true, Bool.or_eq_true, decide_eq_true_eq] at hspaced
  obtain ⟨⟨⟨hs1, hs2⟩, hwidth⟩, hruns⟩ := hspaced
  have hrun : d.n1 = 1 ∨ j * d.s2 < d.s1 := hruns.imp_right fun h => lt_of_le_of_lt (Nat.mul_le_mul_right _ (by omega)) h
  have hoff : d.regOff i j - d.base = i * d.s1 + j * d.s2 := by unfold RegDef.regOff; omega
  have hcol : min (j * d.s2 / d.s2) (d.n2 - 1) = j := index_eq (rest := 0) hj hs2 (.inr hs2)
  unfold RegDef.hit
  rw [if_neg (by unfold RegDef.regOff; omega)]
  simp only [hoff, index_eq hi hs1 hrun, strided_eq hi, Nat.add_sub_cancel_left, hcol, strided_eq hj, Nat.sub_self, Nat.sub_zero]
  exact if_pos (by omega)

end Hit

theorem findReg_cons_of_stop_le {d : RegDef} {off : Nat} (defs : List RegDef) (h : d.stop ≤ off) : findReg (d :: defs) off = findReg defs off := by
  rw [findReg, hit_of_stop_le d h]

/-- The registers of a definition lie where it says, when the definitions before it end before it begins. -/
theorem findReg_at (before after : List RegDef) (d : RegDef) {i j : Nat} (hbefore : ∀ e ∈ before, e.stop ≤ d.base) (hspaced : d.spaced = true)
    (hi : i < d.n1) (hj : j < d.n2) : findReg (before ++ d :: after) (d.regOff i j) = some ⟨d, i, j, d.regOff i j⟩ := by
  induction before with
  | nil => rw [List.nil_append, findReg, hit_at d hspaced hi hj]
  | cons e before ih =>
    rw [List.forall_mem_cons] at hbefore
    rw [List.cons_append, findReg_cons_of_stop_le _ (hbefore.1.trans (by unfold RegDef.regOff; omega)), ih hbefore.2]

/-- The table of the region in which an offset lies (R349). -/
def regTable (off : Nat) : List RegDef := if off < 0x80000 then hwDefs else if off < 0x9E000 then poolDefs else if off < 0xC0000 then movDefs else fwDefs

theorem regTable_pool {off : Nat} (h : 0x80000 ≤ off) (h' : off < 0x9E000) : regTable off = poolDefs := by
  rw [regTable, if_neg (by omega), if_pos h']

theorem regTable_mov {off : Nat} (h : 0x9E000 ≤ off) (h' : off < 0xC0000) : regTable off = movDefs := by
  rw [regTable, if_neg (by omega), if_neg (by omega), if_pos h']

theorem regTable_fw {off : Nat} (h : 0xC0000 ≤ off) : regTable off = fwDefs := by
  rw [regTable, if_neg (by omega), if_neg (by omega), if_neg (by omega)]

/-- A definition stands at a place of its table, with nothing before it that reaches into its registers. -/
def RegDef.standsAt (d : RegDef) (defs : List RegDef) (n : Nat) : Bool := defs[n]? = some d && (defs.take n).all (fun e => e.stop ≤ d.base) && d.spaced

theorem locate_at {off : Nat} {defs : List RegDef} (d : RegDef) (n i j : Nat) (htable : regTable off = defs) (hstands : d.standsAt defs n = true)
    (hi : i < d.n1) (hj : j < d.n2) (hoff : off = d.regOff i j) : locate off = some ⟨d, i, j, off⟩ := by
  simp only [RegDef.standsAt, Bool.and_eq_true, decide_eq_true_eq, List.all_eq_true] at hstands
  obtain ⟨⟨hget, hbefore⟩, hspaced⟩ := hstands
  obtain ⟨hn, hd⟩ := List.getElem?_eq_some_iff.mp hget
  have hsplit : defs = defs.take n ++ d :: defs.drop (n + 1) := by rw [← hd, List.getElem_cons_drop, List.take_append_drop]
  change findReg (regTable off) off = _
  rw [htable, hsplit, hoff, findReg_at _ _ d hbefore hspaced hi hj]

section Places

variable (p : BitVec 4)

theorem locate_budCtl : locate (0x94000 + 8 * p.toNat) = some ⟨⟨.budCtl, 0x94000, 64, [0xF], [4], 16, 8, 1, 1⟩, p.toNat, 0, 0x94000 + 8 * p.toNat⟩ :=
  locate_at _ 16 _ _ (regTable_pool (by omega) (by omega)) (by decide) p.isLt Nat.one_pos (by simp only [RegDef.regOff]; omega)

theorem locate_budTable (b : BitVec 1) {k : Nat} (hk : k < 12) :
    let off := 0x90000 + 0x200 * p.toNat + 0x100 * b.toNat + 8 * k
    locate off = some ⟨⟨.budTable, 0x90000, 64, [F64], [0], 32, 0x100, 12, 8⟩, 2 * p.toNat + b.toNat, k, off⟩ :=
  locate_at _ 13 _ _ (regTable_pool (by omega) (by omega)) (by decide) (by dsimp only; omega) hk (by simp only [RegDef.regOff]; omega)

theorem locate_wfgStatus :
    locate (0xB9500 + 8 * p.toNat) = some ⟨⟨.wfgStatus, 0xB9500, 64, [0xFFFFFFFF00000003], [1], 16, 8, 1, 1⟩, p.toNat, 0, 0xB9500 + 8 * p.toNat⟩ :=
  locate_at _ 29 _ _ (regTable_mov (by omega) (by omega)) (by decide) p.isLt Nat.one_pos (by simp only [RegDef.regOff]; omega)

theorem locate_fwNeg :
    locate (0xE0100 + 8 * p.toNat) = some ⟨⟨.fwNeg, 0xE0100, 64, [0x1FFFFFFFFFFFF], [0x1000000000000], 16, 8, 1, 1⟩, p.toNat, 0, 0xE0100 + 8 * p.toNat⟩ :=
  locate_at _ 5 _ _ (regTable_fw (by omega)) (by decide) p.isLt Nat.one_pos (by simp only [RegDef.regOff]; omega)

theorem locate_calUser : locate (0xE0440 + 4 * p.toNat) = some ⟨⟨.calUser, 0xE0440, 32, [0xFFFF], [0], 16, 4, 1, 1⟩, p.toNat, 0, 0xE0440 + 4 * p.toNat⟩ :=
  locate_at _ 12 _ _ (regTable_fw (by omega)) (by decide) p.isLt Nat.one_pos (by simp only [RegDef.regOff]; omega)

theorem locate_unitMask (w : BitVec 1) :
    locate (0xF0720 + 8 * w.toNat) =
      some ⟨⟨.unitMask, 0xF0720, 64, [0x1FFFFFF0FFFFFFF, F64], [0x1FFFFFF0FFFFFFF, F64], 1, 1, 2, 8⟩, 0, w.toNat, 0xF0720 + 8 * w.toNat⟩ :=
  locate_at _ 23 _ _ (regTable_fw (by omega)) (by decide) Nat.one_pos w.isLt (by simp only [RegDef.regOff]; omega)

end Places

theorem locate_hsetCfg : locate 0x9A288 = some ⟨⟨.hsetCfg, 0x9A288, 64, [0x1FFF1], [0x10000], 1, 1, 1, 1⟩, 0, 0, 0x9A288⟩ := rfl
theorem locate_shareSel : locate 0x9A300 = some ⟨⟨.shareSel, 0x9A300, 32, [0x7FF], [0], 1, 1, 1, 1⟩, 0, 0, 0x9A300⟩ := rfl
theorem locate_tgrpCfg : locate 0xB0008 = some ⟨⟨.tgrpCfg, 0xB0008, 64, [0xFFFFFFFF00FFFF07, 0xFFFF, 0xFFFFFFFFFFFF, F64], [0], 1, 1, 4, 8⟩, 0, 0, 0xB0008⟩ := rfl
theorem locate_barCfg : locate 0xB3008 = some ⟨⟨.barCfg, 0xB3008, 64, [0x3FFFF1], [0], 1, 1, 1, 1⟩, 0, 0, 0xB3008⟩ := rfl
theorem locate_cntSnap : locate 0x70200 = some ⟨⟨.cntSnap, 0x70200, 32, [0xFF], [0xFF], 1, 1, 1, 1⟩, 0, 0, 0x70200⟩ := rfl
theorem locate_gcntSnap : locate 0x70208 = some ⟨⟨.gcntSnap, 0x70208, 32, [1], [1], 1, 1, 1, 1⟩, 0, 0, 0x70208⟩ := rfl
theorem locate_watchSel : locate 0x70900 = some ⟨⟨.watchSel, 0x70900, 32, [0x1FF], [0], 1, 1, 1, 1⟩, 0, 0, 0x70900⟩ := rfl

/-! ## A write that takes effect now -/

theorem and_or_absorb (v m : Nat) : v &&& (v ||| m) = v :=
  Nat.eq_of_testBit_eq fun n => by simpa using Or.inl

section Taken

variable {s : State} {d : RegDef} {i j off v : Nat} {r : RdRes}

/-- A write of a whole register without a 1 in a reserved bit gives the register the value written. -/
theorem applyWrite_whole (hloc : locate off = some ⟨d, i, j, off⟩) (hv : v < 2 ^ d.width) (hrsv : rsvBits off d.width v = false) :
    applyWrite s off d.width v r = if off < 0x80000 then putHw s ⟨d, i, j, off⟩ v else stampVer (putEmu s ⟨d, i, j, off⟩ v r) := by
  have hor : v ||| (⟨d, i, j, off⟩ : Place).mask = (⟨d, i, j, off⟩ : Place).mask := by
    simpa [rsvBits, hloc, Nat.mod_eq_of_lt hv] using hrsv
  have hkeep : merged s ⟨d, i, j, off⟩ off d.width v &&& (⟨d, i, j, off⟩ : Place).mask = v := by
    rw [merged, if_pos rfl, Nat.mod_eq_of_lt hv, ← hor, and_or_absorb]
  unfold applyWrite
  rw [hloc]
  dsimp only
  rw [hkeep]
  rfl

theorem hostWrite_emu (hloc : locate off = some ⟨d, i, j, off⟩) (hok : writeOk s off d.width v = true) (hv : v < 2 ^ d.width) (hemu : 0x80000 ≤ off) :
    hostWrite s off d.width v r = stampVer (putEmu s ⟨d, i, j, off⟩ v r) := by
  obtain ⟨-, -, hrsv, -⟩ := (writeOk_iff s off d.width v).mp hok
  rw [hostWrite_of_writeOk s off d.width v r hok, applyWrite_whole hloc hv hrsv, if_neg (Nat.not_lt.mpr hemu)]

/-- A command that is a write of a register of the emulated region answers what its chapter makes of the value. -/
theorem wrote_emu {width : Nat} {t : State} (hloc : locate off = some ⟨d, i, j, off⟩) (hwidth : d.width = width) (hok : writeOk s off width v = true)
    (hv : v < 2 ^ width) (hemu : 0x80000 ≤ off) (hput : putEmu s ⟨d, i, j, off⟩ v .ok = t) : wrote s off width v = .next (settle (stampVer t)) := by
  subst hwidth hput
  rw [wrote, happens_of_true true s _ rfl, hostWrite_emu hloc hok hv hemu]

/-- A command that is a write of a register of the hardware region answers what `putHw` makes of the value. -/
theorem wrote_hw {width : Nat} {t : State} (hloc : locate off = some ⟨d, i, j, off⟩) (hwidth : d.width = width) (hok : writeOk s off width v = true)
    (hv : v < 2 ^ width) (hhw : off < 0x80000) (hput : putHw s ⟨d, i, j, off⟩ v = t) : wrote s off width v = .next (settle t) := by
  subst hwidth hput
  obtain ⟨-, -, hrsv, -⟩ := (writeOk_iff s off d.width v).mp hok
  rw [wrote, happens_of_true true s _ rfl, hostWrite_of_writeOk s off d.width v .ok hok, applyWrite_whole hloc hv hrsv, if_pos hhw]

end Taken

/-! ## The commands of configuration (R124, R130, R131, R178, R180, R211, R243, R304, R308, R328, R332, R347, R352)

What each command does where its write takes effect now. CLEAR has one more hypothesis than the others, and O38 fails for want of it. -/

section Commands

variable {s : State} {p : BitVec 4}

/-- FORCE asks for a switch of the banks and leaves SLACK_EN as it stands (R131). -/
theorem exec_force (hok : writeOk s (0x94000 + 8 * p.toNat) 64 (4 + 8 * b2n (s.part p.toNat).slackEn) = true) :
    exec (.force p) s = .next (settle (stampVer (s.modPart p.toNat fun v => { v with budForce := true }))) := by
  refine wrote_emu (locate_budCtl p) rfl hok ?_ (by omega) ?_
  · cases (s.part p.toNat).slackEn <;> decide
  · have hforce : bitOf (4 + 8 * b2n (s.part p.toNat).slackEn) 2 = true := by cases (s.part p.toNat).slackEn <;> rfl
    have hslack : bitOf (4 + 8 * b2n (s.part p.toNat).slackEn) 3 = (s.part p.toNat).slackEn := by cases (s.part p.toNat).slackEn <;> rfl
    simp only [putEmu, State.modPart, hforce, hslack, Bool.or_true]

/-- A budget entry of the bank that is not active is stored clipped, and DIRTY is set (R124, R130). -/
theorem exec_budgetTableWrite {b : BitVec 1} {k : BitVec 4} {v : W64} :
    let off := 0x90000 + 0x200 * p.toNat + 0x100 * b.toNat + 8 * k.toNat
    writeOk s off 64 v.toNat = true → k.toNat < 12 → (s.part p.toNat).budActive ≠ b.toNat →
    exec (.budgetTableWrite p b k v) s =
      .next (settle (stampVer ((setReg s off (clipBud s p.toNat k.toNat v.toNat)).modPart p.toNat fun q => { q with budDirty := true }))) := by
  intro off hok hk hidle
  have hpart : (2 * p.toNat + b.toNat) / 2 = p.toNat := by omega
  have hbank : (2 * p.toNat + b.toNat) % 2 = b.toNat := by omega
  refine wrote_emu (locate_budTable p b hk) rfl hok v.isLt (by omega) ?_
  simp only [putEmu, bankPut, hpart, hbank]
  exact if_neg (Ne.symm hidle)

/-- CLEAR empties a set whose configuration is a word of the register (R180). -/
theorem exec_hsetClear (hword : (s.hset (reg s 0x9A280)).cfg < 2 ^ 64) :
    let h := reg s 0x9A280
    let m := s.hset h
    writeOk s 0x9A288 64 (m.cfg ||| 65536) = true → 0 < h → (bitOf m.cfg 0 = false ∨ bitsOf m.cfg 11 8 = 2 ∨ bitsOf m.cfg 11 8 = 3) → hsetBusy s h = false →
    exec .hsetClear s = .next (settle (stampVer (s.setHset h (clearHset { m with cfg := wipe1 (m.cfg ||| 65536) 65536 })))) := by
  intro h m hok hpos hmode hidle
  have hvalid : bitOf (m.cfg ||| 65536) 0 = bitOf m.cfg 0 := by simp [bitOf]
  have hclear : bitOf (m.cfg ||| 65536) 16 = true := by simp [bitOf, show Nat.testBit 65536 16 = true by decide]
  have hfmt : bitsOf (m.cfg ||| 65536) 11 8 = bitsOf m.cfg 11 8 := by simp [bitsOf, Nat.shiftRight_or_distrib, Nat.or_mod_two_pow (n := 4)]
  have htaken : ¬(h = 0 ∨ (bitOf m.cfg 0 = true ∧ bitsOf m.cfg 11 8 ≠ 2 ∧ bitsOf m.cfg 11 8 ≠ 3)) := by
    rintro (h0 | ⟨hon, h2, h3⟩)
    · exact hpos.ne' h0
    · simp [hon, h2, h3] at hmode
  have hexec : exec .hsetClear s = wrote s 0x9A288 64 (m.cfg ||| 65536) :=
    congrArg (fun w => wrote s 0x9A288 64 (w ||| 65536)) (if_neg hpos.ne')
  rw [hexec]
  refine wrote_emu locate_hsetCfg rfl hok (Nat.or_lt_two_pow hword (by decide)) (by decide) ?_
  simp only [putEmu, hsetPut, hvalid, hfmt]
  rw [if_neg htaken, if_pos ⟨hclear, by simpa using hidle⟩]

/-- A group without an error becomes valid (R211). -/
theorem exec_tgrpValidate {v : W64} {r : RdRes} :
    let g := reg s 0xB0000
    let t := s.tgrp g
    let w := v.toNat ||| 1
    let body := w - bitsOf w 23 20 * 2 ^ 20
    writeOk s 0xB0008 64 w = true → t.valid = false → grpErr s { t with w0 := body } (r ≠ .ok) = 0 →
    exec (.tgrpValidate v r) s = .next (settle (stampVer (s.setTgrp g { w0 := body, w1 := t.w1, w2 := t.w2, w3 := t.w3 }))) := by
  intro g t w body hok hinvalid herr
  have hset : bitOf w 0 = true := by simp [w, bitOf]
  refine (happens_of_true true s _ rfl).trans ?_
  rw [hostWrite_emu locate_tgrpCfg hok (Nat.or_lt_two_pow v.isLt (by decide)) (by decide)]
  simp only [putEmu, if_true, tgrpPut]
  rw [if_neg (by simpa using hinvalid), if_neg (by simp [hset]), herr]
  rfl

/-- A barrier group whose leaf, nodes and carriers are right becomes VALID with GEN 0, its nodes anew (R243). -/
theorem exec_barGroupValid {v : W64} :
    let g := reg s 0xB3000
    let w := v.toNat ||| 1
    let leaf := bitsOf w 21 16
    writeOk s 0xB3008 64 w = true → nodeValid s leaf = true → nodeLeaf s leaf = true → nodeGrp s leaf = g → carriersOk s (bitsOf w 7 4) g = true →
    exec (.barGroupValid v) s = .next (settle (stampVer (((nodesOf s g).foldl (fun s n => s.setNode n {}) s).setBar g { s.bar g with cfg := w, gen := 0 }))) := by
  intro g w leaf hok hvalid hleaf hgrp hcarriers
  have hset : bitOf w 0 = true := by simp [w, bitOf]
  refine wrote_emu locate_barCfg rfl hok (Nat.or_lt_two_pow v.isLt (by decide)) (by decide) ?_
  simp only [putEmu, barPut]
  rw [if_pos hset, if_pos ⟨hvalid, hleaf, hgrp, hcarriers⟩]

theorem exec_cntSnap {v : W32} (hok : writeOk s 0x70200 32 v.toNat = true) : exec (.cntSnap v) s = .next (settle { s with cntWin := tget s.cnts v.toNat [] }) :=
  wrote_hw locate_cntSnap rfl hok v.isLt (by decide) rfl

/-- The register has one bit, so a write of 1 needs nothing but READY. -/
theorem exec_gcntSnap (hready : s.ready = true) : exec (.gcntSnap 1) s = .next (settle { s with gcntWin := s.gcnt }) :=
  have hok : writeOk s 0x70208 32 1 = true := (writeOk_iff s 0x70208 32 1).mpr ⟨hready, by decide, by decide, by omega⟩
  wrote_hw locate_gcntSnap rfl hok (by decide) (by decide) rfl

theorem exec_watchSel {v : W32} (hok : writeOk s 0x70900 32 v.toNat = true) :
    exec (.watchSel v) s = .next (settle { setReg s 0x70900 v.toNat with tapWin := s.tapOf v.toNat }) :=
  wrote_hw locate_watchSel rfl hok v.isLt (by decide) rfl

theorem exec_shareSel {v : W32} (hok : writeOk s 0x9A300 32 v.toNat = true) :
    exec (.shareSel v) s = .next (settle (stampVer { setReg s 0x9A300 v.toNat with shareSnap := (s.shares.find? fun e => e.1 = v.toNat).map fun e => e.2 })) :=
  wrote_emu locate_shareSel rfl hok v.isLt (by decide) rfl

theorem exec_wfgBusyClear (hok : writeOk s (0xB9500 + 8 * p.toNat) 64 1 = true) : exec (.wfgBusyClear p) s = .next (settle (stampVer (wfgClear s p.toNat))) :=
  wrote_emu (locate_wfgStatus p) rfl hok (by decide) (by omega) rfl

theorem exec_unitMask {w : BitVec 1} {v : W64} :
    let off := 0xF0720 + 8 * w.toNat
    writeOk s off 64 v.toNat = true → exec (.unitMask w v) s = .next (settle (stampVer (maskUnits (setReg s off (reg s off ||| v.toNat)) w.toNat v.toNat))) :=
  fun hok => wrote_emu (locate_unitMask w) rfl hok v.isLt (by omega) rfl

theorem exec_fwNegGo {v : W64} :
    let w := v.toNat ||| 2 ^ 48
    writeOk s (0xE0100 + 8 * p.toNat) 64 w = true → exec (.fwNegGo p v) s = .next (settle (stampVer (negotiate s p.toNat w))) :=
  fun hok => wrote_emu (locate_fwNeg p) rfl hok (Nat.or_lt_two_pow v.isLt (by decide)) (by omega) rfl

theorem exec_calUserWrite {v : BitVec 16} (hok : writeOk s (0xE0440 + 4 * p.toNat) 32 v.toNat = true) :
    exec (.calUserWrite p v) s = .next (settle (stampVer (calPut s p.toNat (0xE0440 + 4 * p.toNat) v.toNat))) :=
  wrote_emu (locate_calUser p) rfl hok (v.isLt.trans (by decide)) (by omega) rfl

end Commands

/-- A block that runs, with history set 1 selected and a configuration of the set that is wider than the 64 bits of its register. -/
def wideHistory : State :=
  { State.reset with
    ready := true, cfg := [(0x9A280, 1)], hsets := [(1, { cfg := 2 ^ 64 })],
    fw := { State.reset.fw with accepted := true, cores := [(2, { up := true })] } }

/-- The configuration of history set 1 in the next state. -/
def historyCfg : Out → Nat
  | .next t => (t.hset 1).cfg
  | _ => 0

theorem hsetClear_wideHistory : historyCfg (exec .hsetClear wideHistory) = 0 := by decide

/-- Refutes O38: `HSet.cfg` is a number without a bound, the write of CLEAR takes its low 64 bits, and the statement keeps the bits above them. A configuration of 2 ^ 64 becomes 0,
where the statement has it stay. With the set's configuration below 2 ^ 64 its clause holds (`exec_hsetClear`), and every other clause holds as it stands. -/
theorem not_configurationWritesTakeEffect : ¬ Obligations.ConfigurationWritesTakeEffect := by
  intro hall
  obtain ⟨⟨-, -, hclear⟩, -⟩ := hall
  have hnext := congrArg historyCfg (hclear wideHistory (by decide) (by decide) (.inl (by decide)) (by decide))
  rw [hsetClear_wideHistory] at hnext
  exact absurd hnext (by decide)

end Sys2Proof.Machine

/-! Proofs for the Coppice unit: the commands of recipes and what the clusters answer (chapter 05 of the spec). -/

namespace Sys2Proof.Machine

/-! ## Recipes (R141, R143, R145, R148) -/

section Recipes

variable {s t : State} {i : Nat} {o : Op} {r : Recipe}

theorem recipeOf_eq_some (hop : s.op i = some o) (hkind : o.kind = .recipe r) : recipeOf s i = some (o, r) := by
  simp [recipeOf, Op.recipe?, hop, hkind]

/-- An event of a recipe has the effect that its operation and its state give it. -/
theorem arises_recipe {effect : Op × Recipe → Option State} (hop : s.op i = some o) (hkind : o.kind = .recipe r) (heffect : effect (o, r) = some t) :
    arises s ((recipeOf s i).bind effect) = .next (settle t) :=
  arises_some (by rw [recipeOf_eq_some hop hkind]; exact heffect)

theorem inputsOverdue_of_waited {since : Nat} (hundispatched : r.dispatched = false) (hgood : r.failed = 0) (hrun : frozen s = false)
    (hwaited : r.waitedInput = some since) (hlate : ctxWdog s (o.acct.getD (partyNum o.req.who)) < s.now - since) : inputsOverdue s o r = true := by
  simp only [inputsOverdue, hwaited]
  simp [hundispatched, hgood, hrun, hlate]

/-- Nothing keeps step k of the recipe from the command port: it is the next one, its cluster's port is LIVE, and no input is left to decode (R145). -/
def stepDue (s : State) (r : Recipe) (k : Nat) : Prop :=
  r.dispatched = true ∧ r.failed = 0 ∧ k = nextStep r ∧ k < r.body.steps.length ∧ r.temps = [] ∧ copUp s (stepAt r k).cl = true

theorem stepDue.not_held {k : Nat} (hdue : stepDue s r k) :
    (!r.dispatched || r.failed ≠ 0 || k ≠ nextStep r || r.body.steps.length ≤ k || r.temps ≠ [] || !copUp s (stepAt r k).cl) = false := by
  obtain ⟨hdispatched, hgood, hnext, hlen, htemps, hup⟩ := hdue
  simp [hdispatched, hgood, ← hnext, hlen, htemps, hup]

/-- The RNG_SET that a due step needs goes out before it, once the replay base of its cluster is free and no recipe ahead wants it (R141). -/
theorem launchStep_needsRng {k tag : Nat} (hdue : stepDue s r k) (htag : cqTagFree s (stepAt r k).cl = some tag) (hrng : needsRng s r k = true)
    (hfree : tget s.baseHeld (stepAt r k).cl 0 = 0) (hunwanted : baseWanted s o (stepAt r k).cl = false) :
    launchStep s o r k = some (sendRngSet s o r (stepAt r k).cl tag) := by
  unfold launchStep
  dsimp only
  rw [hdue.not_held, htag, hrng, hfree, hunwanted]
  rfl

/-- The LAUNCH of step k is sent, and the recipe notes it (R145 step 3). -/
def stepLaunched (s : State) (o : Op) (r : Recipe) (k tag : Nat) : State :=
  let u := sendCq s (stepAt r k).cl tag (.launch o.id k) (launchWords s r k tag)
  setRecipe u o (progSet { r with firstLaunch := if k = 0 then u.now else r.firstLaunch } k { RProg.at r.prog k with launched := true })

/-- A due step that is ready is launched where it draws no charge or has drawn its first unit (R145 step 3). -/
theorem launchStep_ready {k tag : Nat} (hdue : stepDue s r k) (htag : cqTagFree s (stepAt r k).cl = some tag) (hrng : needsRng s r k = false)
    (hready : stepReady s r k = true) (hdrawn : (stepAt r k).outunits = 0 ∨ 0 < (RProg.at r.prog k).drawn) :
    launchStep s o r k = some (stepLaunched s o r k tag) := by
  have hgo : (stepReady s r k && ((stepAt r k).outunits = 0 || 0 < (RProg.at r.prog k).drawn)) = true := by simpa [hready] using hdrawn
  unfold launchStep
  dsimp only
  rw [hdue.not_held, htag, hrng, hgo]
  rfl

/-- The read of the output ended as it should: without a step in error, and with the digest right where one is checked (R148). -/
theorem recipeRead_ok (hsrc : o.x.srcBad = false) (hbad : o.x.bad = 0) (hunchecked : r.declared = true ∨ checksDigest s r.obj = false) :
    recipeRead s o r .ok = recipeEnd s o r := by
  rcases hunchecked with h | h <;> simp [recipeRead, hsrc, hbad, h]

theorem recipeRead_checkFail (hsrc : o.x.srcBad = false) (hbad : o.x.bad = 0) : recipeRead s o r .checkFail = failRecipe s o r 0x12 false := by
  simp [recipeRead, hsrc, hbad]

theorem recipeRead_portFault (hsrc : o.x.srcBad = false) (hbad : o.x.bad = 0) : recipeRead s o r .portFault = failRecipe s o r 0x30 false := by
  simp [recipeRead, hsrc, hbad]

/-- RECIPE_DONE frees the tags of the read before it takes the outcome (R148). -/
theorem exec_recipeDone {res : RdRes} (hop : s.op i = some o) (hkind : o.kind = .recipe r) (hreading : r.reading = true) (hgood : r.failed = 0)
    (hsides : sidesDone o.x = true) (htags : (s.tags.all fun t => t.op ≠ i || t.orphan || t.rb) = true) :
    exec (.recipeDone i res) s = .next (settle (recipeRead { s with tags := s.tags.filter fun t => t.op ≠ i || t.orphan } o r res)) :=
  arises_recipe hop hkind (whenSo_of_true (by simp only [hreading, hgood, hsides, htags]; rfl))

end Recipes

/-! ## The command ports of the clusters (R146, R147, R264) -/

section Ports

variable {s : State} {c tag : Nat}

/-- No tag of a command port lies beyond 31, and one that is not in the table is not outstanding. -/
theorem cqFind_eq_none (h : 32 ≤ tag ∨ (s.cqTags.find? fun e => e.1 = 32 * c + tag) = none) : cqFind s c tag = none := by
  rcases h with hbeyond | hnone
  · exact if_neg (Nat.not_lt.mpr hbeyond)
  · rw [cqFind, hnone, ite_self]

/-- A DONE that answers no request counts its bytes and the error, and does nothing else (R146). -/
theorem copDone_of_cqFind_eq_none (status : Nat) (h : cqFind s c tag = none) : copDone s c tag status = copProtoErr (s.gadd (0x170 + 0x10 * c) 16) := by
  have hnone : cqFind (s.gadd (0x170 + 0x10 * c) 16) c tag = none := h
  unfold copDone
  dsimp only
  rw [hnone]

theorem stepOverdue_of_find {e : Nat × CqTag × Nat} (hup : copUp s c = true) (hrun : frozen s = false)
    (hfind : (s.cqTags.find? fun e => e.1 = 32 * c + tag) = some e) (hlate : e.2.2 + stepTmo s ≤ s.now) : stepOverdue s c tag = true := by
  simp [stepOverdue, hup, hrun, hfind, hlate]

end Ports

/-- Settles O17: a recipe is found by its operation's number, a step that is due is launched or sends its RNG_SET, and a LIVE command port is listened to. -/
theorem recipesTakeEffect : Obligations.RecipesTakeEffect := by
  refine ⟨⟨?dispatch, ?launch, ?rngSet, ?done, ?inputs⟩, ?answer, ?unasked, ?ack, ?data, ?timeout⟩
  case dispatch =>
    intro i s o r hop hkind hphase hgood hroom hfirst
    exact arises_recipe hop hkind (whenSo_of_true (by simp [hphase, hgood, hroom, hfirst]))
  case launch =>
    intro i k s o r t
    dsimp only
    intro hop hkind hdispatched hgood hnext hlen htemps hup htag hrng hready hdrawn
    exact arises_recipe hop hkind (launchStep_ready ⟨hdispatched, hgood, hnext, hlen, htemps, hup⟩ htag hrng hready hdrawn)
  case rngSet =>
    intro i k s o r t
    dsimp only
    intro hop hkind hdispatched hgood hnext hlen htemps hup htag hrng hfree hunwanted
    exact arises_recipe hop hkind (launchStep_needsRng ⟨hdispatched, hgood, hnext, hlen, htemps, hup⟩ htag hrng hfree hunwanted)
  case done =>
    intro i s o r
    dsimp only
    intro hop hkind hreading hgood hsides htags hsrc hbad hunchecked
    have hdone (res : RdRes) := exec_recipeDone (res := res) hop hkind hreading hgood hsides htags
    rw [hdone, hdone, hdone, recipeRead_ok hsrc hbad hunchecked, recipeRead_checkFail hsrc hbad, recipeRead_portFault hsrc hbad]
    exact ⟨rfl, rfl, rfl⟩
  case inputs =>
    intro i s o r t hop hkind hundispatched hgood hrun hwaited hlate
    exact arises_recipe hop hkind (whenSo_of_true (inputsOverdue_of_waited hundispatched hgood hrun hwaited hlate))
  case answer =>
    intro cl tag st d s hup
    exact ⟨happens_of_true _ s _ hup, happens_of_true _ s _ hup⟩
  case unasked =>
    intro cl tag st d s hup hnone
    rw [← copDone_of_cqFind_eq_none st.toNat (cqFind_eq_none hnone)]
    exact happens_of_true _ s _ hup
  case ack =>
    intro cl tag s hup
    exact happens_of_true _ s _ hup
  case data =>
    intro cl tag found lost base s hup
    exact happens_of_true _ s _ hup
  case timeout =>
    intro cl tag s e htag hup hrun hfind hlate
    exact happens_of_true _ s _ (by simp [htag, stepOverdue_of_find hup hrun hfind hlate])

end Sys2Proof.Machine

/-! Proofs for the Sieve: its codes, blocks, frames and encoded objects (chapter 06 of the spec). -/

namespace Sys2Proof.Machine

/-! ## Little-endian numbers, headers and check values (R3, R156, R157) -/

@[simp] theorem length_leBytes (n v : Nat) : (leBytes n v).length = n := by
  induction n generalizing v with
  | zero => rfl
  | succ n ih => simp [leBytes, ih]

theorem leNat_leBytes (n v : Nat) : leNat (leBytes n v) = v % 256 ^ n := by
  induction n generalizing v with
  | zero => simp [leBytes, leNat, Nat.mod_one]
  | succ n ih => simp [leBytes, leNat, ih, Nat.pow_succ', Nat.mod_mul]

theorem leNat_take_leBytes {n v : Nat} (t : List Byte) (hv : v < 256 ^ n) : leNat ((leBytes n v ++ t).take n) = v := by
  rw [List.take_left' (length_leBytes n v), leNat_leBytes, Nat.mod_eq_of_lt hv]

theorem pack_nil : pack [] = 0 := rfl

theorem pack_cons (lo width v : Nat) (fs : List (Nat × Nat × Nat)) : pack ((lo, width, v) :: fs) = v % 2 ^ width * 2 ^ lo + pack fs := by
  simp only [pack, ← List.foldl_map (f := fun f : Nat × Nat × Nat => f.2.2 % 2 ^ f.2.1 * 2 ^ f.1) (g := (· + ·)), ← List.sum_eq_foldl, List.map_cons, List.sum_cons]

@[simp] theorem length_blockHeader (mode base len crc : Nat) : (blockHeader mode base len crc).length = 5 := length_leBytes _ _

/-- A header whose fields fit reads back as these fields, with the reserved bits zero (Table 6.2). -/
theorem blockHeader_fields {mode base len crc : Nat} (t : List Byte) (hmode : mode < 16) (hbase : base < 256) (hlen : len < 1024) (hcrc : crc < 65536) :
    let h := leNat ((blockHeader mode base len crc ++ t).take 5)
    bitsOf h 3 0 = mode ∧ bitsOf h 11 4 = base ∧ bitsOf h 21 12 = len ∧ bitsOf h 23 22 = 0 ∧ bitsOf h 39 24 = crc := by
  have hpack : pack [(0, 4, mode), (4, 8, base), (12, 10, len), (24, 16, crc)] = mode + base * 2 ^ 4 + len * 2 ^ 12 + crc * 2 ^ 24 := by
    simp only [pack_cons, pack_nil]
    omega
  rw [blockHeader, leNat_take_leBytes t (by rw [hpack]; omega), hpack]
  simp only [bitsOf, Nat.shiftRight_eq_div_pow]
  omega

theorem crc16_lt (bs : List Byte) : crc16 bs < 65536 := by
  refine List.foldlRecOn (motive := (· < 65536)) bs _ (by decide) fun crc hcrc b _ => ?_
  refine List.foldlRecOn (motive := (· < 65536)) _ _ (Nat.xor_lt_two_pow (n := 16) hcrc (by omega)) fun c _ _ _ => ?_
  have hshift : c * 2 % 65536 < 65536 := Nat.mod_lt _ (by decide)
  split
  · exact Nat.xor_lt_two_pow (n := 16) hshift (by decide)
  · exact hshift

/-! ## Bits in bytes (R158) -/

theorem testBit_b2n_add_zero (b : Bool) (v : Nat) : (b2n b + 2 * v).testBit 0 = b := by cases b <;> simp [b2n]

theorem testBit_b2n_add_succ (b : Bool) (v i : Nat) : (b2n b + 2 * v).testBit (i + 1) = v.testBit i := by
  have hhalf : (b2n b + 2 * v) / 2 = v := by unfold b2n; split_ifs <;> omega
  rw [Nat.testBit_succ, hhalf]

theorem map_testBit_foldr (bs : List Bool) (m : Nat) (hm : bs.length ≤ m) :
    (List.range m).map (bs.foldr (fun b acc => b2n b + 2 * acc) 0).testBit = bs ++ List.replicate (m - bs.length) false := by
  induction bs generalizing m with
  | nil => simp [List.eq_replicate_iff]
  | cons b bs ih =>
    obtain ⟨m, rfl⟩ : ∃ k, m = k + 1 := ⟨m - 1, by rw [List.length_cons] at hm; omega⟩
    rw [List.length_cons, Nat.add_sub_add_right, List.cons_append, ← ih m (by simpa using hm)]
    rw [List.range_succ_eq_map, List.map_cons, List.map_map, List.foldr_cons, testBit_b2n_add_zero]
    exact congrArg _ (List.map_congr_left fun i _ => testBit_b2n_add_succ b _ i)

theorem unpackBits_cons (b : Byte) (bs : List Byte) : unpackBits (b :: bs) = (List.range 8).map b.toNat.testBit ++ unpackBits bs := rfl

theorem packBits_succ {n : Nat} {bs : List Bool} (h : bs ≠ []) :
    packBits (n + 1) bs = BitVec.ofNat 8 ((bs.take 8).foldr (fun b acc => b2n b + 2 * acc) 0) :: packBits n (bs.drop 8) := by
  obtain ⟨b, r, rfl⟩ := List.exists_cons_of_ne_nil h
  rfl

theorem packBits_nil (n : Nat) : packBits n [] = [] := by cases n <;> rfl

theorem unpackBits_packBits_succ {n : Nat} {bs : List Bool} (h : bs ≠ []) :
    unpackBits (packBits (n + 1) bs) = bs.take 8 ++ List.replicate (8 - bs.length) false ++ unpackBits (packBits n (bs.drop 8)) := by
  rw [packBits_succ h, unpackBits_cons]
  congr 1
  have htake := map_testBit_foldr (bs.take 8) 8 (by simp)
  rw [show 8 - (bs.take 8).length = 8 - bs.length by simp; omega] at htake
  rw [← htake]
  refine List.map_congr_left fun i hi => ?_
  rw [BitVec.toNat_ofNat, Nat.testBit_mod_two_pow]
  simp [List.mem_range.mp hi]

/-- Bits that are packed into bytes come back with fewer than eight zero bits behind them. -/
theorem unpackBits_packBits (n : Nat) (bs : List Bool) (hn : bs.length ≤ 8 * n) : ∃ p < 8, unpackBits (packBits n bs) = bs ++ List.replicate p false := by
  induction n generalizing bs with
  | zero => exact ⟨0, by decide, by simp [List.eq_nil_of_length_eq_zero (Nat.le_zero.mp hn), packBits, unpackBits]⟩
  | succ n ih =>
    by_cases hnil : bs = []
    · exact ⟨0, by decide, by simp [hnil, packBits_nil, unpackBits]⟩
    have hpos := List.length_pos_iff.mpr hnil
    rw [unpackBits_packBits_succ hnil]
    by_cases hshort : bs.length ≤ 8
    · exact ⟨8 - bs.length, by omega, by simp [List.take_of_length_le hshort, List.drop_eq_nil_of_le hshort, packBits_nil, unpackBits]⟩
    · obtain ⟨p, hp, hrest⟩ := ih (bs.drop 8) (by simp; omega)
      refine ⟨p, hp, ?_⟩
      rw [hrest, show 8 - bs.length = 0 by omega, List.replicate_zero, List.append_nil, ← List.append_assoc, List.take_append_drop]

theorem length_packBits (n : Nat) (bs : List Bool) (hn : bs.length ≤ 8 * n) : (packBits n bs).length = (bs.length + 7) / 8 := by
  induction n generalizing bs with
  | zero => simp [List.eq_nil_of_length_eq_zero (Nat.le_zero.mp hn), packBits]
  | succ n ih =>
    by_cases hnil : bs = []
    · simp [hnil, packBits_nil]
    have hpos := List.length_pos_iff.mpr hnil
    rw [packBits_succ hnil, List.length_cons, ih _ (by simp; omega), List.length_drop]
    omega

/-! ## Codes of symbols (R159) -/

@[simp] theorem length_codeBits (l code : Nat) : (codeBits l code).length = l := by simp [codeBits]

theorem codeBits_succ (l code : Nat) : codeBits (l + 1) code = code.testBit l :: codeBits l code := by
  simp only [codeBits, List.range_succ_eq_map, List.map_cons, List.map_map, Nat.add_sub_cancel, Nat.sub_zero]
  congr 1
  refine List.map_congr_left fun i _ => ?_
  rw [Function.comp_apply, show l - i.succ = l - 1 - i by omega]

/-- A number's bits, read the most significant one first, give the number. -/
theorem foldl_codeBits (l code acc : Nat) : (codeBits l code).foldl (fun a b => 2 * a + b2n b) acc = acc * 2 ^ l + code % 2 ^ l := by
  induction l generalizing acc with
  | zero => simp [codeBits, Nat.mod_one]
  | succ l ih =>
    have hbit : b2n (code.testBit l) = code / 2 ^ l % 2 := by
      rw [Nat.testBit_eq_decide_div_mod_eq]
      rcases Nat.mod_two_eq_zero_or_one (code / 2 ^ l) with h | h <;> simp [b2n, h]
    rw [codeBits_succ, List.foldl_cons, ih, hbit, Nat.pow_succ 2 l, Nat.mod_mul]
    ring

/-- The canonical code of a symbol under table n. -/
def codeOf (n sym : Nat) : Nat := ((assignCodes (romLens.getD n [])).find? fun c => c.1 = sym).elim 0 fun c => c.2.2

theorem find_code : ∀ n < 8, ∀ sym < 17, (assignCodes (romLens.getD n [])).find? (fun c => c.1 = sym) = some (sym, romLen n sym, codeOf n sym) := by
  decide +kernel

/-- In each of the eight tables a symbol is found at the end of its own code and not before. -/
theorem readCode_codeBits : ∀ n < 8, ∀ sym < 17, readCode (assignCodes (romLens.getD n [])) 12 0 0 (codeBits (romLen n sym) (codeOf n sym)) = some (sym, []) := by
  decide +kernel

theorem romLen_pos : ∀ n < 8, ∀ sym < 17, 1 ≤ romLen n sym := by decide

/-- What stands behind a code does not change how it is read. -/
theorem readCode_append {codes : List (Nat × Nat × Nat)} {n l acc sym : Nat} {bs r : List Bool} (t : List Bool) (h : readCode codes n l acc bs = some (sym, r)) :
    readCode codes n l acc (bs ++ t) = some (sym, r ++ t) := by
  induction n generalizing l acc bs with
  | zero => simp [readCode] at h
  | succ n ih =>
    cases bs with
    | nil => simp [readCode] at h
    | cons b bs =>
      simp only [readCode, List.cons_append] at h ⊢
      split at h
      next hfind =>
        obtain ⟨rfl, rfl⟩ := by simpa using h
        rfl
      next hfind => rw [ih h]

/-! ## The EXP section (R158, R160) -/

section Exponents

variable {n base e : Nat} {es : List Nat}

theorem symOf_lt (base e : Nat) : symOf base e < 17 := by unfold symOf; split_ifs <;> omega

/-- The bits of one exponent: its symbol's code, and the exponent itself behind ESC. -/
def expCode (n base e : Nat) : List Bool :=
  codeBits (romLen n (symOf base e)) (codeOf n (symOf base e)) ++ if symOf base e = 16 then codeBits 8 e else []

theorem expBits_eq (hn : n < 8) : expBits n base es = es.flatMap (expCode n base) := by
  have hfind := fun e => find_code n hn (symOf base e) (symOf_lt base e)
  simp only [expBits, hfind]
  rfl

theorem length_expCode : (expCode n base e).length = romLen n (symOf base e) + if symOf base e = 16 then 8 else 0 := by
  rw [expCode, List.length_append, length_codeBits]
  split_ifs <;> simp

theorem length_expBits (hn : n < 8) : (expBits n base es).length = expLen n base es := by
  rw [expBits_eq hn, List.length_flatMap, expLen, ← List.sum_eq_foldl]
  simp only [length_expCode]

theorem length_le_expLen (hn : n < 8) : es.length ≤ expLen n base es := by
  rw [← length_expBits hn, expBits_eq hn]
  induction es with
  | nil => simp
  | cons e es ih =>
    have hpos := romLen_pos n hn _ (symOf_lt base e)
    rw [List.flatMap_cons, List.length_append, List.length_cons, length_expCode]
    omega

/-- One exponent reads back: Z as 0, kn as BASE - n, ESC as the 8 bits behind it. -/
theorem readExps_expCode (hn : n < 8) (hbase : e ≤ base) (he : e < 256) (k : Nat) (t : List Bool) :
    readExps (assignCodes (romLens.getD n [])) base (k + 1) (expCode n base e ++ t) =
      (readExps (assignCodes (romLens.getD n [])) base k t).map fun x => (e :: x.1, x.2) := by
  have hcode := fun u => readCode_append u (readCode_codeBits n hn _ (symOf_lt base e))
  simp only [readExps, expCode, List.append_assoc, hcode, List.nil_append]
  by_cases hzero : e = 0
  · simp [symOf, hzero]
  by_cases hnear : base - e ≤ 14
  · have hsym : symOf base e = base - e := by simp [symOf, hzero, hnear]
    simp [hsym, show base - e ≠ 15 by omega, show base - e ≠ 16 by omega, show ¬ base < base - e + 1 by omega, Nat.sub_sub_self hbase]
  · have hsym : symOf base e = 16 := by simp [symOf, hzero, hnear]
    have htake : (codeBits 8 e ++ t).take 8 = codeBits 8 e := List.take_left' (length_codeBits 8 e)
    have hdrop : (codeBits 8 e ++ t).drop 8 = t := List.drop_left' (length_codeBits 8 e)
    simp [hsym, htake, hdrop, foldl_codeBits, Nat.mod_eq_of_lt he]

theorem readExps_expBits (hn : n < 8) (hbase : ∀ e ∈ es, e ≤ base) (hes : ∀ e ∈ es, e < 256) (t : List Bool) :
    readExps (assignCodes (romLens.getD n [])) base es.length (expBits n base es ++ t) = some (es, t) := by
  rw [expBits_eq hn]
  induction es with
  | nil => rfl
  | cons e es ih =>
    rw [List.forall_mem_cons] at hbase hes
    rw [List.flatMap_cons, List.append_assoc, List.length_cons, readExps_expCode hn hbase.1 hes.1, ih hbase.2 hes.2]
    rfl

/-- The encoder's choice is a table, with the LEN that this table gives. -/
theorem bestLen_spec (base : Nat) (es : List Nat) : (bestLen base es).1 < 8 ∧ (bestLen base es).2 = 261 + (expLen (bestLen base es).1 base es + 7) / 8 := by
  refine List.foldlRecOn (motive := fun best : Nat × Nat => best.1 < 8 ∧ best.2 = 261 + (expLen best.1 base es + 7) / 8) _ _ ⟨Nat.succ_pos _, rfl⟩ fun best hbest n hn => ?_
  dsimp only
  split
  · exact ⟨List.mem_range.mp hn, rfl⟩
  · exact hbest

end Exponents

/-! ## Elements (R157, R158) -/

theorem length_words16 : ∀ raw : List Byte, (words16 raw).length = raw.length / 2
  | [] => rfl
  | [_] => by simp [words16]
  | a :: b :: r => by
    simp only [words16, List.length_cons, length_words16 r]
    omega

/-- The exponents of a block's elements. -/
def exponents (raw : List Byte) : List Nat := ((words16 raw).map elemOf).map fun x => x.2

/-- The SM section: sign and mantissa of each element. -/
def smBytes (raw : List Byte) : List Byte := ((words16 raw).map elemOf).map fun x => BitVec.ofNat 8 x.1

/-- Raw bytes from the SM section and the exponents, as the decoder puts them together. -/
def joinElems (sm : List Byte) (es : List Nat) : List Byte :=
  (sm.zip es).flatMap fun x => leBytes 2 (x.1.toNat / 128 * 32768 + x.2 * 128 + x.1.toNat % 128)

theorem leBytes_elemOf (a b : Byte) :
    let x := elemOf (a.toNat + 256 * b.toNat)
    leBytes 2 ((BitVec.ofNat 8 x.1).toNat / 128 * 32768 + x.2 * 128 + (BitVec.ofNat 8 x.1).toNat % 128) = [a, b] := by
  have hword : ∀ w < 65536, (BitVec.ofNat 8 (elemOf w).1).toNat / 128 * 32768 + (elemOf w).2 * 128 + (BitVec.ofNat 8 (elemOf w).1).toNat % 128 = w := by
    intro w hw
    simp only [elemOf, bitsOf, Nat.shiftRight_eq_div_pow, BitVec.toNat_ofNat]
    omega
  have ha := a.isLt
  have hb := b.isLt
  dsimp only
  rw [hword _ (by omega)]
  simp only [leBytes, List.cons.injEq, and_true]
  exact ⟨BitVec.eq_of_toNat_eq (by simp only [BitVec.toNat_ofNat]; omega), BitVec.eq_of_toNat_eq (by simp only [BitVec.toNat_ofNat]; omega)⟩

theorem joinElems_smBytes : ∀ raw : List Byte, raw.length % 2 = 0 → joinElems (smBytes raw) (exponents raw) = raw
  | [], _ => rfl
  | [_], h => by simp at h
  | a :: b :: r, h => by
    have hrest := joinElems_smBytes r (by simp only [List.length_cons] at h; omega)
    simp only [joinElems, smBytes, exponents] at hrest
    simp only [joinElems, smBytes, exponents, words16, List.map_cons, List.zip_cons_cons, List.flatMap_cons, hrest, leBytes_elemOf]
    rfl

/-! ## Blocks (R156 to R161) -/

section Blocks

variable {raw : List Byte}

theorem decodeBlock_zero (rest : List Byte) :
    decodeBlock (blockHeader 9 0 5 (crc16 (List.replicate 512 0)) ++ rest) = .ok (List.replicate 512 0, 5) := by
  obtain ⟨hmode, hbase, hlen, hrsv, hcrc⟩ := blockHeader_fields (mode := 9) (base := 0) (len := 5) rest (by decide) (by decide) (by decide) (crc16_lt (List.replicate 512 0))
  simp only [decodeBlock, hmode, hbase, hlen, hrsv, hcrc]
  simp [-List.reduceReplicate]

theorem decodeBlock_raw (hraw : raw.length = 512) (rest : List Byte) :
    decodeBlock (blockHeader 8 0 517 (crc16 raw) ++ (raw ++ rest)) = .ok (raw, 517) := by
  obtain ⟨hmode, hbase, hlen, hrsv, hcrc⟩ := blockHeader_fields (mode := 8) (base := 0) (len := 517) (raw ++ rest) (by decide) (by decide) (by decide) (crc16_lt raw)
  have hbody : ((blockHeader 8 0 517 (crc16 raw) ++ (raw ++ rest)).drop 5).take 512 = raw := by
    rw [List.drop_left' (length_blockHeader ..), List.take_left' hraw]
  simp only [decodeBlock, hmode, hbase, hlen, hrsv, hcrc, hbody]
  simp [hraw]
  omega

theorem decodeBlock_table {n base : Nat} {sm exps : List Byte} {es : List Nat} {pad : List Bool} (rest : List Byte) (hn : n < 8) (hbound : base < 256) (hsm : sm.length = 256)
    (hlow : 32 ≤ exps.length) (hhigh : exps.length ≤ 255) (hread : readExps (assignCodes (romLens.getD n [])) base 256 (unpackBits exps) = some (es, pad))
    (hshort : pad.length < 8) (hzero : pad.any id = false) (hjoin : joinElems sm es = raw) :
    decodeBlock (blockHeader n base (261 + exps.length) (crc16 raw) ++ (sm ++ (exps ++ rest))) = .ok (raw, 261 + exps.length) := by
  obtain ⟨hmode, hbase, hlen, hrsv, hcrc⟩ := blockHeader_fields (mode := n) (len := 261 + exps.length) (sm ++ (exps ++ rest)) (by omega) hbound (by omega) (crc16_lt raw)
  have htail : (blockHeader n base (261 + exps.length) (crc16 raw) ++ (sm ++ (exps ++ rest))).drop 5 = sm ++ (exps ++ rest) := List.drop_left' (length_blockHeader ..)
  have hexps : (blockHeader n base (261 + exps.length) (crc16 raw) ++ (sm ++ (exps ++ rest))).drop 261 = exps ++ rest := by
    rw [← List.append_assoc, List.drop_left' (by simp [hsm])]
  unfold joinElems at hjoin
  simp only [decodeBlock, hmode, hbase, hlen, hrsv, hcrc, htail, hexps, List.take_left' hsm, Nat.add_sub_cancel_left, List.take_left, hread, hjoin, hzero]
  rw [if_neg (by simp [hsm]; omega), if_neg (by omega), if_neg (by omega), if_neg (by omega), if_neg (by simp; omega)]
  simp

/-! ## The encoder's three forms (R160) -/

/-- The block's BASE: its largest exponent. -/
def baseOf (raw : List Byte) : Nat := (exponents raw).foldl max 0

theorem encodeBlock_zero (hzero : (raw.all fun b => b = 0) = true) : encodeBlock raw = blockHeader 9 0 5 (crc16 raw) := by
  rw [encodeBlock, if_pos hzero]

theorem encodeBlock_raw {n len : Nat} (hzero : (raw.all fun b => b = 0) = false) (hbest : bestLen (baseOf raw) (exponents raw) = (n, len)) (hlong : 517 ≤ len) :
    encodeBlock raw = blockHeader 8 0 517 (crc16 raw) ++ raw := by
  rw [baseOf, exponents] at hbest
  simp only [encodeBlock, hzero, hbest, if_pos hlong, Bool.false_eq_true, if_false]

theorem encodeBlock_table {n len : Nat} (hzero : (raw.all fun b => b = 0) = false) (hbest : bestLen (baseOf raw) (exponents raw) = (n, len)) (hshort : len < 517) :
    encodeBlock raw = blockHeader n (baseOf raw) len (crc16 raw) ++ smBytes raw ++ packBits 512 (expBits n (baseOf raw) (exponents raw)) := by
  rw [baseOf, exponents] at hbest
  simp only [encodeBlock, hzero, hbest, if_neg (Nat.not_le.mpr hshort), Bool.false_eq_true, if_false]
  rfl

theorem exponents_lt : ∀ e ∈ exponents raw, e < 256 := by
  intro e he
  simp only [exponents, List.map_map, List.mem_map] at he
  obtain ⟨w, -, rfl⟩ := he
  exact bitsOf_lt w 14 7

theorem le_foldl_max (es : List Nat) (m : Nat) : m ≤ es.foldl max m ∧ ∀ e ∈ es, e ≤ es.foldl max m := by
  induction es generalizing m with
  | nil => simp
  | cons e es ih =>
    obtain ⟨hstart, hrest⟩ := ih (max m e)
    rw [List.foldl_cons, List.forall_mem_cons]
    exact ⟨le_trans (le_max_left m e) hstart, le_trans (le_max_right m e) hstart, hrest⟩

theorem le_baseOf : ∀ e ∈ exponents raw, e ≤ baseOf raw := (le_foldl_max _ 0).2

theorem baseOf_lt : baseOf raw < 256 :=
  List.foldlRecOn (motive := (· < 256)) _ _ (by decide) fun _ hm _ he => Nat.max_lt.mpr ⟨hm, exponents_lt _ he⟩

theorem length_exponents (hraw : raw.length = 512) : (exponents raw).length = 256 := by simp [exponents, length_words16, hraw]

theorem length_smBytes (hraw : raw.length = 512) : (smBytes raw).length = 256 := by simp [smBytes, length_words16, hraw]

theorem eq_replicate_of_all_zero (hraw : raw.length = 512) (hzero : (raw.all fun b => b = 0) = true) : raw = List.replicate 512 0 :=
  List.eq_replicate_iff.mpr ⟨hraw, by simpa using hzero⟩

/-- The EXP section that the encoder writes has the length that LEN says, and its bits give the exponents back with less than a byte of zeros behind them. -/
theorem expSection_spec {n : Nat} (hraw : raw.length = 512) (hn : n < 8) (hshort : 261 + (expLen n (baseOf raw) (exponents raw) + 7) / 8 < 517) :
    let exps := packBits 512 (expBits n (baseOf raw) (exponents raw))
    exps.length = (expLen n (baseOf raw) (exponents raw) + 7) / 8 ∧
    ∃ p < 8, readExps (assignCodes (romLens.getD n [])) (baseOf raw) 256 (unpackBits exps) = some (exponents raw, List.replicate p false) := by
  have hlen := length_expBits (base := baseOf raw) (es := exponents raw) hn
  have hfits : (expBits n (baseOf raw) (exponents raw)).length ≤ 8 * 512 := by omega
  obtain ⟨p, hp, hbits⟩ := unpackBits_packBits 512 _ hfits
  refine ⟨by rw [length_packBits 512 _ hfits, hlen], p, hp, ?_⟩
  rw [hbits, ← length_exponents hraw, readExps_expBits hn le_baseOf exponents_lt]

theorem encodeBlock_table_spec {n len : Nat} (hraw : raw.length = 512) (hzero : (raw.all fun b => b = 0) = false)
    (hbest : bestLen (baseOf raw) (exponents raw) = (n, len)) (hshort : len < 517) (rest : List Byte) :
    (encodeBlock raw).length = len ∧ 293 ≤ len ∧ decodeBlock (encodeBlock raw ++ rest) = .ok (raw, len) := by
  obtain ⟨hn, hlen⟩ := bestLen_spec (baseOf raw) (exponents raw)
  simp only [hbest] at hn hlen
  obtain ⟨hexps, p, hp, hread⟩ := expSection_spec hraw hn (by omega)
  have hcount : 256 ≤ expLen n (baseOf raw) (exponents raw) := length_exponents hraw ▸ length_le_expLen hn
  have hdecode := decodeBlock_table (raw := raw) rest hn baseOf_lt (length_smBytes hraw) (by omega) (by omega) hread (by simpa using hp) (by simp)
    (joinElems_smBytes raw (by omega))
  rw [hexps, ← hlen] at hdecode
  rw [encodeBlock_table hzero hbest hshort]
  refine ⟨?_, by omega, ?_⟩
  · rw [List.length_append, List.length_append, length_blockHeader, length_smBytes hraw, hexps]
    omega
  · rw [List.append_assoc, List.append_assoc]
    exact hdecode

theorem encodeBlock_spec (hraw : raw.length = 512) (rest : List Byte) :
    decodeBlock (encodeBlock raw ++ rest) = .ok (raw, (encodeBlock raw).length) ∧ 5 ≤ (encodeBlock raw).length ∧ (encodeBlock raw).length ≤ 517 := by
  cases hzero : raw.all fun b => b = 0 with
  | true =>
    rw [encodeBlock_zero hzero, length_blockHeader, eq_replicate_of_all_zero hraw hzero]
    exact ⟨decodeBlock_zero rest, by decide, by decide⟩
  | false =>
    rcases hbest : bestLen (baseOf raw) (exponents raw) with ⟨n, len⟩
    by_cases hlong : 517 ≤ len
    · have hlength : (blockHeader 8 0 517 (crc16 raw) ++ raw).length = 517 := by rw [List.length_append, length_blockHeader, hraw]
      rw [encodeBlock_raw hzero hbest hlong, hlength, List.append_assoc]
      exact ⟨decodeBlock_raw hraw rest, by decide, le_rfl⟩
    · obtain ⟨hlength, hlow, hdecode⟩ := encodeBlock_table_spec hraw hzero hbest (Nat.not_le.mp hlong) rest
      rw [hlength]
      exact ⟨hdecode, by omega, by omega⟩

end Blocks

/-- Settles O58: the decoder reads the header's fields back, and each of the encoder's three forms decodes to the raw bytes. -/
theorem sieveBlocksDecodeToThemselves : Obligations.SieveBlocksDecodeToThemselves := fun _ rest hraw => encodeBlock_spec hraw rest

/-! ## Frames and objects (R154, R155) -/

theorem flatten_pieces {α : Type} {m : Nat} (n : Nat) (l : List α) (hl : l.length = m * n) : (pieces m n l).flatten = l := by
  induction n generalizing l with
  | zero => exact (List.eq_nil_of_length_eq_zero hl).symm
  | succ n ih => rw [pieces, List.flatten_cons, ih _ (by rw [List.length_drop, hl, Nat.mul_succ, Nat.add_sub_cancel]), List.take_append_drop]

theorem length_of_mem_pieces {α : Type} {m : Nat} (n : Nat) (l : List α) (hl : l.length = m * n) : ∀ x ∈ pieces m n l, x.length = m := by
  induction n generalizing l with
  | zero => simp [pieces]
  | succ n ih =>
    rw [Nat.mul_succ] at hl
    rw [pieces, List.forall_mem_cons]
    exact ⟨by rw [List.length_take]; omega, ih _ (by rw [List.length_drop]; omega)⟩

@[simp] theorem length_pieces {α : Type} (m n : Nat) (l : List α) : (pieces m n l).length = n := by
  induction n generalizing l with
  | zero => rfl
  | succ n ih => rw [pieces, List.length_cons, ih]

/-- Blocks that stand one behind another decode to their raw bytes, and take 517 bytes each at most. -/
theorem decodeBlocks_encodeBlock (bs : List (List Byte)) (hbs : ∀ b ∈ bs, b.length = 512) (rest : List Byte) :
    decodeBlocks bs.length (bs.flatMap encodeBlock ++ rest) = .ok (bs.flatten, (bs.flatMap encodeBlock).length) ∧
    (bs.flatMap encodeBlock).length ≤ 517 * bs.length := by
  induction bs with
  | nil => exact ⟨rfl, le_rfl⟩
  | cons b bs ih =>
    obtain ⟨hb, hbs⟩ := List.forall_mem_cons.mp hbs
    obtain ⟨hdecode, hlength⟩ := ih hbs
    obtain ⟨hblock, -, hbound⟩ := encodeBlock_spec hb (bs.flatMap encodeBlock ++ rest)
    rw [List.length_cons, List.flatMap_cons, List.append_assoc, decodeBlocks, List.length_append]
    refine ⟨?_, by omega⟩
    simp only [hblock, List.drop_left, hdecode]
    rfl

/-- A frame's eight encoded blocks. -/
def encodeFrame (raw : List Byte) : List Byte := (pieces 512 8 raw).flatMap encodeBlock

theorem decodeBlocks_encodeFrame {raw : List Byte} (hraw : raw.length = 4096) (rest : List Byte) :
    decodeBlocks 8 (encodeFrame raw ++ rest) = .ok (raw, (encodeFrame raw).length) ∧ (encodeFrame raw).length ≤ 4136 := by
  have hspec := decodeBlocks_encodeBlock (pieces 512 8 raw) (length_of_mem_pieces 8 raw hraw) rest
  rw [length_pieces, flatten_pieces 8 raw hraw] at hspec
  exact hspec

/-- Frames of raw bytes take 4,136 bytes each at most. -/
theorem length_flatMap_encodeFrame (fs : List (List Byte)) (hfs : ∀ f ∈ fs, f.length = 4096) : (fs.flatMap encodeFrame).length ≤ 4136 * fs.length := by
  induction fs with
  | nil => exact le_rfl
  | cons f fs ih =>
    obtain ⟨hf, hfs⟩ := List.forall_mem_cons.mp hfs
    have hframe := (decodeBlocks_encodeFrame hf []).2
    have hrest := ih hfs
    rw [List.flatMap_cons, List.length_append, List.length_cons]
    omega

@[simp] theorem length_indexOf (off : Nat) (fs : List (List Byte)) : (indexOf off fs).length = 8 * fs.length := by
  induction fs generalizing off with
  | nil => rfl
  | cons f fs ih =>
    rw [indexOf, List.length_append, length_leBytes, ih, List.length_cons]
    omega

/-- An index entry whose fields fit reads back as these fields, with the reserved bits zero (Table 6.1). -/
theorem indexEntry_fields {off flen : Nat} (t : List Byte) (hoff : off < 2 ^ 48) (hflen : flen < 8192) :
    let e := leNat ((leBytes 8 (pack [(0, 48, off), (48, 13, flen)]) ++ t).take 8)
    bitsOf e 47 0 = off ∧ bitsOf e 63 61 = 0 ∧ bitsOf e 60 48 = flen := by
  have hpack : pack [(0, 48, off), (48, 13, flen)] = off + flen * 2 ^ 48 := by
    simp only [pack_cons, pack_nil]
    omega
  rw [leNat_take_leBytes t (by rw [hpack]; omega), hpack]
  simp only [bitsOf, Nat.shiftRight_eq_div_pow]
  omega

/-- Frames that stand in the stored bytes where their index entries say decode to their raw bytes. -/
theorem decodeFrames_encodeFrame (stored fill t : List Byte) (fs : List (List Byte)) (off : Nat) (hfs : ∀ f ∈ fs, f.length = 4096)
    (hstored : stored.drop off = fs.flatMap encodeFrame ++ fill) (hfits : off + 4136 * fs.length < 2 ^ 48) :
    decodeFrames stored fs.length off (indexOf off (fs.map encodeFrame) ++ t) = .ok fs.flatten := by
  induction fs generalizing off with
  | nil => rfl
  | cons f fs ih =>
    obtain ⟨hf, hfs⟩ := List.forall_mem_cons.mp hfs
    rw [List.flatMap_cons, List.append_assoc] at hstored
    rw [List.length_cons] at hfits
    obtain ⟨hframe, hbound⟩ := decodeBlocks_encodeFrame hf (fs.flatMap encodeFrame ++ fill)
    obtain ⟨hoffset, hrsv, hflen⟩ := indexEntry_fields (off := off) (indexOf (off + (encodeFrame f).length) (fs.map encodeFrame) ++ t) (by omega)
      (show (encodeFrame f).length < 8192 by omega)
    have hrest := ih (off + (encodeFrame f).length) hfs (by rw [← List.drop_drop, hstored, List.drop_left]) (by omega)
    simp only [List.length_cons, List.map_cons, indexOf, List.append_assoc, decodeFrames, hoffset, hrsv, hflen, hstored, hframe,
      List.drop_left' (length_leBytes 8 _), hrest]
    simp

theorem encodeObj_eq {raw : List Byte} {f : Nat} (hraw : raw.length = 4096 * f) :
    encodeObj raw = indexOf (8 * f) ((pieces 4096 f raw).map encodeFrame) ++ (pieces 4096 f raw).flatMap encodeFrame := by
  have hframes : encodeFrames raw = (pieces 4096 f raw).map encodeFrame := by
    rw [encodeFrames, hraw, Nat.mul_div_cancel_left f (by decide)]
    rfl
  rw [encodeObj, hframes, List.length_map, length_pieces, List.flatMap_def]

theorem length_encodeObj_le {raw : List Byte} {f : Nat} (hraw : raw.length = 4096 * f) : (encodeObj raw).length ≤ 4144 * f := by
  have hframes := length_flatMap_encodeFrame (pieces 4096 f raw) (length_of_mem_pieces f raw hraw)
  rw [length_pieces] at hframes
  rw [encodeObj_eq hraw, List.length_append, length_indexOf, List.length_map, length_pieces]
  omega

theorem decodeObj_encodeObj {raw : List Byte} {f : Nat} (fill : List Byte) (hraw : raw.length = 4096 * f) (hf : f < 2 ^ 34) :
    decodeObj (encodeObj raw ++ fill) f = .ok raw := by
  have hindex : (indexOf (8 * f) ((pieces 4096 f raw).map encodeFrame)).length = 8 * f := by rw [length_indexOf, List.length_map, length_pieces]
  have hdecode := decodeFrames_encodeFrame (encodeObj raw ++ fill) fill ((pieces 4096 f raw).flatMap encodeFrame ++ fill) (pieces 4096 f raw) (8 * f)
    (length_of_mem_pieces f raw hraw) (by rw [encodeObj_eq hraw, List.append_assoc, List.drop_left' hindex]) (by rw [length_pieces]; omega)
  rw [length_pieces, flatten_pieces f raw hraw, ← List.append_assoc, ← encodeObj_eq hraw] at hdecode
  exact hdecode

/-- Settles O59: the frames stand where the index says, and each is eight blocks that decode to themselves. -/
theorem sieveIsLossless : Obligations.SieveIsLossless := fun _ fill _ hraw hf =>
  ⟨decodeObj_encodeObj fill hraw hf, length_encodeObj_le hraw⟩

end Sys2Proof.Machine

/-! Proofs for the movers: completion queues, channels, pacing lines and clusters (chapter 07 of the spec). -/

namespace Sys2Proof.Machine

/-! ## Completion queues (R192, R194) -/

/-- `t` has the memory and the completion queues of `s`. -/
structure SameQueues (s t : State) : Prop where
  mem : t.mem = s.mem
  cqs : t.cqs = s.cqs

theorem SameQueues.refl (s : State) : SameQueues s s := ⟨rfl, rfl⟩

theorem SameQueues.trans {s t u : State} (h₁ : SameQueues s t) (h₂ : SameQueues t u) : SameQueues s u :=
  ⟨h₂.mem.trans h₁.mem, h₂.cqs.trans h₁.cqs⟩

theorem SameQueues.setCq {s t : State} (h : SameQueues s t) (q : Nat) (v : Cq) : SameQueues (s.setCq q v) (t.setCq q v) :=
  ⟨h.mem, congrArg (tset · q v) h.cqs⟩

theorem sameQueues_askPage (s : State) (p off : Nat) : SameQueues s (askPage s p off) := by
  unfold askPage
  dsimp only
  split <;> exact ⟨rfl, rfl⟩

/-- The way of a record to its ring is counted at a port, and in T3 asks for a page or drops a line. -/
theorem sameQueues_queueIO (s : State) (p a len x : Nat) : SameQueues s (queueIO s p a len x) := by
  have counted (t : State) (port : Option Nat) : SameQueues t (match port with
      | some n => (t.gadd (0x10 * n + 8) len).gadd (0x10 * n) 64
      | none => t) := by cases port <;> exact ⟨rfl, rfl⟩
  have dropped (t : State) : SameQueues t (dropHostLines t p (tqaOff a) len) := ⟨rfl, rfl⟩
  unfold queueIO
  refine SameQueues.trans ?_ (counted _ _)
  split
  · refine SameQueues.trans ?_ (dropped _)
    split
    · exact .refl s
    · exact sameQueues_askPage s p _
  · exact .refl s

theorem sameQueues_follow (s : State) (r : Pend) : SameQueues s (follow s r) := by
  have added (t : State) : SameQueues t (match r.csem with
      | some n => t.todo (.semAdd n 1 (source r.who))
      | none => t) := by cases r.csem <;> exact ⟨rfl, rfl⟩
  have pushed (t : State) : SameQueues t (match r.push with
      | some (ring, h) => t.todo (.push ring h r.who)
      | none => t) := by cases r.push <;> exact ⟨rfl, rfl⟩
  exact (added s).trans (pushed _)

/-- Where slot TAIL of a queue stands in memory (R192). -/
def cqSlot (s : State) (q : Nat) : Nat :=
  memKey s ((cqOwner s q).getD 0) ((s.cq q).base + (s.cq q).tail % 2 ^ cqLog (s.cq q) * 32)

/-- Posting a record stores its 32 bytes in slot TAIL and moves TAIL on; what else it does touches neither memory nor queues. -/
theorem sameQueues_cqPut (s : State) (r : Pend) :
    SameQueues ((s.store (cqSlot s r.q) (leBytes 32 r.data)).setCq r.q { s.cq r.q with tail := ((s.cq r.q).tail + 1) % 2 ^ 32 }) (cqPut s r) := by
  have progressed (t : State) : SameQueues t (match r.chan with
      | some ch => t.setCluster (ch / 32) { t.cluster (ch / 32) with since := t.now }
      | none => t) := by cases r.chan <;> exact ⟨rfl, rfl⟩
  have interrupted (t : State) : SameQueues t (if bitOf (s.cq r.q).cfg 8 then
      vecIsDue { t with cqInt := if t.cqInt.contains r.q then t.cqInt else r.q :: t.cqInt } { isCq := true, q := r.q, vec := bitsOf (s.cq r.q).cfg 26 16 }
    else t) := by split <;> exact ⟨rfl, rfl⟩
  have sent := (sameQueues_queueIO (s.store (cqSlot s r.q) (leBytes 32 r.data)) ((cqOwner s r.q).getD 0)
    ((s.cq r.q).base + (s.cq r.q).tail % 2 ^ cqLog (s.cq r.q) * 32) 32 r.q).trans (progressed _)
  exact ((sent.setCq _ _).trans (interrupted _)).trans (sameQueues_follow _ r)

/-- Settles O49: of all that posting a record does, only the store and the move of TAIL touch memory and queues. -/
theorem aRecordGoesToSlotTail : Obligations.ARecordGoesToSlotTail := by
  intro s r c a t
  obtain ⟨hmem, hcqs⟩ := sameQueues_cqPut s r
  have hstored : t.mem = wrBytes s.mem a (leBytes 32 r.data) := hmem
  have hcq (q : Nat) : t.cq q = (s.setCq r.q { c with tail := (c.tail + 1) % 2 ^ 32 }).cq q := congrArg (fun l => tget l q ({} : Cq)) hcqs
  refine ⟨?_, fun x hx => ?_, ?_, fun q hq => ?_⟩
  · have hread := rdBytes_wrBytes s.mem a (leBytes 32 r.data)
    rwa [length_leBytes, ← hstored] at hread
  · rw [hstored, rdByte_wrBytes, length_leBytes, if_neg hx]
  · rw [hcq, cq_setCq]
  · rw [hcq, cq_setCq_other _ _ _ _ hq]

/-! ## Channels (R187 to R189, R199) -/

section Chains

variable {s : State} {ch : Nat}

theorem chanDoorbell_taken {head : Nat} (hhost : (s.chan ch).hostq = true) (hst : (s.chan ch).st = 0 ∨ (s.chan ch).st = 1 ∨ (s.chan ch).st = 2)
    (hroom : (s.chan ch).chains.length < 16) (halign : head % 64 = 0) (hpart : (s.part (s.chan ch).part).st = 0) :
    chanDoorbell s ch head = (s.setChan ch { s.chan ch with chains := (s.chan ch).chains ++ [head] }).todo (.chanCheck ch) := by
  unfold chanDoorbell
  exact if_neg (by simp [hhost, hst, hroom, halign, hpart])

/-- A descriptor that is read becomes the last of the ready ones, and the next to read is the one it is chained to (R188). -/
theorem descFetch_ok {a : Nat} (hnext : (s.chan ch).next = some a) (hopen : classBarred s (s.chan ch).part 11 = false) (haddr : descAddrOk s (s.chan ch).part a = true) :
    let v := s.chan ch
    let t := chargeFetch s ch a
    let d := { parseDesc (rdNumP t v.part a 64) with place := a }
    descFetch s ch .ok = haltAway (t.setChan ch { v with ready := v.ready ++ [(v.pos, d)], pos := v.pos + 1, next := if d.chain then some d.next else none }) ch := by
  unfold descFetch
  simp only [hnext, hopen, haddr]
  rfl

/-- A test that more operation codes meet finds the same descriptor. -/
theorem canStart_mono {codes wider : Nat → Bool} {e : Nat × Desc} (hwider : ∀ n, codes n = true → wider n = true) (h : canStart s ch codes = some e) :
    canStart s ch wider = some e := by
  unfold canStart at h ⊢
  dsimp only at h ⊢
  split at h
  · obtain ⟨hcan, he⟩ := Option.ite_none_right_eq_some.mp h
    refine Option.ite_none_right_eq_some.mpr ⟨?_, he⟩
    simp only [Bool.and_eq_true] at hcan ⊢
    obtain ⟨⟨⟨⟨⟨hruns, hcode⟩, hfew⟩, horder⟩, hserves⟩, hpop⟩ := hcan
    exact ⟨⟨⟨⟨⟨hruns, hwider _ hcode⟩, hfew⟩, horder⟩, hserves⟩, hpop⟩
  · exact absurd h nofun

/-- A descriptor that passes its checks and pops nothing starts. -/
theorem descStart_unpopped {pos : Nat} {d : Desc} (hok : descOk s ch d = true) (hpop : d.rpop = false) : descStart s ch pos d = startDesc s ch pos d 0 := by
  simp [descStart, hok, hpop]

/-- A descriptor that passes its checks starts with the handle that the channel has popped for it (R200). -/
theorem descStart_popped {pos h : Nat} {d : Desc} (hok : descOk s ch d = true) (hpop : d.rpop = true) (hpopped : (s.chan ch).popped = some h) :
    descStart s ch pos d = startDesc s ch pos d h := by
  simp [descStart, hok, hpop, hpopped]

end Chains

/-- Each command of a descriptor's operation starts the channel's first ready descriptor where that has the operation's code (Table 7.1). -/
theorem exec_descRow (ch : BitVec 8) :
    ∀ e ∈ [(Instr.copy ch, 0), (Instr.descFill ch, 1), (Instr.descCmp ch, 2), (Instr.igather ch, 3), (Instr.descNop ch, 4)],
      ∃ codes : Nat → Bool, codes e.2 = true ∧ ∀ s, exec e.1 s = arises s (startFirst s ch.toNat codes) := by
  repeat
    rw [List.forall_mem_cons]
    refine ⟨⟨_, ?_, fun _ => rfl⟩, ?_⟩
    · rfl
  exact List.forall_mem_nil _

/-- Settles O18: the doorbell and the read pass their checks, and a row finds the descriptor that has its operation code. -/
theorem channelsTakeEffect : Obligations.ChannelsTakeEffect := by
  refine ⟨?doorbell, ?fetch, ?start⟩
  case doorbell =>
    intro ch head s
    dsimp only
    intro hready hhost hst hroom halign hpart
    rw [← chanDoorbell_taken hhost hst hroom halign hpart]
    exact written_of_ready s _ hready
  case fetch =>
    intro ch s a
    dsimp only
    intro hcan hrun hnext hopen haddr
    rw [← descFetch_ok hnext hopen haddr]
    exact happens_of_true _ s _ (by simp [hcan, hrun])
  case start =>
    intro ch s k op pos d hrow hcan hok
    obtain ⟨codes, hcode, hexec⟩ := exec_descRow ch (k, op) hrow
    have hfirst : canStart s ch.toNat codes = some (pos, d) := canStart_mono (fun n (hn : decide (n = op) = true) => of_decide_eq_true hn ▸ hcode) hcan
    have hstarts : exec k s = .next (settle (descStart s ch.toNat pos d)) := by
      rw [hexec]
      exact arises_some (by rw [startFirst, hfirst]; rfl)
    exact ⟨fun hpop => hstarts.trans (by rw [descStart_unpopped hok hpop]), fun h hpop hpopped => hstarts.trans (by rw [descStart_popped hok hpop hpopped])⟩

/-! ## Enabling and disabling (R203, R204) -/

section Disabling

variable {s : State} {ch p : Nat}

theorem chanEnable_disabled (hst : (s.chan ch).st = 6) : chanEnable s ch = s.setChan ch { s.chan ch with st := 0 } := if_pos hst

/-- DISABLE in DRAIN mode of a channel that is not on its way out in another mode. -/
theorem chanDisable_drain (hst : (s.chan ch).st < 5) : chanDisable s ch false = (s.setChan ch { s.chan ch with st := 4 }).todo (.chanCheck ch) := by
  unfold chanDisable
  dsimp only
  rw [if_neg (by omega), if_neg (by omega), if_neg (by simp), if_neg (by omega)]

/-- DISABLE in ABORT mode of a host-mode channel that is not on its way out in that mode. -/
theorem chanDisable_abort (hhost : (s.chan ch).hostq = true) (hst : (s.chan ch).st < 5) :
    chanDisable s ch true = abortChan (s.setChan ch { s.chan ch with st := 5 }) ch := by
  unfold chanDisable
  dsimp only
  rw [if_neg (by omega), if_neg (by omega), if_pos ⟨rfl, hhost⟩, if_neg (by omega)]

theorem partEnable_disabled (hst : (s.part p).st = 3) (hsettled : (s.part p).resetting = false) :
    partEnable s p = (partChans s p).foldl chanEnable (s.modPart p fun v => { v with st := 0 }) :=
  if_pos ⟨hst, by simp [hsettled]⟩

/-- DISABLE of a partition that is enabled stops its contexts and disables its host-mode channels in its mode. -/
theorem partDisable_enabled (abort : Bool) (hst : (s.part p).st = 0) :
    let t := s.setPart p { s.part p with st := if abort then 2 else 1 }
    let u := (partCtxs t p).foldl (fun s c => stopCtx s c abort) t
    partDisable s p abort = ((partChans u p).foldl (fun s ch => chanDisable s ch abort) u).todo (.partCheck p) :=
  if_neg (by simp [hst])

end Disabling

/-- Settles O19: each command passes its checks in a state that has the channel or the partition where it takes effect. -/
theorem enablingAndDisablingTakeEffect : Obligations.EnablingAndDisablingTakeEffect := by
  refine ⟨?enable, ?drain, ?abort, ?partEnable, ?partDisable⟩
  case enable =>
    intro ch s hready hst
    rw [← chanEnable_disabled hst]
    exact written_of_ready s _ hready
  case drain =>
    intro ch s hready hst
    rw [← chanDisable_drain hst]
    exact written_of_ready s _ hready
  case abort =>
    intro ch s hready hhost hst
    rw [← chanDisable_abort hhost hst]
    exact written_of_ready s _ hready
  case partEnable =>
    intro p s hready hst hsettled
    rw [← partEnable_disabled hst hsettled]
    exact written_of_ready s _ hready
  case partDisable =>
    intro p s abort hready hst
    dsimp only
    rw [← partDisable_enabled abort hst]
    cases abort with
    | false => exact written_of_ready s _ hready
    | true => exact written_of_ready s _ hready

/-! ## HEAD of a queue or a ring (R192, R194, R305, R336, R344) -/

section Heads

variable {s : State} {q p head : Nat}

theorem headOk_iff (old tail new : Nat) : headOk old tail new = true ↔ (new + 2 ^ 32 - old) % 2 ^ 32 ≤ (tail + 2 ^ 32 - old) % 2 ^ 32 := decide_eq_true_iff

theorem cqHead_inOrder (hok : headOk (s.cq q).head (s.cq q).tail head = true) : cqHead s q head = cqDrainAll (s.setCq q { s.cq q with head := head }) := if_pos hok

/-- A HEAD out of order is counted for the partition that owns the queue. -/
theorem cqHead_outOfOrder (hbad : ¬headOk (s.cq q).head (s.cq q).tail head = true) (howner : cqOwner s q = some p) : cqHead s q head = movAdd s p 2 1 := by
  unfold cqHead
  dsimp only
  rw [if_neg hbad, howner]

theorem evqHead_inOrder (hok : headOk (s.evq q).head (s.evq q).tail head = true) : evqHead s q head = evDrain 128 (s.setEvq q { s.evq q with head := head }) q := if_pos hok

theorem traceHead_inOrder (hok : headOk (s.part p).traceRing.head (s.part p).traceRing.tail head = true) :
    traceHead s p head = s.modPart p fun v => { v with traceRing := { (s.part p).traceRing with head := head } } := if_pos hok

theorem logHead_inOrder (hok : headOk s.fw.logPtr.head s.fw.logPtr.tail head = true) :
    logHead s head = logDrain logBufSize { s with fw := { s.fw with logPtr := { s.fw.logPtr with head := head } } } := if_pos hok

end Heads

theorem regTable_hw {off : Nat} (h : off < 0x80000) : regTable off = hwDefs := if_pos h

/-- Registers with HEAD in their low half and TAIL in their high half, n of them at a stride (Tables 11.11 and 13.9). -/
def pointerDef (r : Reg) (base n stride : Nat) : RegDef := { reg := r, base := base, width := 64, masks := [F64], n1 := n, s1 := stride }

theorem locate_evqPtr {q : Nat} (hq : q < 17) : locate (0x70000 + 8 * q) = some ⟨pointerDef .evqPtr 0x70000 17 8, q, 0, 0x70000 + 8 * q⟩ :=
  locate_at _ 32 _ _ (regTable_hw (by omega)) (by decide) hq Nat.one_pos (by simp only [RegDef.regOff, pointerDef]; omega)

theorem locate_tracePtr (p : BitVec 4) : locate (0x70800 + 8 * p.toNat) = some ⟨pointerDef .tracePtr 0x70800 16 8, p.toNat, 0, 0x70800 + 8 * p.toNat⟩ :=
  locate_at _ 37 _ _ (regTable_hw (by omega)) (by decide) p.isLt Nat.one_pos (by simp only [RegDef.regOff, pointerDef]; omega)

theorem locate_logPtr : locate 0x60100 = some ⟨pointerDef .logPtr 0x60100 1 1, 0, 0, 0x60100⟩ := rfl

section Pointers

variable {s : State} {r : Reg} {base n stride i off v : Nat}

theorem or_F64 (hv : v < 2 ^ 64) : v ||| F64 = F64 := by
  refine Nat.eq_of_testBit_eq fun k => ?_
  rw [Nat.testBit_or, show F64 = 2 ^ 64 - 1 from rfl, Nat.testBit_two_pow_sub_one]
  by_cases hk : k < 64
  · simp [hk]
  · simpa [hk] using Nat.testBit_lt_two_pow (hv.trans_le (Nat.pow_le_pow_right two_pos (not_lt.mp hk)))

/-- A pointer register takes a write of its low half (R351). -/
theorem writeOk_pointer (hloc : locate off = some ⟨pointerDef r base n stride, i, 0, off⟩) (hready : s.ready = true) (hatomic : atomicReg r = false)
    (halign : off % 4 = 0) (hhw : off < 0x80000) : writeOk s off 32 v = true := by
  refine (writeOk_iff s off 32 v).mpr ⟨hready, ?_, ?_, fun h => by omega⟩
  · simp [accessKind, hloc, pointerDef, hatomic, halign]
  · have hor : v % 4294967296 ||| F64 = F64 := or_F64 (by omega)
    simp [rsvBits, hloc, Place.mask, pickJ, pointerDef, hor]

/-- The value that a write of the low half gives a pointer register has the written value as its low half. -/
theorem merged_pointer_low (hv : v < 2 ^ 32) :
    bitsOf (merged s ⟨pointerDef r base n stride, i, 0, off⟩ off 32 v &&& (⟨pointerDef r base n stride, i, 0, off⟩ : Place).mask) 31 0 = v := by
  change bitsOf (_ &&& (2 ^ 64 - 1)) 31 0 = v
  rw [Nat.and_two_pow_sub_one_eq_mod, merged, if_neg (by simp [pointerDef])]
  simp only [bitsOf, Nat.sub_self, Nat.shiftRight_zero]
  omega

/-- A command that writes HEAD of a pointer register answers what the register makes of it. -/
theorem wrote_pointer {t : State} (hloc : locate off = some ⟨pointerDef r base n stride, i, 0, off⟩) (hready : s.ready = true) (hatomic : atomicReg r = false)
    (halign : off % 4 = 0) (hhw : off < 0x80000) (hv : v < 2 ^ 32) (hput : ∀ w, bitsOf w 31 0 = v → putHw s ⟨pointerDef r base n stride, i, 0, off⟩ w = t) :
    wrote s off 32 v = .next (settle t) := by
  have happly : applyWrite s off 32 v .ok = t := by
    unfold applyWrite
    rw [hloc]
    exact (if_pos hhw).trans (hput _ (merged_pointer_low hv))
  rw [wrote, happens_of_true true s _ rfl, hostWrite_of_writeOk s off 32 v .ok (writeOk_pointer hloc hready hatomic halign hhw), happly]

end Pointers

/-- Settles O20: a HEAD in order is taken; the event queues', the trace rings' and the log ring's come as the low half of a pointer register. -/
theorem queueHeadsTakeEffect : Obligations.QueueHeadsTakeEffect := by
  refine ⟨?cq, ?evq, ?trace, ?log⟩
  case cq =>
    intro q head s
    dsimp only
    rw [← headOk_iff]
    intro hready
    refine ⟨fun hok => ?_, fun p hbad howner => ?_⟩
    · rw [← cqHead_inOrder hok]
      exact written_of_ready s _ hready
    · rw [← cqHead_outOfOrder hbad howner]
      exact written_of_ready s _ hready
  case evq =>
    intro q head s hready hq hok
    rw [← evqHead_inOrder hok]
    exact wrote_pointer (locate_evqPtr hq) hready rfl (by omega) (by omega) head.isLt fun w hw => congrArg (evqHead s q.toNat) hw
  case trace =>
    intro p head s
    dsimp only
    intro hready hok
    rw [← traceHead_inOrder hok]
    exact wrote_pointer (locate_tracePtr p) hready rfl (by omega) (by omega) head.isLt fun w hw => congrArg (traceHead s p.toNat) hw
  case log =>
    intro head s
    dsimp only
    intro hready hok
    rw [← logHead_inOrder hok]
    exact wrote_pointer locate_logPtr hready rfl (by decide) (by decide) head.isLt fun w hw => congrArg (logHead s) hw

/-! ## Pacing lines (R196 to R198, R271) -/

section Lines

variable {s : State} {l : Nat}

theorem lineLive_iff : lineLive s l = true ↔ (plOwner s l).isSome = true ∧ (s.line l).stuck = false := by
  simp [lineLive]

/-- A rise of the level begins the time for which it has been held. -/
theorem overrun_of_low (hlow : (s.line l).level = false) :
    overrun s l = s.setLine l { s.line l with level := true, overrun := min ((s.line l).overrun + 1) 0xFFFF, since := s.now } := by
  simp [overrun, hlow, satAdd]

theorem stuckClear_of_stuck (hstuck : (s.line l).stuck = true) :
    stuckClear s l = s.setLine l { s.line l with stuck := false, armed := true, level := false, since := s.now } := if_pos hstuck

end Lines

/-- Settles O21: a line that is live and disarmed can be overrun. -/
theorem aRiseWhileDisarmedIsAnOverrun : Obligations.ARiseWhileDisarmedIsAnOverrun := by
  intro l s howned hclear hdisarmed hlow
  rw [← overrun_of_low hlow]
  exact happens_of_true _ s _ (by simp [lineLive_iff.mpr ⟨howned, hclear⟩, hdisarmed])

/-! ## Clusters in recovery (R207) -/

section Clusters

variable {s : State} {k : Nat}

/-- A cluster with an item that could make progress is not fenced by a slice. -/
theorem not_underTest_of_burstReady {ports : Nat} {o : Op} {b : Burst} (ho : o ∈ clusOps s k) (hready : burstReady s ports o b = true) : underTest s 2 k = false := by
  have hchan : chanReady s o = true := by
    unfold burstReady at hready
    split at hready
    · exact absurd hready nofun
    · simp only [Bool.and_eq_true] at hready
      obtain ⟨⟨⟨⟨⟨⟨-, hchan⟩, -⟩, -⟩, -⟩, -⟩, -⟩ := hready
      exact hchan
  obtain ⟨ch, hch, hk⟩ := (Option.any_eq_true _ _).mp (List.mem_filter.mp ho).2
  simp only [chanReady, hch, of_decide_eq_true hk, Bool.and_eq_true, Bool.not_eq_true'] at hchan
  exact hchan.2

theorem not_underTest_of_clusterHung (h : clusterHung s k = true) : underTest s 2 k = false := by
  simp only [clusterHung, Bool.and_eq_true, List.any_eq_true] at h
  obtain ⟨-, o, ho, b, -, hready, -⟩ := h
  exact not_underTest_of_burstReady ho hready

/-- A cluster without a slice has none to yield. -/
theorem quiesce_untested (h : underTest s 2 k = false) : quiesce s k = s.setCluster k { st := 2, since := s.now } := by
  have hnone : (s.bist.slices.find? fun x => x.1 = 2 && x.2.1 = k) = none := by
    rw [List.find?_eq_none, ← List.any_eq_false]
    exact h
  unfold quiesce
  rw [hnone]

end Clusters

/-- Settles O22: a line that is live can be raised or masked; a cluster that is hung holds an item that could make progress, so no slice is on it. -/
theorem linesAndClustersTakeEffect : Obligations.LinesAndClustersTakeEffect := by
  refine ⟨⟨?request, ?masked, ?clear⟩, ?hung, ?orphans⟩
  case request =>
    intro l s howned hclear harmed
    exact happens_of_true _ s _ (by simp [lineLive_iff.mpr ⟨howned, hclear⟩, harmed])
  case masked =>
    intro l s p howner hclear
    have hlive : lineLive s l.toNat = true := lineLive_iff.mpr ⟨by simp [howner], hclear⟩
    have hp : p = (plOwner s l.toNat).getD 0 := by rw [howner]; rfl
    subst hp
    refine ⟨happens_of_true _ s _ hlive, fun hheld hidle hlong hrun => happens_of_true (lineStuck s l.toNat) s _ ?_⟩
    simp [lineStuck, hlive, hheld, hidle, hlong, hrun]
  case clear =>
    intro l s hready hstuck
    rw [← stuckClear_of_stuck hstuck]
    exact written_of_ready s _ hready
  case hung =>
    intro k s hhung
    rw [← quiesce_untested (not_underTest_of_clusterHung hhung)]
    exact happens_of_true _ s _ hhung
  case orphans =>
    intro k s hst huntested hrun hlong
    exact happens_of_true (orphansDue s k.toNat) s _ (by simp [orphansDue, hst, huntested, hrun, hlong])

end Sys2Proof.Machine

/-! Proofs for the host link: translations, snoops, detach and reattach (chapter 10 of the spec). -/

namespace Sys2Proof.Machine

/-! ## Translations, page requests and invalidations (R205, R275, R276) -/

section Pages

variable {s : State} {p page : Nat}

/-- A page request has its answer: the next one that waited goes out, and the failures are as given. -/
def pageAnswered (s : State) (p page failures : Nat) : State :=
  let a := s.hostl.ats
  { s with hostl := { s.hostl with ats := { a with
    pri := a.pri.filter fun e => e ≠ (p, page), pageReqs := if 256 < a.pri.length then min (a.pageReqs + 1) (2 ^ 64 - 1) else a.pageReqs, failures := failures } } }

/-- A request waits behind the 256 that are outstanding where more than 256 are listed. -/
theorem waiting_pos_iff (l : List (Nat × Nat)) : 0 < (l.drop priLimit).length ↔ 256 < l.length := by
  rw [List.length_drop, Nat.sub_pos_iff_lt, priLimit]

theorem pageResp_success : pageResp s p page 0 =
    (parkedOn s p page).foldl resumeOp (askPage (pageAnswered s p page s.hostl.ats.failures) p (page * 4096)) := by
  unfold pageResp
  simp only [waiting_pos_iff]
  rfl

theorem pageResp_failed {code : Nat} (hcode : code ≠ 0) : pageResp s p page code =
    (parkedOn s p page).foldl pageGone (chanPageGone (pageAnswered s p page (min (s.hostl.ats.failures + 1) (2 ^ 64 - 1))) p page) := by
  unfold pageResp
  simp only [waiting_pos_iff, if_neg hcode]
  rfl

theorem invalDone_of_ne_nil (h : s.hostl.ats.inval ≠ []) :
    invalDone s = { s with hostl := { s.hostl with ats := { s.hostl.ats with inval := s.hostl.ats.inval.filter fun e => inRange s e.1 e.2.1 e.2.2 } } } := if_neg h

end Pages

/-! ## Loss of the host (R282 to R284) -/

/-- A fold keeps what each of its steps keeps. -/
theorem foldl_keeps {α β γ : Type*} (part : β → γ) {f : β → α → β} (hf : ∀ s a, part (f s a) = part s) (l : List α) (s : β) : part (l.foldl f s) = part s :=
  List.foldlRecOn (motive := fun t => part t = part s) l f rfl fun t ht a _ => (hf t a).trans ht

theorem evGP_hostl (s : State) (kind id code arg : Nat) : (evGP s kind id code arg).hostl = s.hostl := by
  refine (foldl_keeps State.hostl (fun t p => ?_) _ _).trans rfl
  split <;> rfl

theorem accept_hostl (s : State) (o : Op) (onChan : Bool) : (accept s o onChan).hostl = s.hostl := by
  have begins (ch : Option Nat) : (clusBegins s ch).hostl = s.hostl := by
    unfold clusBegins
    repeat' split
    all_goals rfl
  exact begins _

theorem watchGo_hostl (s : State) (t : Nat) : (watchGo s t).hostl = s.hostl := by
  unfold watchGo
  dsimp only
  split
  · rfl
  split
  · rfl
  · exact accept_hostl _ _ _

theorem watchSkip_hostl (s : State) (o : Op) (t : Nat) : (watchSkip s o t).hostl = s.hostl :=
  (watchGo_hostl _ t).trans (delOp_hostl s o.id)

theorem parkMove_hostl (s : State) (o : Op) : (parkMove s o).hostl = s.hostl := by
  unfold parkMove
  split <;> rfl

/-- What a block that was attached knows of its host link once it has detached (R282): the cause and the moment, one more detachment, and no translation. -/
theorem detach_hostl {s : State} (cause : Nat) (hattached : s.hostl.detached = false) :
    (detach s cause).hostl = { s.hostl with
      detached := true, detachCause := cause, detaches := min (s.hostl.detaches + 1) 0xFFFF, lostAt := s.now,
      ats := { s.hostl.ats with cache := [], asked := [], pri := [], inval := [] } } := by
  unfold detach
  rw [if_neg (by simp [hattached])]
  refine (foldl_keeps State.hostl (fun t e => ?channel) _ _).trans ((foldl_keeps State.hostl (fun t o => ?operation) _ _).trans (evGP_hostl _ _ _ _ _))
  case channel => split <;> rfl
  case operation =>
    split
    · split
      · exact watchSkip_hostl t o _
      · exact parkMove_hostl t _
    · rfl

theorem detach_detached {s : State} (cause : Nat) (h : s.hostl.detached = true) : detach s cause = s := if_pos h

/-- A tag of the host ports that is orphaned when the host has been lost for 1 ms (R283). -/
def orphanTag (t : Tag) : Tag := if (t.port = 20 || t.port = 21) && !t.orphan then { t with orphan := true } else t

theorem orphanHost_tags (s : State) : (orphanHost s).tags = s.tags.map orphanTag := by
  refine (foldl_keeps State.tags (fun u i => ?_) _ _).trans rfl
  split <;> rfl

theorem orphanTag_orphan (t : Tag) (h : (orphanTag t).port = 20 ∨ (orphanTag t).port = 21) : (orphanTag t).orphan = true := by
  unfold orphanTag at h ⊢
  split
  · rfl
  · next hkept =>
    rw [if_neg hkept] at h
    simpa [h] using hkept

theorem linkDown_io {s : State} {hp : Nat} (hio : hp = s.hostl.ioPort) :
    linkDown s hp = retryOps (detach { s with hostl := if hp = 0 then { s.hostl with hp0mode := 0 } else { s.hostl with hp1mode := 0 } } 0) := if_pos hio

theorem linkDown_other {s : State} {hp : Nat} (hother : hp ≠ s.hostl.ioPort) :
    linkDown s hp = retirePort { s with hostl := if hp = 0 then { s.hostl with hp0mode := 0 } else { s.hostl with hp1mode := 0 } } (20 + hp) 0 := if_neg hother

/-- A write of REATTACH sets no reserved bit (R284). -/
theorem exec_reattach (m0 m1 : BitVec 2) (s : State) : exec (.reattach 1 (m0, m1)) s = written s (reattach (linksUp s m0.toNat m1.toNat)) := rfl

theorem reattach_linkDown {s : State} (hdown : ioUp s = false) : reattach s = { s with hostl := { s.hostl with reatterr := true } } := by
  unfold reattach
  exact if_pos (by simp [hdown])

/-- Settles O30: each event arises under its hypotheses; nothing that detaching or orphaning does besides touches the host link's state or the tags. -/
theorem hostEventsTakeEffect : Obligations.HostEventsTakeEffect := by
  refine ⟨⟨?translation, ?page, ?invalidation, ?snoop⟩, ?linkDown, ?hotReset, ?overdue, ?detach, ?orphan, ?controller, ?reattach⟩
  case translation =>
    intro p page log s hasked
    exact ⟨happens_of_true _ s _ hasked, happens_of_true _ s _ hasked⟩
  case page =>
    intro p page code s houtstanding
    have hexec : exec (.pageResponse p page code) s = .next (settle (pageResp s p.toNat page.toNat code.toNat)) := happens_of_true _ s _ houtstanding
    rw [hexec]
    refine ⟨fun hcode => ?_, fun hcode => ?_⟩
    · subst hcode
      exact congrArg (fun t => Host.Outcome.next (settle t)) pageResp_success
    · rw [pageResp_failed (by simpa [BitVec.toNat_eq] using hcode)]
      simp only [if_neg hcode]
      rfl
  case invalidation =>
    intro p page n s
    refine (happens_of_true true s _ rfl).trans (congrArg (fun t => Host.Outcome.next (settle t)) ?_)
    exact invalDone_of_ne_nil (by simp)
  case snoop =>
    intro p line s
    exact ⟨happens_of_true true s _ rfl, happens_of_true true s _ rfl⟩
  case linkDown =>
    intro hp s hup
    have hexec : exec (.hostLinkDown hp) s = .next (settle (linkDown s hp.toNat)) := happens_of_true _ s _ (decide_eq_true hup)
    exact ⟨fun hio => hexec.trans (by rw [linkDown_io hio]), fun hother => hexec.trans (by rw [linkDown_other hother])⟩
  case hotReset =>
    intro s
    exact happens_of_true true s _ rfl
  case overdue =>
    intro s hlate
    exact happens_of_true _ s _ hlate
  case detach =>
    intro s cause
    refine ⟨fun hattached => ?_, detach_detached cause⟩
    rw [detach_hostl cause hattached]
    exact ⟨rfl, rfl, rfl⟩
  case orphan =>
    intro s hdue
    refine ⟨happens_of_true _ s _ hdue, fun t ht hport => ?_⟩
    rw [orphanHost_tags] at ht
    obtain ⟨u, -, rfl⟩ := List.mem_map.mp ht
    exact orphanTag_orphan u hport
  case controller =>
    intro s
    exact happens_of_true true s _ rfl
  case reattach =>
    intro m0 m1 s
    dsimp only
    intro hready
    rw [exec_reattach, written_of_ready s _ hready]
    refine ⟨fun _ _ => rfl, fun hdown => ?_⟩
    exact congrArg (fun t => Host.Outcome.next (settle t)) (reattach_linkDown hdown)

end Sys2Proof.Machine

/-! Proofs for the streams and their traffic: packets with and without a turn, replay, relink and the cutoff of a LAND (chapters 8 and 9 of the spec). -/

namespace Sys2Proof.Machine

/-! ## Packets that are received (R249, R250) -/

section Received

variable {s : State} {h : Hdr} {typ bytes p : Nat} {f : State → Nat → State}

theorem peerUp_of_packetOk (hok : packetOk s h typ p = true) : peerUp s = true := by
  simp only [packetOk, Bool.and_eq_true] at hok
  obtain ⟨⟨⟨⟨⟨hup, -⟩, -⟩, -⟩, -⟩, -⟩ := hok
  exact hup

theorem happens_receive (hok : packetOk s h typ p = true) : happens (peerUp s) s (receive s h typ bytes f) = .next (settle (f (headed s h typ bytes p) p)) := by
  rw [happens_of_true _ s _ (peerUp_of_packetOk hok), receive_ok s h typ bytes p f hok]

theorem happens_sequenced (hok : packetOk s h typ p = true) (hturn : inTurn s h typ bytes p = true) :
    happens (peerUp s) s (sequenced s h typ bytes f) = .next (settle (f (taken s h typ bytes p) p)) := by
  rw [happens_of_true _ s _ (peerUp_of_packetOk hok), sequenced_ok s h typ bytes p f hok hturn]

/-- A packet with a wrong check value is counted and answered with a NAK, whatever its own effect would be (R250). -/
theorem receive_crcBad (hcrc : h.crcOk = false) :
    let t := (s.gadd 0x248 1).gadd 0x160 (pktBytes bytes)
    receive s h typ bytes f = sendNak (peerCount t 1 1) ((tagPart t h.jobtag.toNat).getD 0) h.src.toNat h.cls.toNat false := by
  simp only [receive, hcrc, Bool.not_false, if_true]

end Received

/-- Packets that are a header alone are received with no payload, in their turn or at once. -/
theorem exec_headerRow (h : Hdr) : ∀ k ∈ [Instr.ack h, .nak h, .decline h, .rdone h], ∃ typ f, ∀ s, exec k s = happens (peerUp s) s (receive s h typ 0 f) := by
  repeat
    rw [List.forall_mem_cons]
    refine ⟨⟨_, _, fun _ => rfl⟩, ?_⟩
  exact List.forall_mem_nil _

/-! ## HELLO (R253) -/

/-- What the streams with a carrier have that was not acknowledged goes out again. -/
def sendUnacked (s : State) (p k : Nat) : State :=
  [0, 1, 2].foldl (fun s c => ((s.stream k c).unacked).foldl (fun s q => txPkt s p k q.typ c q.seq (outBytes q)) s) s

/-- The streams with a carrier are open in the lower of version 2 and the version that the carrier's HELLO names. -/
def Peer.openedAt (v : Peer) (maxVer : Nat) : Peer := { v with opened := true, refused := false, down := false, ver := min maxVer 2 }

/-- A HELLO of the partition's job opens the streams; only an answer to streams that are open does nothing. -/
theorem helloIn_opens {s : State} {h : Hdr} {maxVer ncarr jobtag p : Nat} (hok : packetOk s h pHello p = true) :
    let t := headed s h pHello 64 p
    let k := h.src.toNat
    let u := (if (t.peer k).opened then reopen t k else t).setPeer k ((t.peer k).openedAt maxVer)
    ncarr = jobSize t p → jobtag = jobTag t p → maxVer ≠ 0 → ((t.peer k).opened && bitOf h.arg.toNat 0) = false →
    helloIn s h maxVer ncarr jobtag = sendUnacked (if bitOf h.arg.toNat 0 then u else sendHello u p k) p k := by
  intro t k u hsize htag hver hopens
  unfold helloIn
  rw [receive_ok s h pHello 64 p _ hok]
  dsimp only
  rw [if_neg (by simp [t, hsize, htag, hver]), if_neg (by simpa using hopens)]
  rfl

/-! ## NAK, replay and relink (R251, R252) -/

/-- A NAK acknowledges what comes before the number it expects; BUSY has the stream wait, otherwise it is sent again from there. -/
theorem nakIn_ok {s : State} {h : Hdr} {p : Nat} (hok : packetOk s h pNak p = true) :
    let k := h.src.toNat
    let cls := h.cls.toNat
    let e := bitsOf h.arg.toNat 23 0
    let t := ackStream (headed s h pNak 0 p) k cls e
    nakIn s h = if bitOf h.arg.toNat 32 then (peerCount t 4 1).setStream k cls { t.stream k cls with txBusy := true, progress := t.now } else resend t k cls e :=
  receive_ok s h pNak 0 p _ hok

/-- A stream without progress, not told to wait, is sent again from its oldest packet, and the attempt is counted. -/
theorem replay_resends {s : State} {k cls : Nat} {q : OutPkt} {l : List OutPkt} (hunacked : (s.stream k cls).unacked = q :: l)
    (hbusy : (s.stream k cls).txBusy = false) (hleft : (s.stream k cls).resends < retryMax s) :
    replay s k cls = resend (s.setStream k cls { s.stream k cls with resends := (s.stream k cls).resends + 1, progress := s.now }) k cls q.seq := by
  unfold replay
  dsimp only
  rw [if_neg (by simp [hleft]), hunacked]
  simp [hbusy]

theorem locate_relink : locate 0xB3588 = some ⟨⟨.relink, 0xB3588, 32, [0x1FFFF], [0x1FFFF], 1, 1, 1, 1⟩, 0, 0, 0xB3588⟩ := rfl

/-- Bit 16 of PRG_PEER_RELINK is 0 where the value is a carrier's number. -/
theorem relinkPut_carrier (s : State) (k : BitVec 16) : relinkPut s k.toNat = relinkOne s k.toNat := by
  have hall : bitOf k.toNat 16 = false := Nat.testBit_lt_two_pow k.isLt
  have hcarrier : bitsOf k.toNat 15 0 = k.toNat := Nat.mod_eq_of_lt k.isLt
  simp [relinkPut, hall, hcarrier]

/-! ## The cutoff of a LAND (R223) -/

theorem cutoff_due {s : State} {i d : Nat} {o : Op} {l : LandOp} (hop : s.op i = some o) (hkind : o.kind = .land l) (hcutD : l.cutD = true) (hcut : l.cut = false)
    (hphase : o.phase ≠ .ending) (hdue : o.due = some d) (hlate : d ≤ s.now) : cutoff s i = some ((setLand s o { l with cut := true }).todo (.tryOp o.id)) := by
  simp [cutoff, landCut, hop, hkind, hcutD, hcut, hphase, hdue, hlate]

/-- Settles O24: a packet that passes the header's checks has its own effect, one with a wrong check value is answered before any; timers, the relink register and the deadline act under
their hypotheses. -/
theorem streamsTakeEffect : Obligations.StreamsTakeEffect := by
  refine ⟨⟨?hello, ?ack, ?nak⟩, ?crc, ?replay, ?relink, ?relinkAll, ?cutoff⟩
  case hello =>
    intro h mv nc jt s p
    dsimp only
    intro hok hsize htag hver
    have hver' : mv.toNat ≠ 0 := fun h0 => hver (BitVec.eq_of_toNat_eq h0)
    have hexec : exec (.hello h mv nc jt) s = .next (settle (helloIn s h mv.toNat nc.toNat jt.toNat)) := happens_of_true _ s _ (peerUp_of_packetOk hok)
    have hopens := helloIn_opens hok hsize htag hver'
    rw [hexec]
    refine ⟨fun hclosed hcall => ?_, fun hclosed hanswer => ?_, fun hopened hcall => ?_⟩
    · rw [hopens (by simp [hclosed]), if_neg (by simp [hcall]), if_neg (by simp [hclosed])]
      rfl
    · rw [hopens (by simp [hclosed]), if_pos hanswer, if_neg (by simp [hclosed])]
      rfl
    · rw [hopens (by simp [hcall]), if_neg (by simp [hcall]), if_pos hopened]
      rfl
  case ack =>
    intro h s p hok
    exact happens_receive hok
  case nak =>
    intro h s p
    dsimp only
    intro hok
    have hexec : exec (.nak h) s = .next (settle (nakIn s h)) := happens_of_true _ s _ (peerUp_of_packetOk hok)
    rw [hexec, nakIn_ok hok]
    exact ⟨fun hfree => by rw [if_neg (by simp [hfree])], fun hbusy => by rw [if_pos hbusy]⟩
  case crc =>
    intro h s k hk hup hcrc
    obtain ⟨typ, f, hexec⟩ := exec_headerRow h k hk
    rw [hexec, happens_of_true _ s _ hup, receive_crcBad hcrc]
    rfl
  case replay =>
    intro dst cls s q l
    dsimp only
    intro hunacked hup hopen hlate hrun hbusy hleft
    rw [← replay_resends hunacked hbusy hleft]
    exact happens_of_true _ s _ (by simp [replayDue, hunacked, hup, hopen, hlate, hrun])
  case relink =>
    intro k s hok
    exact wrote_emu locate_relink rfl hok (k.isLt.trans (by decide)) (by decide) (relinkPut_carrier s k)
  case relinkAll =>
    intro s hok
    exact wrote_emu locate_relink rfl hok (by decide) (by decide) rfl
  case cutoff =>
    intro i s o l d hop hkind hcutD hcut hphase hdue hlate
    exact arises_some (cutoff_due hop hkind hcutD hcut hphase hdue hlate)

/-- Settles O26: a packet that comes in its turn has its own effect, and the cases of its ID and of what waits for it are the branches of that effect. -/
theorem trafficPacketsTakeEffect : Obligations.TrafficPacketsTakeEffect := by
  refine ⟨?shardreq, ?xnotice, ?cnotice, ?data, ?rdone, ?decline⟩
  case shardreq =>
    intro h shard sq rows s p
    dsimp only
    intro hok hturn
    refine ⟨fun hchan => (happens_sequenced hok hturn).trans ?_, fun hgrp => (happens_sequenced hok hturn).trans ?_⟩
    · simp only [hchan, if_true]
    · simp only [hgrp, Bool.false_eq_true, if_false]
  case xnotice =>
    intro h ix rl e pr s p
    dsimp only
    intro hok hturn
    exact happens_sequenced hok hturn
  case cnotice =>
    intro h st ln s p
    dsimp only
    intro hok hturn hlow hhigh
    exact (happens_sequenced hok hturn).trans (congrArg (fun t => Host.Outcome.next (settle t)) (if_neg (by omega)))
  case data =>
    intro h bs s p
    dsimp only
    intro hok hturn
    have hexec : exec (.data h bs) s = _ := happens_sequenced hok hturn
    rw [hexec]
    refine ⟨fun hgrp => ?_, fun o v hchan hlow hrecv => ?_, fun o c hchan hhigh hcontrib hphase hoff => ?_⟩
    · simp only [hgrp, Bool.not_false, if_true]
    · simp only [hchan, Bool.not_true, Bool.false_eq_true, if_false, Nat.not_le.mpr hlow, hrecv]
    · simp only [hchan, Bool.not_true, Bool.false_eq_true, if_false, hhigh, if_true, hcontrib, hphase, hoff, ne_eq, not_true_eq_false, or_self]
  case rdone =>
    intro h s p hok hturn
    exact happens_sequenced hok hturn
  case decline =>
    intro h s p
    dsimp only
    intro hok hturn
    exact happens_sequenced hok hturn

end Sys2Proof.Machine

/-! Proofs for the semaphores and the barrier tree: a semaphore's queue, its registers, Hawthorn packets (chapter 09 of the spec). -/

namespace Sys2Proof.Machine

/-! ## What the end of a wait leaves alone (R98, R238) -/

theorem Noted.sem {s t : State} (h : Noted s t) (n : Nat) : t.sem n = s.sem n := congrArg (fun l => tget l n ({} : Sem)) h.sems

theorem noted_traceEnd (s : State) (c : Nat) (by_ : Party) : Noted s (traceEnd s c by_) := by
  unfold traceEnd
  dsimp only
  split
  · exact .ite (.refl s) (noted_trace ..)
  · exact .refl s

theorem noted_unwait (s : State) (c : Nat) : Noted s (unwait s c) := (noted_cadd s c _ _).trans (noted_modCtx _ c _)

theorem noted_retireBy (s : State) (c len : Nat) : Noted s (retireBy s c len) := noted_modCtx s c _

theorem noted_retireWait (s : State) (c len : Nat) (by_ : Party) : Noted s (retireWait s c len by_) :=
  ((noted_traceEnd s c by_).trans (noted_unwait _ c)).trans (noted_retireBy _ c len)

theorem noted_waitDone (s : State) (c : Nat) (by_ : Party) (handle result : Nat) : Noted s (waitDone s c by_ handle result) := by
  unfold waitDone
  split
  · exact ((noted_retireWait s c 16 by_).trans (noted_complete ..)).trans (noted_todo ..)
  · exact .refl s

theorem noted_storeWake (s : State) : Noted s (storeWake s) := noted_foldl _ (fun _ _ => noted_todo ..) _ s

/-! ## A semaphore's queue (R236, R237) -/

/-- A waiter that has its amount goes on: a context's WAIT completes with the value that is left, an object goes on to be sealed. -/
def waiterGoes (s : State) (by_ : Party) (val : Nat) : SemWaiter → State
  | .ctx c _ => waitDone s c by_ 0 val
  | .sealing x _ => s.todo (.sealing x)

theorem noted_waiterGoes (s : State) (by_ : Party) (val : Nat) (w : SemWaiter) : Noted s (waiterGoes s by_ val w) := by
  cases w with
  | ctx c _ => exact noted_waitDone s c by_ 0 val
  | sealing x _ => exact noted_todo s _

section Service

variable {s : State} {n f : Nat} {by_ : Party} {w : SemWaiter} {q : List SemWaiter}

theorem serveSem_nil (hq : (s.sem n).q = []) : serveSem f s n by_ = s := by
  cases f with
  | zero => rfl
  | succ f => simp only [serveSem, hq]

/-- The state once the head of the queue has been given its amount. -/
def headServed (s : State) (n : Nat) (by_ : Party) (w : SemWaiter) (q : List SemWaiter) : State :=
  let val := (s.sem n).val - waiterAmt w
  waiterGoes (s.setSem n { s.sem n with val := val, q := q }) by_ val w

theorem headServed_sem : (headServed s n by_ w q).sem n = { s.sem n with val := (s.sem n).val - waiterAmt w, q := q } :=
  ((noted_waiterGoes ..).sem n).trans (sem_setSem ..)

/-- A head whose amount is there is served, and the queue behind it next. -/
theorem serveSem_served (hq : (s.sem n).q = w :: q) (hamt : waiterAmt w ≤ (s.sem n).val) :
    serveSem (f + 1) s n by_ = serveSem f (headServed s n by_ w q) n by_ := by
  cases w <;> simp only [serveSem, hq] <;> exact if_pos hamt

/-- A head that asks for more than the value blocks the queue; HOL records that one behind it could have been served. -/
theorem serveSem_blocked (hq : (s.sem n).q = w :: q) (hamt : (s.sem n).val < waiterAmt w) :
    serveSem (f + 1) s n by_ = if q.any (fun v => waiterAmt v ≤ (s.sem n).val) then s.setSem n { s.sem n with hol := true } else s := by
  cases w <;> simp only [serveSem, hq] <;> exact if_neg (Nat.not_le.mpr hamt)

/-- A blocked queue keeps its waiters, and the semaphore its value. -/
theorem serveSem_blocked_sem (hq : (s.sem n).q = w :: q) (hamt : (s.sem n).val < waiterAmt w) :
    ((serveSem (f + 1) s n by_).sem n).q = w :: q ∧ ((serveSem (f + 1) s n by_).sem n).val = (s.sem n).val := by
  rw [serveSem_blocked hq hamt]
  split
  · rw [sem_setSem]
    exact ⟨hq, rfl⟩
  · exact ⟨hq, rfl⟩

end Service

/-- Settles O52, by induction on the bound of the waiters served: a head that is served stands in front of those served after it. -/
theorem aSemaphoreServesItsQueueInOrder : Obligations.ASemaphoreServesItsQueueInOrder := by
  intro s n who f hf
  induction f generalizing s with
  | zero => exact absurd hf (Nat.not_lt_zero _)
  | succ f ih =>
    cases hq : (s.sem n).q with
    | nil =>
      rw [serveSem_nil hq, hq]
      exact ⟨[], rfl, rfl, fun _ _ h => nomatch h⟩
    | cons w q =>
      by_cases hamt : waiterAmt w ≤ (s.sem n).val
      · have hsem := headServed_sem (s := s) (n := n) (by_ := who) (w := w) (q := q)
        rw [serveSem_served hq hamt]
        obtain ⟨l, hl, hsum, hhead⟩ := ih (headServed s n who w q) (by simpa [hsem, hq] using hf)
        rw [hsem] at hl hsum
        dsimp only at hl hsum
        refine ⟨w :: l, congrArg (w :: ·) hl, ?_, hhead⟩
        rw [List.map_cons, List.sum_cons]
        omega
      · obtain ⟨hkept, hval⟩ := serveSem_blocked_sem (f := f) (by_ := who) hq (Nat.not_le.mp hamt)
        rw [hkept, hval]
        refine ⟨[], rfl, rfl, fun v r hv => ?_⟩
        obtain ⟨rfl, -⟩ := List.cons.inj hv
        exact Nat.not_le.mp hamt

/-! ## PRG_SEM_ADD and PRG_SEM (R236, R238) -/

/-- A write whose ones all stand in a register's fields is no reserved-bit error. -/
theorem rsvNote_lowBits {v k : Nat} (s : State) (off : Nat) (hv : v < 2 ^ k) : rsvNote s off v (2 ^ k - 1) = s := by
  refine if_pos (Nat.eq_of_testBit_eq fun j => ?_)
  conv_lhs => rw [← Nat.and_two_pow_sub_one_of_lt_two_pow hv]
  rw [Nat.testBit_or, Nat.testBit_and, Bool.or_comm, Bool.and_comm]
  exact sup_inf_self

section Registers

variable {s : State} {n v : Nat}

/-- A semaphore after an addition, before its queue is served. -/
def Sem.added (m : Sem) (amt : Nat) (who : Party) : Sem :=
  { m with val := min (m.val + amt) 0xFFFF, sat := m.sat || decide (0xFFFF < m.val + amt), sig := if amt = 0 then m.sig else lastFour m.sig who }

/-- An addition takes effect and leaves its event and its trace; then the queue and the contexts that wait for an entry of the store have their turn. -/
theorem semAddTo_serves (s : State) (n amt : Nat) (who : Party) :
    ∃ t, Noted (s.setSem n ((s.sem n).added amt who)) t ∧ semAddTo s n amt who = storeWake (serveSem 32769 t n who) :=
  ⟨_, (Noted.ite (noted_raiseEv ..) (.refl _)).trans (.ite (.refl _) (noted_trace ..)), rfl⟩

theorem semAddTo_sem {amt : Nat} {who : Party} (hq : (s.sem n).q = []) : (semAddTo s n amt who).sem n = (s.sem n).added amt who := by
  obtain ⟨t, hnoted, hserves⟩ := semAddTo_serves s n amt who
  have hsem : t.sem n = (s.sem n).added amt who := (hnoted.sem n).trans (sem_setSem ..)
  rw [hserves, (noted_storeWake _).sem, serveSem_nil (hsem ▸ hq), hsem]

/-- PRG_SEM_ADD adds its field. -/
theorem semAdd_field (hv : v < 2 ^ 16) (hpos : 0 < v) : semAdd s n v = semAddTo s n v .none := by
  have hfield : bitsOf v 15 0 = v := Nat.mod_eq_of_lt hv
  rw [semAdd, hfield, if_neg hpos.ne']

/-- A semaphore after a write of PRG_SEM that meets no addition: the value is written, and a 1 clears a flag. -/
def Sem.written (m : Sem) (v : Nat) : Sem :=
  { m with val := v % 65536, sat := m.sat && !v.testBit 16, hol := m.hol && !v.testBit 17, lost := m.lost && !v.testBit 18 }

theorem semWrite_sem (hq : (s.sem n).q = []) : (semWrite s n v 0).sem n = (s.sem n).written v := by
  simp only [semWrite, if_true, sem_setSem, ne_eq, not_true_eq_false, decide_false, Bool.or_false]
  rw [serveSem_nil (by simp [hq])]
  exact sem_setSem ..

end Registers

/-- Settles O23: a write of the fields alone reaches the semaphore as it is; with nobody waiting the semaphore is as the addition or the write left it. -/
theorem semaphoreRegistersTakeEffect : Obligations.SemaphoreRegistersTakeEffect := by
  refine ⟨?add, ?added, ?write⟩
  case add =>
    intro n v s hready hpos hv
    have hfields : rsvNote s (0x38000 + 4 * n.toNat) v.toNat 0xFFFF = s := rsvNote_lowBits (k := 16) s _ hv
    rw [← semAdd_field hv hpos, ← written_of_ready s _ hready]
    exact congrArg (fun t => written s (semAdd t n.toNat v.toNat)) hfields
  case added =>
    intro n s amt who
    dsimp only
    intro hq hpos
    rw [semAddTo_sem hq, Sem.added, if_neg hpos.ne']
  case write =>
    intro n v s hready hv
    dsimp only
    intro hq
    have hfields : rsvNote s (0x30000 + 4 * n.toNat) v.toNat 0xFFFFF = s := rsvNote_lowBits (k := 20) s _ hv
    rw [← written_of_ready s _ hready]
    exact ⟨congrArg (fun t => written s (semWrite t n.toNat v.toNat 0)) hfields, semWrite_sem hq⟩

/-! ## Hawthorn packets (R244, R245) -/

section Hawthorn

variable {s : State} {h : Hdr} {n slot gen typ p : Nat}

/-- A Hawthorn packet that comes in its turn reaches the node, with the slot and the generation, that its ID and ARG name (Table 9.2). -/
theorem happens_hawIn {f : State → Nat → Nat → Nat → State} (hok : packetOk s h typ p = true) (hturn : inTurn s h typ 64 p = true) :
    happens (peerUp s) s (hawIn s h typ f) = .next (settle (f (taken s h typ 64 p) (bitsOf h.id.toNat 5 0) (bitsOf h.id.toNat 11 8) h.arg.toNat)) :=
  happens_sequenced hok hturn

/-- The first token of a slot in the group's generation arrives at the node (R244). -/
theorem tokenIn_arrives (t : Tuple) (hgen : genOk s n gen = true) (hinner : nodeLeaf s n = false) (hslot : (kidSlots s n).contains slot = true)
    (hfirst : ((s.node n).arrived.any fun e => e.1 = slot) = false) : tokenIn s n slot gen t = arriveNode 8 s n slot t :=
  if_pos (by simp only [tokenOk, hgen, hinner, hslot, hfirst, Bool.not_false, Bool.and_self])

theorem verifyIn_reaches (ref : Tuple) (hgen : genOk s n gen = true) : verifyIn s n gen ref = verifyNode 8 s n gen ref := if_pos hgen

/-- The first reply of a slot to a verify pass stands behind those that came before; the last one of a node's children sends their sum on (R245). -/
theorem vreplyIn_taken (ndis carr : Nat) (hgen : genOk s n gen = true) (hpass : (s.node n).verifying = true) (hslot : (kidSlots s n).contains slot = true)
    (hfirst : ((s.node n).replies.any fun r => r.1 = slot) = false) :
    let replies := (s.node n).replies ++ [(slot, ndis, carr)]
    let w := s.setNode n { s.node n with replies := replies }
    vreplyIn s n slot gen ndis carr =
      if replies.length = (kidSlots w n).length then replyUp 8 w n gen (replies.foldl (fun a r => addDis a (r.2.1, r.2.2)) (0, 0)) else w :=
  if_neg (by simp only [hgen, hpass, hslot, hfirst, Bool.not_true, Bool.or_self, Bool.false_eq_true, not_false_eq_true])

/-- A release of the group's generation, or of the one before it, releases a node where something has arrived (R245). -/
theorem releaseIn_releases (by_ : Nat) (mismatch : Bool) (carr ndis : Nat) (hnode : nodeValid s n = true) (hbar : barValid s (nodeGrp s n) = true)
    (hgen : (s.bar (nodeGrp s n)).gen = gen ∨ (s.bar (nodeGrp s n)).gen = (gen + 1) % 2 ^ 32) (harrived : (s.node n).arrived ≠ []) :
    releaseIn s n gen by_ mismatch carr ndis = releaseNode 8 s n gen by_ mismatch carr ndis :=
  if_pos (by simp only [hnode, hbar, Bool.and_eq_true, Bool.or_eq_true, decide_eq_true_eq, hgen, harrived, ne_eq, not_false_eq_true, and_self])

end Hawthorn

/-- Settles O25: each packet reaches the node of its ID, and the hypotheses about the node are the tests that it makes of the packet. -/
theorem hawthornPacketsTakeEffect : Obligations.HawthornPacketsTakeEffect := by
  intro h t s p
  refine ⟨fun hok hturn => ?token, fun hok hturn => ?verify, fun hok hturn => ?vreply, fun hok hturn => ?release⟩
  case token =>
    intro u hgen hinner hslot hfirst
    rw [← tokenIn_arrives (tupleOf t) hgen hinner hslot hfirst]
    exact happens_hawIn hok hturn
  case verify =>
    intro u hgen
    rw [← verifyIn_reaches (tupleOf t) hgen]
    exact happens_hawIn hok hturn
  case vreply =>
    intro u replies w hgen hpass hslot hfirst
    rw [← vreplyIn_taken t.ndis.toNat t.carr.toNat hgen hpass hslot hfirst]
    exact happens_hawIn hok hturn
  case release =>
    intro u hnode hbar hgen harrived
    rw [← releaseIn_releases h.src.toNat t.mismatch t.carr.toNat t.ndis.toNat hnode hbar hgen harrived]
    exact happens_hawIn hok hturn

end Sys2Proof.Machine

/-! Proofs for the ports: responses to the block's own requests and requests of others (chapter 10 of the spec). -/

namespace Sys2Proof.Machine

theorem next_settle_congr {t u : State} (h : t = u) : (.next (settle t) : Out) = .next (settle u) := congrArg _ (congrArg settle h)

/-! ## Responses (R260, R262) -/

section Responses

variable {s : State} {n tag st : Nat} {wr poison last : Bool} {t : Tag}

/-- What a beat of status `st` counts at the port of its tag: the reserved status in PROTO, the first beat that is not OK in ERRRESP. -/
def respCounted (s : State) (n st : Nat) (t : Tag) : State :=
  let u := if st = 3 then protoCount s n else s
  if st ≠ 0 ∧ t.err = false then errCount u n else u

/-- What the operation of a tag learns from a beat of status `st`: the reserved status means ERR. -/
def respMarked (s : State) (n st : Nat) (t : Tag) (poisoned : Bool) : State := markBad (respCounted s n st t) t (if st = 3 then 1 else st) poisoned

theorem counted_tags : (if st = 3 then protoCount s n else s).tags = s.tags := by
  split <;> rfl

/-- A beat to a tag in use. -/
theorem portResp_found (hheard : deaf s n = false) (hfind : (s.tags.find? fun t => t.port = n && t.tag = tag && t.wr = wr) = some t) :
    portResp s n tag wr st poison last =
      let v := respMarked s n st t (poison && (s.port n).rev = 1 && !wr)
      if t.orphan then if last then tagEnds (respCounted s n st t) t else respCounted s n st t
      else if last then tagEnds v t
      else { v with tags := v.tags.map fun u => if u = t then { t with err := t.err || st ≠ 0 } else u } := by
  unfold portResp
  dsimp only
  rw [if_neg (by simp [hheard]), counted_tags, hfind]
  simp only [respMarked, respCounted, Bool.not_eq_true']

/-- An OK beat to a tag that is not in use. -/
theorem portResp_unknown (hheard : deaf s n = false) (hfind : (s.tags.find? fun t => t.port = n && t.tag = tag && t.wr = wr) = none) :
    portResp s n tag wr 0 poison last = protoCount s n := by
  unfold portResp
  dsimp only
  rw [if_neg (by simp [hheard]), counted_tags, hfind]
  rfl

theorem portResp_lastBeat (hheard : deaf s n = false) (hfind : (s.tags.find? fun t => t.port = n && t.tag = tag && t.wr = wr) = some t) (hserves : t.orphan = false) :
    portResp s n tag wr st poison true = tagEnds (respMarked s n st t (poison && (s.port n).rev = 1 && !wr)) t := by
  simp [portResp_found hheard hfind, hserves]

theorem portResp_earlierBeat (hheard : deaf s n = false) (hfind : (s.tags.find? fun t => t.port = n && t.tag = tag && t.wr = wr) = some t) (hserves : t.orphan = false) :
    let v := respMarked s n st t (poison && (s.port n).rev = 1 && !wr)
    portResp s n tag wr st poison false = { v with tags := v.tags.map fun u => if u = t then { t with err := t.err || st ≠ 0 } else u } := by
  simp [portResp_found hheard hfind, hserves]

theorem portResp_orphan (hheard : deaf s n = false) (hfind : (s.tags.find? fun t => t.port = n && t.tag = tag && t.wr = wr) = some t) (horphan : t.orphan = true) :
    portResp s n tag wr st poison last = if last then tagEnds (respCounted s n st t) t else respCounted s n st t := by
  simp [portResp_found hheard hfind, horphan]

theorem exec_readResponse (port : BitVec 5) (tag : BitVec 12) (st : BitVec 2) (poison last : Bool) (s : State) :
    exec (.readResponse port tag st poison last) s = .next (settle (portResp s port.toNat tag.toNat false st.toNat poison last)) :=
  happens_of_true true s _ rfl

theorem exec_writeResponse (port : BitVec 5) (tag : BitVec 12) (st : BitVec 2) (s : State) :
    exec (.writeResponse port tag st) s = .next (settle (portResp s port.toNat tag.toNat true st.toNat false true)) :=
  happens_of_true true s _ rfl

theorem exec_h2dResponse (hp : BitVec 1) (slot : BitVec 11) (poison : Bool) (s : State) :
    exec (.h2dResponse hp slot poison) s = .next (settle (invalDone (hostResp s hp.toNat slot.toNat poison))) :=
  happens_of_true true s _ rfl

/-- The status as the response carries it, in two bits. -/
theorem respCounted_status (s : State) (n : Nat) (st : BitVec 2) (t : Tag) :
    respCounted s n st.toNat t =
      let u := if st = 3 then protoCount s n else s
      if st ≠ 0 ∧ t.err = false then errCount u n else u := by
  simp [respCounted, BitVec.toNat_eq]

theorem respMarked_status (s : State) (n : Nat) (st : BitVec 2) (t : Tag) (poisoned : Bool) :
    respMarked s n st.toNat t poisoned = markBad (respCounted s n st.toNat t) t (if st = 3 then 1 else st.toNat) poisoned := by
  simp [respMarked, BitVec.toNat_eq]

end Responses

/-! ## The end of a tag -/

theorem lineDone_tags (s : State) (o : Op) : (lineDone s o).tags = s.tags := by
  unfold lineDone
  split
  · rfl
  · dsimp only
    split <;> rfl

/-- The tag's end frees it. A tag of PP also lets a packet that waited take its place (R261). -/
theorem tagEnds_tags (s : State) {t : Tag} (hport : t.port ≠ 22) : (tagEnds s t).tags = s.tags.erase t := by
  unfold tagEnds
  dsimp only
  rw [if_neg hport]
  split
  · rfl
  split
  · rw [todo_tags, lineDone_tags, setOp_tags]
    split <;> rfl
  · rfl

/-! ## What a response says of its operation (R262) -/

section Marks

variable {s : State} {t : Tag} {o : Op} {k eff : Nat} {poisoned : Bool}

/-- A transfer keeps the lowest of its bursts that failed; a read-back and an auxiliary read are none of its bursts. -/
def faultKept (o : Op) (t : Tag) (k : Nat) : Xfer := if t.rb = true ∨ t.ax = true then o.x else { o.x with fault := some (min (o.x.fault.getD k) k) }

theorem markBad_bad (hop : s.op t.op = some o) (hport : t.port ≠ 22) (hpos : t.pos = some k) (hbad : eff ≠ 0 ∨ poisoned = true) :
    markBad s t eff poisoned =
      let x := faultKept o t k
      s.setOp { o with x := if eff = 2 ∨ t.wr = true then { x with bad := 0x30 } else if t.rb = true then { x with bad := 0x12 } else { x with srcBad := true } } := by
  have hmarks : ¬(t.port = 22 ∨ t.pos = none ∨ (eff = 0 ∧ (!poisoned) = true)) := by
    simpa [hport, hpos, imp_iff_not_or] using hbad
  unfold markBad
  rw [hop]
  dsimp only
  rw [if_neg hmarks, hpos]
  rfl

theorem markBad_good : markBad s t 0 false = s := by
  unfold markBad
  split
  · exact if_pos (.inr (.inr ⟨rfl, rfl⟩))
  · rfl

theorem markBad_decerr (hop : s.op t.op = some o) (hport : t.port ≠ 22) (hpos : t.pos = some k) :
    markBad s t 2 poisoned = s.setOp { o with x := { faultKept o t k with bad := 0x30 } } := by
  simp [markBad_bad hop hport hpos (eff := 2) (.inl (by decide))]

theorem markBad_write (hop : s.op t.op = some o) (hport : t.port ≠ 22) (hpos : t.pos = some k) (hwr : t.wr = true) :
    markBad s t 1 false = s.setOp { o with x := { faultKept o t k with bad := 0x30 } } := by
  simp [markBad_bad hop hport hpos (eff := 1) (.inl (by decide)), hwr]

theorem markBad_readBack (hop : s.op t.op = some o) (hport : t.port ≠ 22) (hpos : t.pos = some k) (hrd : t.wr = false) (hrb : t.rb = true) :
    markBad s t 1 false = s.setOp { o with x := { faultKept o t k with bad := 0x12 } } := by
  simp [markBad_bad hop hport hpos (eff := 1) (.inl (by decide)), hrd, hrb]

/-- A read with ERR and a read with a poisoned beat lose the data at the source. -/
theorem markBad_read (hop : s.op t.op = some o) (hport : t.port ≠ 22) (hpos : t.pos = some k) (hrd : t.wr = false) (hrb : t.rb = false)
    (hbad : eff ≠ 0 ∨ poisoned = true) (heff : eff ≠ 2) : markBad s t eff poisoned = s.setOp { o with x := { faultKept o t k with srcBad := true } } := by
  simp [markBad_bad hop hport hpos hbad, heff, hrd, hrb]

end Marks

/-! ## Responses of the host ports (R274, R277) -/

section HostResponses

variable {s : State} {hp slot : Nat} {poison : Bool} {t : Tag}

/-- The time of the last response is noted, whichever slot it names. -/
def hostHeard (s : State) : State := { s with hostl := { s.hostl with lastRsp := s.now } }

theorem hostResp_found (hheard : deaf s (20 + hp) = false) (hfind : (s.tags.find? fun t => t.port = 20 + hp && t.tag = slot) = some t) :
    hostResp s hp slot poison = tagEnds (if t.orphan then hostHeard s else markBad (hostHeard s) t 0 (poison && !t.wr)) t := by
  unfold hostResp
  dsimp only
  rw [if_neg (by simp [hheard]), hfind]
  rfl

theorem hostResp_unknown (hheard : deaf s (20 + hp) = false) (hfind : (s.tags.find? fun t => t.port = 20 + hp && t.tag = slot) = none) :
    hostResp s hp slot poison = protoCount (hostHeard s) (20 + hp) := by
  unfold hostResp
  dsimp only
  rw [if_neg (by simp [hheard]), hfind]
  rfl

end HostResponses

/-- Settles O27: a beat counts, marks and ends as the tag it names says; the marks are the branches of `markBad`, and nothing that follows a tag's end frees another. -/
theorem responsesTakeEffect : Obligations.ResponsesTakeEffect := by
  refine ⟨?read, ?write, ?unknown, fun s n => ⟨rfl, rfl⟩, fun s t hport => tagEnds_tags s hport, ?marks, ?host, ?hostUnknown⟩
  case read =>
    intro port tag st poison last s t
    dsimp only
    intro hheard hfind
    rw [exec_readResponse, ← respCounted_status, ← respMarked_status]
    refine ⟨fun hserves hlast => ?_, fun hserves hlast => ?_, fun horphan => ?_⟩
    · subst hlast
      rw [portResp_lastBeat hheard hfind hserves, Bool.not_false, Bool.and_true]
    · subst hlast
      rw [portResp_earlierBeat hheard hfind hserves, Bool.not_false, Bool.and_true]
      simp only [BitVec.toNat_eq, ne_eq]
      rfl
    · rw [portResp_orphan hheard hfind horphan]
  case write =>
    intro port tag st s t
    dsimp only
    intro hheard hfind
    rw [exec_writeResponse, ← respCounted_status, ← respMarked_status]
    refine ⟨fun hserves => ?_, fun horphan => ?_⟩
    · rw [portResp_lastBeat hheard hfind hserves, Bool.false_and, Bool.false_and]
    · rw [portResp_orphan hheard hfind horphan, if_pos rfl]
  case unknown =>
    intro port tag poison last s hheard
    rw [exec_readResponse, exec_writeResponse]
    refine ⟨fun hfind => ?_, fun hfind => ?_⟩
    · exact next_settle_congr (portResp_unknown hheard hfind)
    · exact next_settle_congr (portResp_unknown hheard hfind)
  case marks =>
    intro s t o k hop hport hpos
    dsimp only
    exact ⟨fun hrd hrb => ⟨markBad_read hop hport hpos hrd hrb (.inl (by decide)) (by decide), markBad_read hop hport hpos hrd hrb (.inr rfl) (by decide)⟩,
      markBad_readBack hop hport hpos, markBad_write hop hport hpos, fun _ => markBad_decerr hop hport hpos, markBad_good⟩
  case host =>
    intro hp slot poison s t
    dsimp only
    intro hheard hfind
    rw [exec_h2dResponse, hostResp_found hheard hfind]
    rfl
  case hostUnknown =>
    intro hp slot poison s hheard hfind
    rw [exec_h2dResponse, hostResp_unknown hheard hfind]
    rfl

/-! ## Target requests (R263, R266, R267) -/

section Targets

variable {s : State} {n src tag a len : Nat} {bs : List Byte} {po la : Bool}

theorem targetReq_read (hsrc : s.srcRst.contains (n, src) = false) (hheard : deaf s n = false) (hpp : n ≠ 22) :
    targetReq s n src tag false a len bs po la =
      if t0Allocated s a (32 * (len + 1)) then tAnswer s n ⟨src, tag, false, 0, rdBytes s.mem (tqa 0 a) (32 * (len + 1))⟩ else tAnswer s n ⟨src, tag, false, 2, []⟩ := by
  unfold targetReq
  dsimp only
  rw [if_neg (not_or.mpr ⟨ne_true_of_eq_false hsrc, ne_true_of_eq_false hheard⟩), if_pos (by rfl)]
  cases ht : t0Allocated s a (32 * (len + 1)) <;> simp [hpp]

/-- The beats of the target write that the source's tag names are taken up. -/
def partialDone (s : State) (n src tag : Nat) : State := { s with partials := s.partials.filter fun p => !(p.port = n && p.src = src && p.tag = tag) }

/-- A target write whose first beat is its last. -/
theorem targetReq_write (hsrc : s.srcRst.contains (n, src) = false) (hheard : deaf s n = false)
    (hfirst : (s.partials.find? fun p => p.port = n && p.src = src && p.tag = tag) = none) :
    targetReq s n src tag true a len bs po true = targetWrite (partialDone s n src tag) n src tag a (32 * (len + 1)) bs (po && (s.port n).rev = 1) := by
  unfold targetReq
  dsimp only
  rw [if_neg (not_or.mpr ⟨ne_true_of_eq_false hsrc, ne_true_of_eq_false hheard⟩), if_neg (by decide), hfirst]
  rfl

theorem targetWrite_elsewhere (hpp : n ≠ 22) (halloc : t0Allocated s a len = false) : targetWrite s n src tag a len bs po = tAnswer s n ⟨src, tag, true, 2, []⟩ := by
  simp [targetWrite, hpp, halloc]

theorem targetWrite_poisoned (hpp : n ≠ 22) (halloc : t0Allocated s a len = true) : targetWrite s n src tag a len bs true = tAnswer s n ⟨src, tag, true, 1, []⟩ := by
  simp [targetWrite, hpp, halloc]

theorem targetWrite_stores (hpp : n ≠ 22) (halloc : t0Allocated s a len = true) :
    targetWrite s n src tag a len bs false = tAnswer (s.store (tqa 0 a) (bs.take len)) n ⟨src, tag, true, 0, []⟩ := by
  simp [targetWrite, hpp, halloc]

/-- The tensor ports have target channels. -/
theorem exec_targetRequest {port : BitVec 5} {src : BitVec 6} {tag : BitVec 12} {wr : Bool} {a : BitVec 56} {len : Byte} (hport : port.toNat < 16) :
    exec (.targetRequest port src tag wr a len bs po la) s = .next (settle (targetReq s port.toNat src.toNat tag.toNat wr a.toNat len.toNat bs po la)) :=
  happens_of_true _ s _ (by simp [hport])

end Targets

/-- Settles O28: a tensor port takes requests, and a write of one beat reaches `targetWrite` at once, whose branches are the three answers. -/
theorem targetRequestsTakeEffect : Obligations.TargetRequestsTakeEffect := by
  refine ⟨?read, ?write, ?sourceReset, ?sourceResetEnd⟩
  case read =>
    intro port src tag a len bs po la s
    dsimp only
    intro hport hsrc hheard
    rw [exec_targetRequest hport, targetReq_read hsrc hheard (by omega)]
    exact ⟨fun halloc => by rw [if_pos halloc], fun halloc => by rw [if_neg (ne_true_of_eq_false halloc)]⟩
  case write =>
    intro port src tag a len bs po s
    dsimp only
    intro hport hsrc hheard hfirst
    have hpp : port.toNat ≠ 22 := by omega
    rw [exec_targetRequest hport, targetReq_write hsrc hheard hfirst]
    refine ⟨fun halloc hclean => ?_, fun halloc hpo hrev => ?_, fun halloc => ?_⟩
    · rw [hclean]
      exact next_settle_congr (targetWrite_stores hpp halloc)
    · rw [hpo, decide_eq_true hrev, Bool.and_true]
      exact next_settle_congr (targetWrite_poisoned hpp halloc)
    · exact next_settle_congr (targetWrite_elsewhere hpp halloc)
  case sourceReset =>
    intro port src s hport
    exact happens_of_true _ s _ (by simpa using hport)
  case sourceResetEnd =>
    intro port src s hreset
    exact happens_of_true _ s _ hreset

end Sys2Proof.Machine

/-! Proofs for the resets, and for the window before READY (chapter 10 of the spec). -/

namespace Sys2Proof.Machine

/-! ## Before READY (R289) -/

section Unready

variable {s t : State}

theorem written_of_unready (h : s.ready = false) : written s t = .next s := by
  simp [written, h]

theorem hostWrite_of_unready {off width v : Nat} {r : RdRes} (h : s.ready = false) (hoff : off / 8 ≠ 1) : hostWrite s off width v r = s := by
  simp [hostWrite, h, hoff]

end Unready

/-- Each command that is a write of the hardware region is `written`, whatever its effect. -/
theorem exec_hardwareRow (c ch : BitVec 8) (slot : BitVec 1) (tag : BitVec 24) (p : BitVec 4) (q : BitVec 12) (l : Byte) (n : BitVec 13) (port : BitVec 5) (h : W64)
    (v : W32) (hw : BitVec 16) (modes : BitVec 2 × BitVec 2) :
    ∀ k ∈ [Instr.load c slot tag, .start c slot tag, .stopDrain c slot tag, .stopAbort c slot tag, .resume c slot tag, .reset c slot tag, .unload c slot tag, .chanDoorbell ch h,
      .chanEnable ch, .chanDisableDrain ch, .chanDisableAbort ch, .partEnable p, .partDisableDrain p, .partDisableAbort p, .cqHeadWrite q v, .stuckClear l, .semWrite n v hw,
      .semAdd n v, .portRetire port, .portReset port, .restore port, .reattach v modes], ∃ f : State → State, ∀ s, exec k s = written s (f s) := by
  repeat
    rw [List.forall_mem_cons]
    refine ⟨⟨_, fun _ => rfl⟩, ?_⟩
  exact List.forall_mem_nil _

/-- Settles O40: the window drops such a write, and what is `written` waits for READY. -/
theorem writesBeforeReadyAreIgnored : Obligations.WritesBeforeReadyAreIgnored := by
  refine ⟨?window, ?commands⟩
  case window =>
    intro off width v s hready hoff
    refine (happens_of_true _ s _ (by simp [hready])).trans ?_
    rw [hostWrite_of_unready hready hoff]
  case commands =>
    intro s k c ch slot tag p q l n port h v hw modes hk hready
    obtain ⟨f, hexec⟩ := exec_hardwareRow c ch slot tag p q l n port h v hw modes k hk
    rw [hexec, written_of_unready hready]

/-! ## Resets (R287, R288) -/

theorem locate_resetCtl : locate 0x50008 = some ⟨⟨.resetCtl, 0x50008, 32, [0xFF000F03], [0xFF000F03], 1, 0x1, 1, 1⟩, 0, 0, 0x50008⟩ := rfl

/-- KIND 2 with CONFIRM resets the partition that PART names. -/
theorem resetCtlPut_partition (s : State) (p : BitVec 4) : resetCtlPut s (2 + 256 * p.toNat + 2 ^ 24 * 0x5A) = partReset s p.toNat := by
  have hconfirm : bitsOf (2 + 256 * p.toNat + 2 ^ 24 * 0x5A) 31 24 = 0x5A := by
    simp only [bitsOf, Nat.shiftRight_eq_div_pow]
    omega
  have hkind : bitsOf (2 + 256 * p.toNat + 2 ^ 24 * 0x5A) 1 0 = 2 := by
    simp only [bitsOf, Nat.shiftRight_eq_div_pow]
    omega
  have hpart : bitsOf (2 + 256 * p.toNat + 2 ^ 24 * 0x5A) 11 8 = p.toNat := by
    simp only [bitsOf, Nat.shiftRight_eq_div_pow]
    omega
  rw [resetCtlPut, if_pos ⟨hconfirm, hkind⟩, hpart]

/-- Settles O31: the two pins are always heard, PRG_RESET_CTL asks for its CONFIRM byte. -/
theorem resetsTakeEffect : Obligations.ResetsTakeEffect := by
  refine ⟨fun u s => happens_of_true true s _ rfl, fun u s => happens_of_true true s _ rfl, ?warm, ?unconfirmed, ?partition⟩
  case warm =>
    intro u s hready
    refine (happens_of_true true s _ rfl).trans ?_
    rw [hready]
    rfl
  case unconfirmed =>
    intro confirm u s hconfirm
    refine (happens_of_true true s _ rfl).trans ?_
    rw [decide_eq_false hconfirm, Bool.and_false, if_neg Bool.false_ne_true]
  case partition =>
    intro p s hok
    exact wrote_hw locate_resetCtl rfl hok (by omega) (by decide) (resetCtlPut_partition s p)

end Sys2Proof.Machine

/-! Proofs for the firmware complex: lock leases, the log unit, the clock check, throttling; with the droop pin (chapters 10 and 11 of the spec). -/

namespace Sys2Proof.Machine

/-! ## Lock leases (R298) -/

section Locks

variable {s : State} {l n m : Nat} {cores : List Nat} {release : Bool}

theorem leaseOver_of_free (hfree : (s.lock l).holder = none) : leaseOver s l = false := by
  simp [leaseOver, hfree]

theorem leaseOver_of_running (hlasts : s.now < (s.lock l).expires) : leaseOver s l = false := by
  simp [leaseOver, hlasts]

theorem lockTake_free (hfree : (s.lock l).holder = none) : lockTake s l (n :: cores) = s.setLock l { s.lock l with holder := some n, expires := s.now + 10000000 } := by
  simp [lockTake, leaseOver_of_free hfree, hfree, leaseNs]

theorem lockTake_held (hheld : (s.lock l).holder = some m) (hlasts : s.now < (s.lock l).expires) : lockTake s l cores = s := by
  cases cores <;> simp [lockTake, leaseOver_of_running hlasts, hheld]

theorem lockAgain_holder (hheld : (s.lock l).holder = some n) (hlasts : s.now < (s.lock l).expires) :
    lockAgain s l n release = (s.setCore n { s.core n with lost := none }).setLock l
      (if release then { s.lock l with holder := none } else { s.lock l with expires := s.now + 10000000 }) := by
  unfold lockAgain
  dsimp only
  rw [if_neg (ne_true_of_eq_false (leaseOver_of_running hlasts)), if_pos hheld]
  rfl

theorem lockAgain_other (hheld : (s.lock l).holder = some m) (hlasts : s.now < (s.lock l).expires) (hother : m ≠ n) :
    lockAgain s l n release = s.setCore n { s.core n with lost := some l } := by
  simp [lockAgain, leaseOver_of_running hlasts, hheld, hother]

theorem leaseExpire_held (hheld : (s.lock l).holder = some n) :
    leaseExpire s l = fwFlag (s.setLock l { s.lock l with holder := none, expiries := min ((s.lock l).expiries + 1) (2 ^ 32 - 1) }) 3 0x25 13 l n := by
  unfold leaseExpire
  dsimp only
  rw [hheld]
  rfl

/-- Of the cores that write the lock, those that run ask for it. -/
theorem exec_lockAcquire (l : BitVec 6) (cores : BitVec 11) (s : State) :
    exec (.lockAcquire l cores) s = .next (settle (lockTake s l.toNat ((List.range 11).filter fun k => bitOf cores.toNat k && (s.core k).up))) := by
  have hasking : ((List.range coreCount).filter fun k => bitOf cores.toNat k && coreRuns s k) = (List.range 11).filter fun k => bitOf cores.toNat k && (s.core k).up :=
    List.filter_congr fun k hk => by simp [coreRuns, List.mem_range.mp hk]
  exact (happens_of_true true s _ rfl).trans (by rw [hasking])

end Locks

/-! ## Commands of a core that runs -/

section Running

variable {s : State} {core : BitVec 4} (hn : core.toNat < 11) (hup : (s.core core.toNat).up = true)
include hn hup

theorem coreRuns_of_up : coreRuns s core.toNat = true := by
  simp [coreRuns, coreCount, hn, hup]

theorem exec_lockRenew (l : BitVec 6) : exec (.lockRenew l core) s = .next (settle (lockAgain s l.toNat core.toNat false)) :=
  happens_of_true _ s _ (coreRuns_of_up hn hup)

theorem exec_lockRelease (l : BitVec 6) : exec (.lockRelease l core) s = .next (settle (lockAgain s l.toNat core.toNat true)) :=
  happens_of_true _ s _ (coreRuns_of_up hn hup)

theorem exec_logRecord {sev : Byte} (hsev : sev.toNat < 4) (code : BitVec 16) (a0 a1 : W64) :
    exec (.logRecord sev core code a0 a1) s = .next (settle (logRecord s sev.toNat core.toNat code.toNat a0.toNat a1.toNat)) :=
  happens_of_true _ s _ (by simp [coreRuns_of_up hn hup, hsev])

end Running

/-! ## The log unit (R305) -/

section Log

variable {s : State} {sev core code a0 a1 : Nat}

theorem logRecord_unwanted (h : logWanted s sev code = false) : logRecord s sev core code a0 a1 = s := by
  simp [logRecord, h]

theorem logRecord_room (h : logWanted s sev code = true) (hroom : s.fw.logBuf.length < logBufSize) :
    let r := pack [(0, 8, sev), (8, 8, core), (16, 16, code), (32, 32, s.fw.logSeq), (64, 64, s.now), (128, 64, a0), (192, 64, a1)]
    logRecord s sev core code a0 a1 = logDrain logBufSize { s with fw := { s.fw with logSeq := (s.fw.logSeq + 1) % 2 ^ 32, logBuf := s.fw.logBuf ++ [r] } } := by
  unfold logRecord
  dsimp only
  rw [if_neg (by simp [h]), if_pos hroom]

theorem logRecord_full (h : logWanted s sev code = true) (hfull : logBufSize ≤ s.fw.logBuf.length) :
    logRecord s sev core code a0 a1 = { s with fw := { s.fw with logSeq := (s.fw.logSeq + 1) % 2 ^ 32, logDrop := min (s.fw.logDrop + 1) (2 ^ 32 - 1) } } := by
  unfold logRecord
  dsimp only
  rw [if_neg (by simp [h]), if_neg (Nat.not_lt.mpr hfull)]
  rfl

end Log

/-! ## The clock check and the throttle level (R306, R307) -/

section Limits

variable {s : State} {mhz : Nat} {l : List Int}

/-- The measured frequency, with the monitor's trim, is more than 0.5% above the limit. -/
abbrev TooFast (s : State) (mhz : Nat) : Prop :=
  (if s.bist.clk then clkCeil s else (Config.calFactory 10).toNat * 95 / 100) * 1005 * 1000000 < mhz * (1000000 + (calNow s 11).toNat) * 1000

/-- The measurement and its verdict are noted. -/
def freqNoted (s : State) (mhz : Nat) : State :=
  { s with fw := { s.fw with mhz := mhz * (1000000 + (calNow s 11).toNat) / 1000000, overclk := TooFast s mhz } }

theorem freqCheck_quiet (h : ¬TooFast s mhz ∨ (s.fw.overclk = true ∧ bitOf s.fw.event 5 = true)) : freqCheck s mhz = freqNoted s mhz := by
  refine if_neg fun hraise => ?_
  obtain ⟨hfast, hnew⟩ := hraise
  rcases h with hslow | ⟨hknown, hflag⟩
  · exact hslow hfast
  · simp [hknown, hflag] at hnew

theorem freqCheck_raises (hfast : TooFast s mhz) (hnew : s.fw.overclk = false ∨ bitOf s.fw.event 5 = false) :
    freqCheck s mhz = fwFlag (freqNoted s mhz) 5 0x27 0 0 (mhz * (1000000 + (calNow s 11).toNat) / 1000000) :=
  if_pos ⟨hfast, by simpa [imp_iff_not_or] using hnew⟩

theorem throttle_running (hbelow : levelFor s (hottest s l) ≠ 3) (hran : s.fw.level ≠ 3) :
    throttle s l = { s with fw := { s.fw with
      temp := hottest s l, level := levelFor s (hottest s l),
      onsets := if s.fw.level = 0 ∧ levelFor s (hottest s l) ≠ 0 then min (s.fw.onsets + 1) 0xFFFF else s.fw.onsets } } := by
  unfold throttle
  dsimp only
  rw [if_neg fun h => hbelow h.1, if_neg fun h => hran h.2]
  rfl

theorem throttle_stops (hstop : levelFor s (hottest s l) = 3) (hran : s.fw.level ≠ 3) :
    throttle s l = fwFlag { s with fw := { s.fw with
      temp := hottest s l, level := 3, onsets := if s.fw.level = 0 then min (s.fw.onsets + 1) 0xFFFF else s.fw.onsets, stops := min (s.fw.stops + 1) 0xFFFF, stopAt := s.now } }
      6 1 0 0 (hottest s l % 2 ^ 32).toNat := by
  simp [throttle, hstop, hran, satAdd]

end Limits

/-- Settles O34: a lease that lasts is not over, a core that runs is heard, and each clause is a branch of its event's effect. -/
theorem locksLogsAndLimitsTakeEffect : Obligations.LocksLogsAndLimitsTakeEffect := by
  refine ⟨⟨?acquire, ?again, ?expire⟩, ?foreign, ⟨?logged, ?unlogged, ?clock, ?level, ?stop⟩, ?fall, ?rise, ?hold⟩
  case acquire =>
    intro l cores n s hfirst hfree
    obtain ⟨rest, hcores⟩ := List.head?_eq_some_iff.mp hfirst
    rw [exec_lockAcquire, hcores, lockTake_free hfree]
  case again =>
    intro l n s hn hup hheld hlasts
    dsimp only
    rw [exec_lockRenew hn hup, exec_lockRelease hn hup, lockAgain_holder hheld hlasts, lockAgain_holder hheld hlasts]
    exact ⟨rfl, rfl⟩
  case expire =>
    intro l s n hheld hover
    rw [← leaseExpire_held hheld]
    exact happens_of_true _ s _ (by simp [leaseOver, hheld, hover])
  case foreign =>
    intro l m s hheld hlasts
    refine ⟨fun cores => ?_, fun n hn hup hother => ?_⟩
    · rw [exec_lockAcquire, lockTake_held hheld hlasts]
    · rw [exec_lockRenew hn hup, exec_lockRelease hn hup, lockAgain_other hheld hlasts hother, lockAgain_other hheld hlasts hother]
      exact ⟨rfl, rfl⟩
  case logged =>
    intro sev n code a0 a1 s hn hup hsev hwanted hroom
    rw [exec_logRecord hn hup hsev, logRecord_room hwanted hroom]
  case unlogged =>
    intro sev n code a0 a1 s hn hup hsev
    rw [exec_logRecord hn hup hsev]
    exact ⟨fun hwanted hfull => by rw [logRecord_full hwanted hfull], fun hunwanted => by rw [logRecord_unwanted hunwanted]⟩
  case clock =>
    intro mhz s
    dsimp only
    intro huntested
    have hexec : exec (.frequencyCheck mhz) s = .next (settle (freqCheck s mhz)) := happens_of_true _ s _ (by simp [huntested])
    rw [hexec]
    exact ⟨fun hquiet => by rw [freqCheck_quiet hquiet]; rfl, fun hfast hnew => by rw [freqCheck_raises hfast hnew]; rfl⟩
  case level =>
    intro l s hbelow hran
    rw [← throttle_running hbelow hran]
    exact happens_of_true true s _ rfl
  case stop =>
    intro l s hstop hran
    rw [← throttle_stops hstop hran]
    exact happens_of_true true s _ rfl
  case fall =>
    intro s hhigh
    refine (happens_of_true true s _ rfl).trans ?_
    rw [droopEdge, if_neg (ne_true_of_eq_false hhigh)]
    rfl
  case rise =>
    intro s hlow
    refine (happens_of_true true s _ rfl).trans ?_
    rw [droopEdge, if_pos hlow]
  case hold =>
    intro s hon hhigh hheld
    exact happens_of_true _ s _ (by simp [hon, hhigh, hheld])

end Sys2Proof.Machine

/-! Proofs for the firmware complex: its cores, its images, the freeze of a hard stop (chapter 11 of the spec). -/

namespace Sys2Proof.Machine

/-! ## A hard stop (R307) -/

theorem happens_of_false (can : Bool) (s t : State) (h : can = false) : happens can s t = .next s := by
  rw [happens, if_neg (ne_true_of_eq_false h)]

theorem arises_none {s : State} {u : Option State} (h : u = none) : arises s u = .next s := by rw [h]; rfl

theorem whenSo_of_false {can : Bool} {s : State} (h : can = false) : whenSo can s = none := if_neg (ne_true_of_eq_false h)

section Stopped

variable {s : State} (hstop : frozen s = true)
include hstop

theorem watchdogDue_of_frozen (c : Nat) : watchdogDue s c = false := by
  simp [watchdogDue, hstop]

theorem sealOverdue_of_frozen (x : Nat) : sealOverdue s x = false := by
  simp [sealOverdue, hstop]

theorem inputsOverdue_of_frozen (o : Op) (r : Recipe) : inputsOverdue s o r = false := by
  simp [inputsOverdue, hstop]

/-- Whatever recipe an operation is, its inputs are not overdue. -/
theorem inputWait_of_frozen (i : Nat) : ((recipeOf s i).bind fun e => whenSo (inputsOverdue s e.1 e.2) (failRecipe s e.1 e.2 0x3F true)) = none :=
  Option.bind_eq_none_iff.mpr fun e _ => whenSo_of_false (inputsOverdue_of_frozen hstop e.1 e.2)

theorem portOverdue_of_frozen (n : Nat) (response : Bool) : portOverdue s n response = false := by
  simp [portOverdue, hstop]

theorem stepOverdue_of_frozen (cl tag : Nat) : stepOverdue s cl tag = false := by
  simp [stepOverdue, hstop]

theorem lineStuck_of_frozen (l : Nat) : lineStuck s l = false := by
  simp [lineStuck, hstop]

theorem clusterHung_of_frozen (k : Nat) : clusterHung s k = false := by
  simp [clusterHung, hstop]

theorem hostOverdue_of_frozen : hostOverdue s = false := by
  simp [hostOverdue, hstop]

theorem orphanDue_of_frozen : orphanDue s = false := by
  simp [orphanDue, hstop]

end Stopped

/-- Settles O41: no condition under which one of these events arises holds while the hard stop lasts. -/
theorem aHardStopFreezesTheTimers : Obligations.AHardStopFreezesTheTimers := by
  intro s k c x i port resp cl tag dst cls l q hk hstop
  simp only [List.mem_cons, List.not_mem_nil, or_false] at hk
  rcases hk with rfl | rfl | rfl | rfl | rfl | rfl | rfl | rfl | rfl | rfl | rfl
  · exact happens_of_false _ s _ (watchdogDue_of_frozen hstop _)
  · exact happens_of_false _ s _ (sealOverdue_of_frozen hstop _)
  · exact arises_none (inputWait_of_frozen hstop i)
  · exact happens_of_false _ s _ (portOverdue_of_frozen hstop _ _)
  · exact happens_of_false _ s _ (by rw [stepOverdue_of_frozen hstop, Bool.and_false])
  · exact happens_of_false _ s _ (by rw [hstop, Bool.not_true, Bool.and_false])
  · exact happens_of_false _ s _ (lineStuck_of_frozen hstop _)
  · exact happens_of_false _ s _ (clusterHung_of_frozen hstop _)
  · exact arises_none (if_pos (.inl hstop))
  · exact happens_of_false _ s _ (hostOverdue_of_frozen hstop)
  · exact happens_of_false _ s _ (orphanDue_of_frozen hstop)

/-! ## Cores (R293, R296) -/

section Cores

variable {s : State} {core : BitVec 4}

theorem startCore_up (n : Nat) : ((startCore s n).core n).up = true :=
  congrArg Core.up (core_setCore s n _)

theorem fwFlag_core (bit code kind id arg n : Nat) : (fwFlag s bit code kind id arg).core n = s.core n := rfl

theorem freeLocks_core (k n : Nat) : (freeLocks s k).core n = s.core n := rfl

theorem coreDown_up (n cause : Nat) (recent : List Nat) : ((coreDown s n cause recent).core n).up = false := by
  rw [coreDown, fwFlag_core, freeLocks_core, core_setCore]

theorem exec_heartbeatTimeout (hn : core.toNat < 11) (hup : (s.core core.toNat).up = true) (hlate : (s.core core.toNat).started + hbeatNs s ≤ s.now) :
    exec (.heartbeatTimeout core) s = .next (settle (restartCore s core.toNat 1)) :=
  happens_of_true _ s _ (by simp [coreRuns_of_up hn hup, hlate])

theorem exec_protectionFault {why : CoreFault} (hn : core.toNat < 11) (hup : (s.core core.toNat).up = true) (hfaults : coreFaults s core.toNat why = true) :
    exec (.protectionFault core why) s = .next (settle (restartCore s core.toNat (if why = .memErr then 3 else 2))) :=
  happens_of_true _ s _ (by rw [coreRuns_of_up hn hup, hfaults, Bool.and_self])

theorem exec_coreRejoin (hn : core.toNat < 11) (hheld : (s.core core.toNat).up = false) (hst : s.fw.st = 1 ∨ s.fw.st = 2) :
    exec (.coreRejoin core) s = .next (settle (rejoined s core.toNat)) :=
  happens_of_true _ s _ (by simp [coreCount, hn, hheld, hst])

theorem restartCmd_up {n : Nat} (hn : n < 11) (hup : (s.core n).up = true) : restartCmd s n = restartCore s n 4 := by
  rw [restartCmd, if_neg (show ¬coreCount ≤ n from Nat.not_le.mpr hn), if_pos hup]

end Cores

/-! ## Commands of PRG_FW_CTL (R296, R300) -/

section Commands

variable {s : State}

theorem locate_fwCtl : locate 0x60008 = some ⟨⟨.fwCtl, 0x60008, 32, [0xFF0000FF], [0xFF0000FF], 1, 0x1, 1, 1⟩, 0, 0, 0x60008⟩ := rfl

theorem fwCtlPut_restart (s : State) (n : BitVec 4) : fwCtlPut s (cmdWord 1 n.toNat 0x5A) = restartCmd s n.toNat := by
  have hconfirm : bitsOf (cmdWord 1 n.toNat 0x5A) 31 24 = 0x5A := by
    simp only [bitsOf, cmdWord, Nat.shiftRight_eq_div_pow]
    omega
  have hcmd : bitsOf (cmdWord 1 n.toNat 0x5A) 3 0 = 1 := by
    simp only [bitsOf, cmdWord, Nat.shiftRight_eq_div_pow]
    omega
  have hcore : bitsOf (cmdWord 1 n.toNat 0x5A) 7 4 = n.toNat := by
    simp only [bitsOf, cmdWord, Nat.shiftRight_eq_div_pow]
    omega
  rw [fwCtlPut, if_neg (not_not_intro hconfirm), hcmd, hcore]
  rfl

theorem exec_restartCore {n : BitVec 4} (hn : n.toNat < 11) (hup : (s.core n.toNat).up = true) (hok : writeOk s 0x60008 32 (cmdWord 1 n.toNat 0x5A) = true) :
    exec (.restartCore n 0x5A) s = .next (settle (restartCore s n.toNat 4)) :=
  wrote_hw locate_fwCtl rfl hok (by unfold cmdWord; omega) (by decide) ((fwCtlPut_restart s n).trans (restartCmd_up hn hup))

theorem exec_update (hok : writeOk s 0x60008 32 (cmdWord 2 0 0x5A) = true) : exec (.update 0x5A) s = .next (settle (update s)) :=
  wrote_hw locate_fwCtl rfl hok (by decide) (by decide) rfl

theorem exec_switch (hok : writeOk s 0x60008 32 (cmdWord 3 0 0x5A) = true) : exec (.switch 0x5A) s = .next (settle (switchSlot s)) :=
  wrote_hw locate_fwCtl rfl hok (by decide) (by decide) rfl

theorem exec_discard (hok : writeOk s 0x60008 32 (cmdWord 4 0 0x5A) = true) : exec (.discard 0x5A) s = .next (settle (discard s)) :=
  wrote_hw locate_fwCtl rfl hok (by decide) (by decide) rfl

theorem switchSlot_staged (hup : (s.core 0).up = true) (hstaged : s.fw.staged = true) : switchSlot s = complexRestart s (otherSlot s) false := by
  simp [switchSlot, hup, hstaged]

theorem discard_staged (hstaged : s.fw.staged = true) :
    discard s = { setImage s (otherSlot s) none with fw := { (setImage s (otherSlot s) none).fw with staged := false } } := if_pos hstaged

end Commands

/-! ## Images: the copy's end, acceptance, the instrument (R299 to R301) -/

section Images

variable {s : State} {o : Op} {a len : Nat}

theorem exec_imageStaged {im : FwImage} (hcopy : updCopy s = some (o, a, len)) (hended : copyEnded s o = true) :
    exec (.imageStaged im) s = .next (settle (imageStaged s o a len im.sigOk)) :=
  arises_some (by rw [staged?, hcopy]; exact if_pos hended)

/-- The update's copy is done with, its operation gone. -/
def copyOver (s : State) (o : Op) : State := { s.delOp o.id with fw := { s.fw with copying := false } }

theorem imageStaged_good {sigOk : Bool} (hphase : o.phase ≠ .ending) (hstatus : plainStatus o = 0) (hgood : imageOk (readImage s o.req.part a len sigOk) = true) :
    let t := setImage (copyOver s o) (otherSlot (copyOver s o)) (some (readImage s o.req.part a len sigOk))
    imageStaged s o a len sigOk = { t with fw := { t.fw with staged := true } } := if_neg (by simp [hphase, hstatus, hgood])

theorem imageStaged_bad {sigOk : Bool} (hbad : o.phase = .ending ∨ plainStatus o ≠ 0 ∨ imageOk (readImage s o.req.part a len sigOk) = false) :
    imageStaged s o a len sigOk = updErr (copyOver s o) := if_pos (by simpa using hbad)

theorem judged?_accepts (hst : s.fw.st = 2) (hnew : s.fw.accepted = false) (hgood : startable s = true) (htime : s.now ≤ s.fw.started + acceptNs s) :
    judged? s 0x7FF = some (retryOps (if shadow (acceptImage s) then acceptImage s else flushQueue (acceptImage s))) := by
  simp [judged?, allBeat, hst, hnew, hgood, htime]

theorem judged?_rejects (hst : s.fw.st = 2) (hnew : s.fw.accepted = false) (hbad : startable s = false) : judged? s 0x7FF = some (rejectImage s) := by
  simp [judged?, allBeat, hst, hnew, hbad]

theorem exec_imageInstrumentWrite {im : FwImage} {u : PowerUp} (hawaits : awaitsImage s = true) (hlive : s.lc.inForce ≠ 4) :
    exec (.imageInstrumentWrite im u) s = .next (settle (powerUp { s with fw := { s.fw with imgA := some im } } u)) :=
  (happens_of_true _ s _ hawaits).trans (by rw [if_neg hlive])

end Images

/-- Settles O33: a core that runs is restarted by its events and a held one rejoins, a command of PRG_FW_CTL that takes effect is its own, a copy's end and a judgement go by their image. -/
theorem coresAndImagesTakeEffect : Obligations.CoresAndImagesTakeEffect := by
  refine ⟨⟨?restart, ?rejoin, fun n cause s recent _ => coreDown_up n cause recent⟩, ?update, ?copied, ?switch, ?discard, ?judge, ?instrument⟩
  case restart =>
    intro n s hn hup
    refine ⟨exec_heartbeatTimeout hn hup, fun why hfaults hwhy => ?_, exec_protectionFault hn hup rfl, exec_restartCore hn hup⟩
    rw [exec_protectionFault hn hup hfaults, if_neg hwhy]
  case rejoin =>
    intro n s hn hheld hst
    exact ⟨exec_coreRejoin hn hheld hst, startCore_up n.toNat⟩
  case update =>
    intro s hok _ _
    exact exec_update hok
  case copied =>
    intro im s o a len hcopy hended
    dsimp only
    rw [exec_imageStaged hcopy hended]
    exact ⟨fun hphase hstatus hgood => by rw [imageStaged_good hphase hstatus hgood]; rfl, fun hbad => by rw [imageStaged_bad hbad]; rfl⟩
  case switch =>
    intro s hok hup hstaged
    rw [exec_switch hok, switchSlot_staged hup hstaged]
  case discard =>
    intro s hok hstaged
    rw [exec_discard hok, discard_staged hstaged]
  case judge =>
    intro s hst hnew
    exact ⟨fun hgood htime => arises_some (judged?_accepts hst hnew hgood htime), fun hbad => arises_some (judged?_rejects hst hnew hbad)⟩
  case instrument =>
    intro im u s hawaits hlive
    exact exec_imageInstrumentWrite hawaits hlive

end Sys2Proof.Machine

/-! Proofs for the step itself and for the words of the tables: instruction words and completion records (chapters 02, 03 and 95 of the spec). -/

namespace Sys2Proof.Machine

/-! ## The queue of commands -/

/-- Settles O1: `step` takes the queue apart by its front. -/
theorem stepRunsTheFrontCommand : Obligations.StepRunsTheFrontCommand := by
  intro s i rest hfront
  rw [step, hfront]

theorem step_nil {s : State} (hempty : s.pending = []) : step s = .next (idle s) := by rw [step, hempty]

/-- An idle step counts one step of the timestamp, or none at the last count of a window (R346). -/
theorem idle_eq (s : State) : ∃ n ≤ 2, idle s = { s with now := s.now + n } := by
  unfold idle
  split
  · exact ⟨0, Nat.zero_le 2, rfl⟩
  · exact ⟨2, Nat.le_refl 2, rfl⟩

/-- Settles O2: an empty queue idles, and idling moves the time alone. -/
theorem stepIdlesOnAnEmptyQueue : Obligations.StepIdlesOnAnEmptyQueue := by
  intro s hempty
  obtain ⟨n, hn, hidle⟩ := idle_eq s
  refine ⟨idle s, step_nil hempty, ?_⟩
  rw [hidle]
  exact ⟨Nat.le_add_right _ _, Nat.add_le_add_left hn _, rfl⟩

/-! ## Fields of a packed word -/

/-- The fields (lowest bit, width, value) follow one another from bit n on. -/
def LaidFrom : Nat → List (Nat × Nat × Nat) → Prop
  | _, [] => True
  | n, (lo, width, _) :: fs => n ≤ lo ∧ LaidFrom (lo + width) fs

theorem LaidFrom.dvd_pack {n : Nat} {fs : List (Nat × Nat × Nat)} (h : LaidFrom n fs) : 2 ^ n ∣ pack fs := by
  induction fs generalizing n with
  | nil => exact Nat.dvd_zero _
  | cons f fs ih =>
    obtain ⟨lo, width, v⟩ := f
    obtain ⟨hlo, hrest⟩ := h
    rw [pack_cons]
    exact Nat.dvd_add (Dvd.dvd.mul_left (Nat.pow_dvd_pow 2 hlo) _) ((Nat.pow_dvd_pow 2 (by omega)).trans (ih hrest))

theorem LaidFrom.le_of_mem {n lo width v : Nat} {fs : List (Nat × Nat × Nat)} (h : LaidFrom n fs) (hmem : (lo, width, v) ∈ fs) : n ≤ lo := by
  induction fs generalizing n with
  | nil => cases hmem
  | cons f fs ih =>
    obtain ⟨hlo, hrest⟩ := h
    rcases List.mem_cons.mp hmem with rfl | hmem
    · exact hlo
    · have := ih hrest hmem
      omega

/-- Fields that follow one another below bit m make a word below 2^m. -/
theorem LaidFrom.pack_lt {n m : Nat} {fs : List (Nat × Nat × Nat)} (h : LaidFrom n fs) (hn : n ≤ m) (hend : ∀ f ∈ fs, f.1 + f.2.1 ≤ m) : pack fs < 2 ^ m := by
  have hroom : pack fs + 2 ^ n ≤ 2 ^ m := by
    induction fs generalizing n with
    | nil => simpa [pack_nil] using Nat.pow_le_pow_right Nat.two_pos hn
    | cons f fs ih =>
      obtain ⟨lo, width, v⟩ := f
      obtain ⟨hlo, hrest⟩ := h
      obtain ⟨hfield, hends⟩ := List.forall_mem_cons.mp hend
      have habove := ih hrest hfield hends
      have hbelow : 2 ^ n ≤ 2 ^ lo := Nat.pow_le_pow_right Nat.two_pos hlo
      have hvalue : (v % 2 ^ width + 1) * 2 ^ lo ≤ 2 ^ (lo + width) := by
        rw [Nat.pow_add, Nat.mul_comm]
        exact Nat.mul_le_mul_left _ (Nat.mod_lt _ (Nat.two_pow_pos _))
      rw [Nat.add_one_mul] at hvalue
      rw [pack_cons]
      omega
  have := Nat.two_pow_pos n
  omega

/-- A field is read back from a word that is packed of fields that follow one another: the fields below it lie under its lowest bit, those above it are multiples of the bit after it. -/
theorem bitsOf_pack {n lo width v hi : Nat} {fs : List (Nat × Nat × Nat)} (h : LaidFrom n fs) (hmem : (lo, width, v) ∈ fs) (hhi : hi + 1 = lo + width) :
    bitsOf (pack fs) hi lo = v % 2 ^ width := by
  induction fs generalizing n with
  | nil => cases hmem
  | cons f fs ih =>
    obtain ⟨lo', width', v'⟩ := f
    obtain ⟨-, hrest⟩ := h
    obtain ⟨q, hq⟩ := hrest.dvd_pack
    have hwidth : hi + 1 - lo = width := by omega
    rcases List.mem_cons.mp hmem with hhead | hmem
    · obtain ⟨rfl, rfl, rfl⟩ : lo = lo' ∧ width = width' ∧ v = v' := by simpa using hhead
      have hsplit : pack ((lo, width, v) :: fs) = (v % 2 ^ width + 2 ^ width * q) * 2 ^ lo := by
        rw [pack_cons, hq, Nat.pow_add]
        ring
      rw [bitsOf, hwidth, hsplit, Nat.shiftRight_eq_div_pow, Nat.mul_div_cancel _ (Nat.two_pow_pos lo), Nat.add_mul_mod_self_left, Nat.mod_mod]
    · have hlow : v' % 2 ^ width' * 2 ^ lo' < 2 ^ (lo' + width') := by
        rw [Nat.pow_add, Nat.mul_comm]
        exact Nat.mul_lt_mul_of_pos_left (Nat.mod_lt _ (Nat.two_pow_pos _)) (Nat.two_pow_pos _)
      have hlift : 2 ^ lo = 2 ^ (lo' + width') * 2 ^ (lo - (lo' + width')) := by
        rw [← Nat.pow_add, Nat.add_sub_cancel' (hrest.le_of_mem hmem)]
      have hdrop : pack ((lo', width', v') :: fs) / 2 ^ lo = pack fs / 2 ^ lo := by
        rw [pack_cons, hq, hlift, ← Nat.div_div_eq_div_mul, ← Nat.div_div_eq_div_mul, Nat.add_mul_div_left _ _ (Nat.two_pow_pos _), Nat.div_eq_of_lt hlow, Nat.zero_add,
          Nat.mul_div_cancel_left _ (Nat.two_pow_pos _)]
      rw [← ih hrest hmem, bitsOf, bitsOf, Nat.shiftRight_eq_div_pow, Nat.shiftRight_eq_div_pow, hdrop]

/-- Every field of a word that is packed of fields that follow one another reads back, cut to its width. -/
theorem forall_bitsOf_pack {fs : List (Nat × Nat × Nat)} (h : LaidFrom 0 fs) : ∀ f ∈ fs, ∀ hi, hi + 1 = f.1 + f.2.1 → bitsOf (pack fs) hi f.1 = f.2.2 % 2 ^ f.2.1 :=
  fun _ hmem _ hhi => bitsOf_pack h hmem hhi

/-! ## Completion records (Table 3.1) -/

/-- The fields of a completion record in their order, the reserved bits [111:107] with them. -/
def recordFields (s : State) (r : Req) (st h fl d det res : Nat) : List (Nat × Nat × Nat) :=
  [(0, 8, 0xC1), (8, 8, st), (16, 8, r.opcode), (24, 8, partyNum r.who), (32, 32, r.pc), (64, 32, h), (96, 8, fl + b2n r.ladle + 2 * b2n r.merged + 128 * r.slot), (104, 3, d),
    (107, 5, 0), (112, 16, det), (128, 64, s.now), (192, 64, res)]

theorem reqData_eq_pack (s : State) (r : Req) (st h fl d det res : Nat) : reqData s r st h fl d det res = pack (recordFields s r st h fl d det res) := by
  simp only [reqData, recordFields, pack_cons, Nat.zero_mod, Nat.zero_mul, Nat.zero_add]

/-- Settles O48: the record is packed of fields that follow one another, the reserved bits being one that holds 0. -/
theorem completionRecordsHaveTheirLayout : Obligations.CompletionRecordsHaveTheirLayout := by
  intro s r st h fl d det res
  have hlaid : LaidFrom 0 (recordFields s r st h fl d det res) := by simp [recordFields, LaidFrom]
  have hread := forall_bitsOf_pack hlaid
  simp only [recordFields, List.forall_mem_cons] at hread
  obtain ⟨hmark, hst, hop, hwho, hpc, hhdl, hfl, hdisp, hrsv, hdet, hnow, hres, -⟩ := hread
  dsimp only
  rw [reqData_eq_pack]
  exact ⟨hmark 7 rfl, hst 15 rfl, hop 23 rfl, hwho 31 rfl, hpc 63 rfl, hhdl 95 rfl, hfl 103 rfl, hdisp 106 rfl, hrsv 111 rfl, hdet 127 rfl, hnow 191 rfl, hres 255 rfl⟩

/-! ## Instruction words (Tables 2.5 and 2.7) -/

/-- The fields of a base word in their order (Table 2.5). -/
def baseFields (b : Base) : List (Nat × Nat × Nat) :=
  [(0, 8, b.opcode), (8, 3, b.next), (11, 1, b.rsvA), (12, 2, b.fmt), (14, 2, b.cmode), (16, 12, b.cq), (28, 13, b.csem), (41, 1, b.areg), (42, 1, b.breg), (43, 1, b.dln),
    (44, 4, b.rsvB), (48, 32, b.opa), (80, 32, b.opb), (112, 16, b.aux)]

/-- The fields of a deadline word in their order (Table 2.7). -/
def dlFields (d : DlWord) : List (Nat × Nat × Nat) := [(0, 2, d.dkind), (2, 6, d.rsvA), (8, 8, d.pline), (16, 16, d.rsvB), (32, 48, d.offset), (80, 48, d.rsvC)]

/-- Every value of the list fits its field. -/
def AllFit (fs : List (Nat × Nat × Nat)) : Prop := ∀ f ∈ fs, f.2.2 < 2 ^ f.2.1

theorem pack_cons_of_lt {lo width v : Nat} (fs : List (Nat × Nat × Nat)) (h : v < 2 ^ width) : pack ((lo, width, v) :: fs) = v * 2 ^ lo + pack fs := by
  rw [pack_cons, Nat.mod_eq_of_lt h]

theorem bitsOf_pack_fits {fs : List (Nat × Nat × Nat)} (hlaid : LaidFrom 0 fs) (hfit : AllFit fs) :
    ∀ f ∈ fs, ∀ hi, hi + 1 = f.1 + f.2.1 → bitsOf (pack fs) hi f.1 = f.2.2 :=
  fun f hmem _ hhi => (bitsOf_pack hlaid hmem hhi).trans (Nat.mod_eq_of_lt (hfit f hmem))

theorem Base.fits_iff (b : Base) : b.fits = true ↔ AllFit (baseFields b) := by
  simp [Base.fits, AllFit, baseFields, and_assoc]

theorem DlWord.fits_iff (d : DlWord) : d.fits = true ↔ AllFit (dlFields d) := by
  simp [DlWord.fits, AllFit, dlFields, and_assoc]

theorem encodeBase_eq_pack {b : Base} (h : b.fits = true) : encodeBase b = pack (baseFields b) := by
  have hfit := (Base.fits_iff b).mp h
  simp only [AllFit, baseFields, List.forall_mem_cons] at hfit
  simp only [encodeBase, baseFields, pack_cons_of_lt, hfit, pack_nil, Nat.pow_zero, Nat.mul_one, Nat.add_zero, Nat.add_assoc]

theorem encodeDl_eq_pack {d : DlWord} (h : d.fits = true) : encodeDl d = pack (dlFields d) := by
  have hfit := (DlWord.fits_iff d).mp h
  simp only [AllFit, dlFields, List.forall_mem_cons] at hfit
  simp only [encodeDl, dlFields, pack_cons_of_lt, hfit, pack_nil, Nat.pow_zero, Nat.mul_one, Nat.add_zero, Nat.add_assoc]

theorem baseFields_laid (b : Base) : LaidFrom 0 (baseFields b) := by simp [baseFields, LaidFrom]

theorem dlFields_laid (d : DlWord) : LaidFrom 0 (dlFields d) := by simp [dlFields, LaidFrom]

theorem encodeBase_lt {b : Base} (h : b.fits = true) : encodeBase b < 2 ^ 128 := by
  rw [encodeBase_eq_pack h]
  exact (baseFields_laid b).pack_lt (by decide) (by simp [baseFields])

theorem encodeDl_lt {d : DlWord} (h : d.fits = true) : encodeDl d < 2 ^ 128 := by
  rw [encodeDl_eq_pack h]
  exact (dlFields_laid d).pack_lt (by decide) (by simp [dlFields])

theorem decodeBase_encodeBase {b : Base} (h : b.fits = true) : decodeBase (encodeBase b) = b := by
  have hread := bitsOf_pack_fits (baseFields_laid b) ((Base.fits_iff b).mp h)
  rw [encodeBase_eq_pack h]
  generalize pack (baseFields b) = w at hread ⊢
  simp only [baseFields, List.forall_mem_cons] at hread
  obtain ⟨hopcode, hnext, hrsvA, hfmt, hcmode, hcq, hcsem, hareg, hbreg, hdln, hrsvB, hopa, hopb, haux, -⟩ := hread
  simp only [decodeBase, hopcode 7 rfl, hnext 10 rfl, hrsvA 11 rfl, hfmt 13 rfl, hcmode 15 rfl, hcq 27 rfl, hcsem 40 rfl, hareg 41 rfl, hbreg 42 rfl, hdln 43 rfl, hrsvB 47 rfl,
    hopa 79 rfl, hopb 111 rfl, haux 127 rfl]

theorem decodeDl_encodeDl {d : DlWord} (h : d.fits = true) : decodeDl (encodeDl d) = d := by
  have hread := bitsOf_pack_fits (dlFields_laid d) ((DlWord.fits_iff d).mp h)
  rw [encodeDl_eq_pack h]
  generalize pack (dlFields d) = w at hread ⊢
  simp only [dlFields, List.forall_mem_cons] at hread
  obtain ⟨hdkind, hrsvA, hpline, hrsvB, hoffset, hrsvC, -⟩ := hread
  simp only [decodeDl, hdkind 1 rfl, hrsvA 7 rfl, hpline 15 rfl, hrsvB 31 rfl, hoffset 79 rfl, hrsvC 127 rfl]

/-! A word decoded encodes to itself: its fields, taken from the lowest up, are its bits below ever higher bounds. -/

theorem bitsOf_lowest (w hi : Nat) : bitsOf w hi 0 = w % 2 ^ (hi + 1) := by rw [bitsOf, Nat.shiftRight_zero, Nat.sub_zero]

theorem mod_add_bitsOf (w hi lo : Nat) (h : lo ≤ hi + 1) : w % 2 ^ lo + bitsOf w hi lo * 2 ^ lo = w % 2 ^ (hi + 1) := by
  rw [bitsOf, Nat.shiftRight_eq_div_pow, Nat.mul_comm, ← Nat.mod_mul, ← Nat.pow_add, Nat.add_sub_cancel' h]

theorem encodeBase_decodeBase (w : Nat) : encodeBase (decodeBase w) = w % 2 ^ 128 := by
  simp only [encodeBase, decodeBase, bitsOf_lowest, mod_add_bitsOf, Nat.reduceAdd, Nat.reduceLeDiff]

theorem encodeDl_decodeDl (w : Nat) : encodeDl (decodeDl w) = w % 2 ^ 128 := by
  simp only [encodeDl, decodeDl, bitsOf_lowest, mod_add_bitsOf, Nat.reduceAdd, Nat.reduceLeDiff]

theorem decodeBase_fits (w : Nat) : (decodeBase w).fits = true := by
  simp only [Base.fits_iff, AllFit, baseFields, decodeBase, List.forall_mem_cons]
  exact ⟨bitsOf_lt w 7 0, bitsOf_lt w 10 8, bitsOf_lt w 11 11, bitsOf_lt w 13 12, bitsOf_lt w 15 14, bitsOf_lt w 27 16, bitsOf_lt w 40 28, bitsOf_lt w 41 41, bitsOf_lt w 42 42,
    bitsOf_lt w 43 43, bitsOf_lt w 47 44, bitsOf_lt w 79 48, bitsOf_lt w 111 80, bitsOf_lt w 127 112, List.forall_mem_nil _⟩

theorem decodeDl_fits (w : Nat) : (decodeDl w).fits = true := by
  simp only [DlWord.fits_iff, AllFit, dlFields, decodeDl, List.forall_mem_cons]
  exact ⟨bitsOf_lt w 1 0, bitsOf_lt w 7 2, bitsOf_lt w 15 8, bitsOf_lt w 31 16, bitsOf_lt w 79 32, bitsOf_lt w 127 80, List.forall_mem_nil _⟩

/-- Settles O56: a word is packed of fields that follow one another from bit 0 to bit 127. -/
theorem instructionWordsKeepEveryField : Obligations.InstructionWordsKeepEveryField :=
  ⟨fun _ h => ⟨decodeBase_encodeBase h, encodeBase_lt h⟩, fun w hw => ⟨(encodeBase_decodeBase w).trans (Nat.mod_eq_of_lt hw), decodeBase_fits w⟩,
    fun _ h => ⟨decodeDl_encodeDl h, encodeDl_lt h⟩, fun w hw => ⟨(encodeDl_decodeDl w).trans (Nat.mod_eq_of_lt hw), decodeDl_fits w⟩⟩

/-- Settles O57: the fields of the words, computed. -/
theorem sampleWordsDecodeAsTheTablesSay : Obligations.SampleWordsDecodeAsTheTablesSay := by
  unfold Obligations.SampleWordsDecodeAsTheTablesSay
  decide

end Sys2Proof.Machine

/-! Proofs for the lifecycle, the programming supply and the partitions' keys (chapter 12 of the spec). -/

namespace Sys2Proof.Machine

/-! ## Lifecycle requests (R310, R311) -/

section Requests

variable {s : State} {r : LcReq}

/-- The state in which a transition to `target` is under way: every START and LOAD is held, every partition disables in ABORT mode (R311 step 1). -/
def transitionBegun (s : State) (target : Nat) (ident : W64) : State :=
  (List.range 16).foldl (fun s p => partDisable s p true) { s with lc := { s.lc with held := true, busy := some target, newIdent := ident } }

theorem lcStart_permitted (hpermits : lcPermits s.lc.inForce r.target = true) (hsig : r.sigOk = true) (hident : r.target = 3 → r.ident = s.lc.ident) :
    lcStart s r = transitionBegun s r.target r.ident := by
  unfold lcStart
  rw [if_neg (by simp [hpermits, hsig]), if_neg (by simp [hsig]), if_neg (fun h => h.2 (hident h.1))]
  rfl

theorem lcStart_forbidden (hforbidden : lcPermits s.lc.inForce r.target = false) : lcStart s r = lcRefuse s 1 := if_pos (.inl (by rw [hforbidden]; rfl))

/-- A wrong CONFIRM of SCRAP has cause 1, a wrong signature cause 2. -/
theorem lcStart_wrongSignature (hpermits : lcPermits s.lc.inForce r.target = true) (htarget : r.target ≠ 4) (hsig : r.sigOk = false) : lcStart s r = lcRefuse s 2 := by
  unfold lcStart
  rw [if_neg (by simp [hpermits, htarget]), if_pos (by rw [hsig]; rfl)]

variable (hlive : s.lc.inForce ≠ 4) (hup : (s.core 0).up = true) (hfree : s.lc.busy = none)
include hlive hup hfree

/-- A request that finds the security core running and at leisure is taken at once. -/
theorem lcRequest_taken (r : LcReq) : lcRequest s r = lcStart s r := by
  unfold lcRequest
  rw [if_neg hlive, if_neg (by simp [hup, hfree])]

theorem happens_lcRequest {t : State} (hstart : lcStart s r = t) : happens true s (lcRequest s r) = .next (settle t) := by
  rw [happens_of_true true s _ rfl, lcRequest_taken hlive hup hfree, hstart]

theorem exec_provision (ident : W64) (hpermits : lcPermits s.lc.inForce 1 = true) : exec (.provision ident) s = .next (settle (transitionBegun s 1 ident)) :=
  happens_lcRequest hlive hup hfree (lcStart_permitted hpermits rfl (nofun))

theorem exec_user (hpermits : lcPermits s.lc.inForce 2 = true) : exec (.user true) s = .next (settle (transitionBegun s 2 0)) :=
  happens_lcRequest hlive hup hfree (lcStart_permitted hpermits rfl (nofun))

theorem exec_rma (hpermits : lcPermits s.lc.inForce 3 = true) : exec (.rma true s.lc.ident) s = .next (settle (transitionBegun s 3 s.lc.ident)) :=
  happens_lcRequest hlive hup hfree (lcStart_permitted hpermits rfl fun _ => rfl)

theorem exec_scrap (hpermits : lcPermits s.lc.inForce 4 = true) : exec (.scrap 0x5A) s = .next (settle (transitionBegun s 4 0)) :=
  happens_lcRequest hlive hup hfree (lcStart_permitted hpermits rfl (nofun))

theorem exec_user_forbidden (hforbidden : lcPermits s.lc.inForce 2 = false) : exec (.user true) s = .next (settle (lcRefuse s 1)) :=
  happens_lcRequest hlive hup hfree (lcStart_forbidden hforbidden)

theorem exec_user_wrongSignature (hpermits : lcPermits s.lc.inForce 2 = true) : exec (.user false) s = .next (settle (lcRefuse s 2)) :=
  happens_lcRequest hlive hup hfree (lcStart_wrongSignature hpermits (by decide) rfl)

end Requests

/-! ## The programming supply (R311, R312) -/

section Supply

variable {s : State} {t : Nat}

theorem programming_of_enabled (hbusy : s.lc.busy = some t) (hvpp : s.lc.vppEn = true) : programming s = true := by simp [programming, hbusy, hvpp]

theorem vppLate_of_waited (hbusy : s.lc.busy = some t) (hvpp : s.lc.vppEn = true) (hlate : s.lc.vppAt + 100000 ≤ s.now) : vppLate s = true := by
  simp [vppLate, hbusy, hvpp, hlate]

/-- Only the transition to RMA erases before it blows its fuse (R312). -/
theorem vppOk_of_not_rma (e : Bool) (hbusy : s.lc.busy = some t) (hrma : t ≠ 3) : vppOk s e = lcBlow s t := by
  unfold vppOk
  rw [hbusy]
  split
  · next h => exact absurd (Option.some.inj h) hrma
  · next h => rw [Option.some.inj h]
  · next h => cases h

theorem exec_vppOk (e : Bool) (hbusy : s.lc.busy = some t) (hvpp : s.lc.vppEn = true) (hup : (s.core 0).up = true) :
    exec (.vppOk e) s = .next (settle (vppOk s e)) :=
  happens_of_true _ s _ (by rw [programming_of_enabled hbusy hvpp, hup, Bool.and_self])

theorem exec_vppTimeout (hbusy : s.lc.busy = some t) (hvpp : s.lc.vppEn = true) (hlate : s.lc.vppAt + 100000 ≤ s.now) :
    exec .vppTimeout s = .next (settle (lcEnd (lcRefuse s 3))) :=
  happens_of_true _ s _ (vppLate_of_waited hbusy hvpp hlate)

theorem exec_vppLoss (killed : Bool) (hbusy : s.lc.busy = some t) (hvpp : s.lc.vppEn = true) : exec (.vppLoss killed) s = .next (settle (vppLoss s killed)) :=
  happens_of_true _ s _ (programming_of_enabled hbusy hvpp)

theorem exec_supplyFail (s : State) : exec .supplyFail s = .next (settle (supplyFail s)) := happens_of_true true s _ rfl

end Supply

/-! ## The partitions' keys (R317) -/

section Keys

variable {s : State} {p : Nat}

theorem locate_keyCtl : locate 0xF0410 = some ⟨⟨.keyCtl, 0xF0410, 32, [0xFF0000FF], [0xFF0000FF], 1, 0x1, 1, 1⟩, 0, 0, 0xF0410⟩ := rfl

theorem cmdWord_lt {cmd n : Nat} (hcmd : cmd < 16) (hn : n < 16) : cmdWord cmd n 0x5A < 2 ^ 32 := by
  unfold cmdWord
  omega

/-- A command word with its CONFIRM byte right gives the command and the partition. -/
theorem keyCtlPut_cmdWord (s : State) {cmd n : Nat} (hcmd : cmd < 16) (hn : n < 16) : keyCtlPut s (cmdWord cmd n 0x5A) = keyCommand s cmd n := by
  have hfields : bitsOf (cmdWord cmd n 0x5A) 31 24 = 0x5A ∧ bitsOf (cmdWord cmd n 0x5A) 3 0 = cmd ∧ bitsOf (cmdWord cmd n 0x5A) 7 4 = n := by
    simp only [bitsOf, cmdWord, Nat.shiftRight_eq_div_pow]
    omega
  obtain ⟨hconfirm, hcmd, hpart⟩ := hfields
  rw [keyCtlPut, if_pos hconfirm, hcmd, hpart]

theorem keyCommand_install (hok : keyCause s p = 0) : keyCommand s 1 p = { s with lc := { s.lc with keyBusy := some p } } := by simp [keyCommand, hok]

theorem keyCommand_remove (hok : keyCause s p = 0) (hup : (s.core 0).up = true) : keyCommand s 2 p = removeKey s p := by simp [keyCommand, hok, hup]

theorem exec_install {p : BitVec 4} (hwrite : writeOk s 0xF0410 32 (cmdWord 1 p.toNat 0x5A) = true) (hok : keyCause s p.toNat = 0) :
    exec (.install p 0x5A) s = .next (settle (stampVer { s with lc := { s.lc with keyBusy := some p.toNat } })) :=
  wrote_emu locate_keyCtl rfl hwrite (cmdWord_lt (by decide) p.isLt) (by decide) ((keyCtlPut_cmdWord s (by decide) p.isLt).trans (keyCommand_install hok))

theorem exec_remove {p : BitVec 4} (hwrite : writeOk s 0xF0410 32 (cmdWord 2 p.toNat 0x5A) = true) (hok : keyCause s p.toNat = 0) (hup : (s.core 0).up = true) :
    exec (.remove p 0x5A) s = .next (settle (stampVer (removeKey s p.toNat))) :=
  wrote_emu locate_keyCtl rfl hwrite (cmdWord_lt (by decide) p.isLt) (by decide) ((keyCtlPut_cmdWord s (by decide) p.isLt).trans (keyCommand_remove hok hup))

theorem exec_keyCommandDone (salt : W128) (hup : (s.core 0).up = true) (hbusy : s.lc.keyBusy = some p) :
    exec (.keyCommandDone salt) s = .next (settle (keyDone s p salt)) :=
  arises_some (by rw [if_pos hup, hbusy]; rfl)

/-- The key that the words of PRG_KEY_XFER unwrap to for a partition (R317). -/
def unwrapped (s : State) (p : Nat) : Option (BitVec 256) := Config.keyUnwrap (dukNow s) s.lc.ident p (xferWords s 0 12) (xferWords s 12 5)

/-- A partition that holds a fresh key: its nonce starts again, its KEYGEN is the next. -/
def Part.keyed (v : Part) (k : BitVec 256) (salt : W128) : Part := { v with key := k, keyValid := true, salt := salt, nonce := 0, keygen := (v.keygen + 1) % 65536 }

theorem keyDone_parts {salt : W128} {k : BitVec 256} (hkey : unwrapped s p = some k) : (keyDone s p salt).parts = (s.modPart p fun v => v.keyed k salt).parts := by
  rw [unwrapped] at hkey
  rw [keyDone, hkey]
  rfl

theorem keyDone_failed {salt : W128} (hkey : unwrapped s p = none) : keyDone s p salt = keyRefuse { s with lc := { s.lc with keyBusy := none } } 3 := by
  rw [unwrapped] at hkey
  rw [keyDone, hkey]

theorem keyDone_keyBusy (salt : W128) : (keyDone s p salt).lc.keyBusy = none := by
  unfold keyDone
  split <;> rfl

theorem keyDone_part {salt : W128} {k : BitVec 256} (hkey : unwrapped s p = some k) : (keyDone s p salt).part p = (s.part p).keyed k salt := by
  rw [State.part, keyDone_parts hkey]
  exact part_modPart s p _

end Keys

/-- Settles O35: a request taken at leisure is judged by Table 12.1 and its signature; a supply event finds the transition it needs; a key command is a write of PRG_KEY_CTL. -/
theorem lifecycleAndKeysTakeEffect : Obligations.LifecycleAndKeysTakeEffect := by
  refine ⟨⟨?permitted, ?rma, ?refused⟩, ⟨?blown, ?erased, ?late, ?lost, exec_supplyFail⟩, ?install, ?remove, ?done⟩
  case permitted =>
    intro k target id s hk hlive hup hfree hpermits
    simp only [List.mem_cons, List.not_mem_nil, or_false, Prod.mk.injEq] at hk
    obtain ⟨rfl, rfl, hid⟩ | ⟨rfl, rfl, rfl⟩ | ⟨rfl, rfl, rfl⟩ := hk
    · exact exec_provision hlive hup hfree id hpermits
    · exact exec_user hlive hup hfree hpermits
    · exact exec_scrap hlive hup hfree hpermits
  case rma =>
    intro s hlive hup hfree hpermits
    exact exec_rma hlive hup hfree hpermits
  case refused =>
    intro s hlive hup hfree
    exact ⟨exec_user_forbidden hlive hup hfree, exec_user_wrongSignature hlive hup hfree⟩
  case blown =>
    intro e s t hbusy hrma hvpp hup
    rw [exec_vppOk e hbusy hvpp hup, vppOk_of_not_rma e hbusy hrma]
  case erased =>
    intro e s hbusy hvpp hup
    exact exec_vppOk e hbusy hvpp hup
  case late =>
    intro s t hbusy hvpp hlate
    exact exec_vppTimeout hbusy hvpp hlate
  case lost =>
    intro s t killed hbusy hvpp
    exact exec_vppLoss killed hbusy hvpp
  case install =>
    intro p s hwrite hok
    exact exec_install hwrite hok
  case remove =>
    intro p s hwrite hok hup
    exact exec_remove hwrite hok hup
  case done =>
    intro salt s p hup hbusy
    refine ⟨keyDone s p salt, exec_keyCommandDone salt hup hbusy, keyDone_keyBusy salt, fun k hkey => ?_, fun hkey => ?_⟩
    · rw [keyDone_part hkey]
      exact ⟨rfl, rfl, rfl, rfl, rfl⟩
    · rw [keyDone_failed hkey]
      exact ⟨rfl, rfl, rfl⟩

end Sys2Proof.Machine

/-! Proofs for self-test in operation and for the samples of the tensor-watch taps (chapters 12 and 13 of the spec). -/

namespace Sys2Proof.Machine

/-! ## Self-test slices (R323 to R328) -/

section Slices

variable {s : State}

/-- The round has come to the i-th unit: the next visit looks from the unit after it (R323). -/
def roundPast (s : State) (i : Nat) : State := { s with bist := { s.bist with pos := (i + 1) % roundUnits.length } }

theorem exec_bistSlice {i kind u : Nat} (hdue : visitDue s = some (i, kind, u)) : exec .bistSlice s = .next (settle (bistVisit s i kind u)) :=
  arises_some (by rw [hdue]; rfl)

theorem bistVisit_starts {i kind u : Nat} (hvisits : sliceSkip (roundPast s i) kind u = false) :
    bistVisit s i kind u = sliceStart { roundPast s i with bist := { (roundPast s i).bist with lastStart := (roundPast s i).now } } kind u :=
  if_neg (ne_true_of_eq_false hvisits)

theorem bistVisit_skips {i kind u : Nat} (hskips : sliceSkip (roundPast s i) kind u = true) : bistVisit s i kind u = bistDefer (roundPast s i) := if_pos hskips

variable {kind : BitVec 4} {x : Nat × Nat × Nat}

theorem exec_bistSliceEnd {pass : Bool} (rows : Nat) (row : BitVec 16) (bit : BitVec 10) (hslice : sliceOf? s kind.toNat = some x) (hready : sliceReady s x pass = true) :
    exec (.bistSliceEnd kind pass rows row bit) s = .next (settle (sliceEnd s x pass rows row.toNat bit.toNat)) :=
  arises_some (by rw [hslice, Option.bind_some, if_pos hready])

theorem exec_marchYield (hslice : sliceOf? s kind.toNat = some x) (hneeded : marchNeeded s x = true) : exec (.marchYield kind) s = .next (settle (marchYield s x)) :=
  arises_some (by rw [hslice, Option.bind_some, if_pos hneeded])

end Slices

/-! ## Samples of the taps (R339, R340) -/

section Samples

variable {s : State} {o : Op}

theorem sampleDue_of_complete {t : Nat} (hop : sampleOp s t = some o) (hrun : o.phase = .running) (hread : xferDone s o = true) : sampleDue s t = some o := by
  rw [sampleDue, hop, Option.bind_some, if_pos ⟨hrun, hread⟩]

theorem exec_watchSample {t : BitVec 9} (r : RdRes) (hdue : sampleDue s t.toNat = some o) :
    exec (.watchSample t r) s = .next (settle (if r = .ok then sampleTap s o t.toNat else watchSkip s o t.toNat)) :=
  arises_some (by rw [hdue]; rfl)

/-- A sample fails where its read met an error, or where its object is gone or lost by now (R339). -/
abbrev SampleFails (s : State) (o : Op) (t : Nat) : Prop :=
  o.x.srcBad = true ∨ o.x.bad ≠ 0 ∨ ((s.obj (hIdx (s.tapOf t).hdl)).st ≠ .resident ∧ (s.obj (hIdx (s.tapOf t).hdl)).st ≠ .inTransit)

theorem sampleTap_fails {t : Nat} (hfails : SampleFails s o t) : sampleTap s o t = watchSkip s o t := by
  unfold sampleTap
  simp only [if_pos hfails]

/-- A tap with a digest and no statistic has nothing but the digest to take of the raw bytes: its history stands, and no event is raised beside the sample's own. -/
theorem sampleTap_digest {t : Nat} {bs : List Byte} (hgood : ¬SampleFails s o t) (hraw : rawBytes s (hIdx (s.tapOf t).hdl) = some bs) (hstat : (s.tapOf t).stat = 0)
    (hdigest : (s.tapOf t).digest = true) :
    let w := decodeNow (s.delOp o.id) none (hIdx (s.tapOf t).hdl)
    sampleTap s o t = watchGo (raiseEv ((w.ticks 1).setTap t { s.tapOf t with samples := min ((s.tapOf t).samples + 1) (2 ^ 32 - 1), time := w.now, crc := crc64 bs })
      (s.tapOf t).part 3 t []) t := by
  unfold sampleTap
  simp only [if_neg hgood, hraw]
  simp [hstat, hdigest, satAdd]

end Samples

/-- Settles O36: a visit, the end and the yield of a slice need only that they are due; a sample is due once its read is complete, and it is taken or skipped. -/
theorem selfTestTakesEffect : Obligations.SelfTestTakesEffect := by
  refine ⟨⟨?visit, ?ends, ?yields⟩, ?due, ?sample⟩
  case visit =>
    intro s i kind u t hdue
    rw [exec_bistSlice hdue]
    exact ⟨fun hvisits => by rw [bistVisit_starts hvisits]; rfl, fun hskips => by rw [bistVisit_skips hskips]; rfl⟩
  case ends =>
    intro kind pass rows row bit s x hslice hready
    exact exec_bistSliceEnd rows row bit hslice hready
  case yields =>
    intro kind s x hslice hneeded
    exact exec_marchYield hslice hneeded
  case due =>
    intro t o s hop hrun hread
    have hdue := sampleDue_of_complete hop hrun hread
    exact ⟨exec_watchSample .ok hdue, exec_watchSample .checkFail hdue, exec_watchSample .portFault hdue⟩
  case sample =>
    intro t o s x failed
    exact ⟨sampleTap_fails, fun bs hgood hraw hstat hdigest => sampleTap_digest hgood hraw hstat hdigest⟩

end Sys2Proof.Machine
